-- ==== Sys2Proof/Word.lean ====
section
/-! DEFINITION. The word types of the GZ-960: 64-bit scalar words, 32-bit grid cells and instruction lanes, bytes, and the five-bit register numbers of R53. -/

namespace Sys2Proof

/-- A scalar register or state register (R87, R105). -/
abbrev Word := BitVec 64

/-- A grid cell, a plane cell, or one lane of a fetch line (R43, R150). -/
abbrev Cell32 := BitVec 32

/-- A byte of storage (R10). -/
abbrev Byte := BitVec 8

/-- A scalar register number s0 to s31 (R53). -/
abbrev Reg := BitVec 5

end Sys2Proof
end

