-- ==== Sys2Proof/Machine/Bits.lean ====
section
/-! DEFINITION. Sparse tables (a sorted list of keys and values, a default for every key that is not listed), bit fields of words, and little-endian byte order (R10). -/

namespace Sys2Proof.Machine

/-- A table: keys with values. -/
abbrev Tab (α : Type) := List (Nat × α)

/-- A table of bit vectors that is zero at every key it does not list. -/
abbrev Bits (w : Nat) := List (Nat × BitVec w)

/-- The value of a key, or the default. -/
def lookupD {α : Type} (d : α) : List (Nat × α) → Nat → α
  | [], _ => d
  | (k, v) :: t, i => if k = i then v else lookupD d t i

/-- Whether a key is listed. -/
def hasKey {α : Type} : List (Nat × α) → Nat → Bool
  | [], _ => false
  | (k, _) :: t, i => k == i || hasKey t i

/-- The value of a key, when it is listed. -/
def lookup? {α : Type} : List (Nat × α) → Nat → Option α
  | [], _ => none
  | (k, v) :: t, i => if k = i then some v else lookup? t i

/-- A table without a key. -/
def dropKey {α : Type} : List (Nat × α) → Nat → List (Nat × α)
  | [], _ => []
  | (k, v) :: t, i => if k = i then dropKey t i else (k, v) :: dropKey t i

/-- Put a pair at its place in the order of keys. -/
def insertKey {α : Type} (i : Nat) (x : α) : List (Nat × α) → List (Nat × α)
  | [] => [(i, x)]
  | (k, v) :: t => if i < k then (i, x) :: (k, v) :: t else (k, v) :: insertKey i x t

/-- Set a key of a table. -/
def putKey {α : Type} (l : List (Nat × α)) (i : Nat) (x : α) : List (Nat × α) := insertKey i x (dropKey l i)

/-- Read a bit-vector table. -/
def Bits.get {w : Nat} (l : Bits w) (i : Nat) : BitVec w := lookupD 0 l i

/-- Write a bit-vector table; writing zero removes the key. -/
def Bits.put {w : Nat} (l : Bits w) (i : Nat) (x : BitVec w) : Bits w :=
  if x = 0 then dropKey l i else putKey l i x

/-- The canonical form: keys strictly rising, no zero listed. -/
def Bits.wf {w : Nat} : Bits w → Bool
  | [] => true
  | [(_, v)] => v != 0
  | (k, v) :: (k', v') :: t => v != 0 && decide (k < k') && Bits.wf ((k', v') :: t)

/-- Write the pairs of a list in turn. -/
def Bits.puts {w : Nat} (l : Bits w) : List (Nat × BitVec w) → Bits w
  | [] => l
  | (i, x) :: t => Bits.puts (Bits.put l i x) t

/-- A field of a doubleword as a number. -/
def fld (x : Word) (lo len : Nat) : Nat := (x.toNat >>> lo) % 2 ^ len

/-- A single-bit field of a doubleword. -/
def flag (x : Word) (i : Nat) : Bool := x.getLsbD i

/-- A number as a field of a doubleword, placed at its low bit; the number is cut to the field. -/
def mkFld (lo len v : Nat) : Word := BitVec.ofNat 64 ((v % 2 ^ len) <<< lo)

/-- A doubleword with one field replaced. -/
def setFld (x : Word) (lo len v : Nat) : Word :=
  (x &&& ~~~ (mkFld lo len (2 ^ len - 1))) ||| mkFld lo len v

/-- A Bool as the number 0 or 1. -/
def b2n (b : Bool) : Nat := if b then 1 else 0

/-- The bytes of a number, lowest first (R10). -/
def bytesOf : Nat → Nat → List Byte
  | 0, _ => []
  | n + 1, v => BitVec.ofNat 8 v :: bytesOf n (v / 256)

/-- The number of a list of bytes, lowest first (R10). -/
def natOfBytes : List Byte → Nat
  | [] => 0
  | b :: t => b.toNat + 256 * natOfBytes t

/-- The numbers `a`, `a + 1`, ..., `a + n - 1`. -/
def span (a n : Nat) : List Nat := (List.range n).map (a + ·)

/-- Exclusive or of two byte lists, position by position. -/
def xorBytes : List Byte → List Byte → List Byte
  | a :: s, b :: t => (a ^^^ b) :: xorBytes s t
  | _, _ => []

/-- The element of a list at a position, or the default. -/
def nthD {α : Type} (d : α) : List α → Nat → α
  | [], _ => d
  | x :: _, 0 => x
  | _ :: t, n + 1 => nthD d t n

/-- A list with the element at a position replaced. -/
def setNth {α : Type} : List α → Nat → α → List α
  | [], _, _ => []
  | _ :: t, 0, y => y :: t
  | x :: t, n + 1, y => x :: setNth t n y

end Sys2Proof.Machine
end

