-- ==== Sys2Proof/Machine/Mem.lean ====
section
/-! DEFINITION. Storage: one table of bytes for every storage of the domain, and the keys by which each storage is found in it (R6, R43, R122, R145, R187). -/

namespace Sys2Proof.Machine

/-- All storage of the domain: the bytes that are not zero, by key, keys rising. -/
abbrev Mem := List Host.Cell

/-- A byte of storage. -/
inductive Loc where
  /-- SRAM of a coach: carriage, block and byte in one 25-bit offset (R145). -/
  | sram (coach off : Nat)
  /-- The HBM stack of a coach (R122). -/
  | hbm (coach off : Nat)
  /-- The capacity tier of a die (R187). -/
  | cap (die off : Nat)
  /-- Control memory of a core (R43). -/
  | cmem (core off : Nat)
  /-- Device memory of a die: images, job logs, launch records, handle tables (R11, R21, R142). -/
  | dev (die off : Nat)
  /-- Host memory, by PASID and host address (R334). -/
  | host (pasid addr : Nat)
  /-- The mailbox buffer of a die (R386). -/
  | mbx (die off : Nat)
  /-- The SRAM of a die's management cluster, which only its firmware reaches (R382). -/
  | clu (die off : Nat)
  deriving DecidableEq, Repr

/-- The key of a byte of storage. Each storage has a range of its own: offsets stay below 2^64, and owners apart by 2^64. -/
def Loc.key : Loc → Nat
  | .sram coach off => ((coach * 8 + 0) <<< 64) + off
  | .hbm coach off => ((coach * 8 + 1) <<< 64) + off
  | .cap die off => ((die * 8 + 2) <<< 64) + off
  | .cmem core off => ((core * 8 + 3) <<< 64) + off
  | .dev die off => ((die * 8 + 4) <<< 64) + off
  | .host pasid addr => ((pasid * 8 + 5) <<< 64) + addr
  | .mbx die off => ((die * 8 + 6) <<< 64) + off
  | .clu die off => ((die * 8 + 7) <<< 64) + off

/-- The byte a given number of bytes further on in the same storage. -/
def Loc.add : Loc → Nat → Loc
  | .sram c o, n => .sram c (o + n)
  | .hbm c o, n => .hbm c (o + n)
  | .cap d o, n => .cap d (o + n)
  | .cmem c o, n => .cmem c (o + n)
  | .dev d o, n => .dev d (o + n)
  | .host p a, n => .host p (a + n)
  | .mbx d o, n => .mbx d (o + n)
  | .clu d o, n => .clu d (o + n)

/-- What a byte that nothing has written reads as: zero (R124 for the storage a map homes; elsewhere DESIGN CHOICE, log 2). -/
def Mem.unlisted : Byte := 0

/-- The canonical form of memory: keys strictly rising, no byte listed that equals what an unlisted address reads as. -/
def Mem.wf (m : Mem) : Bool := Bits.wf (w := 8) m

/-- One byte of memory, by key. -/
def Mem.byte (m : Mem) (k : Nat) : Byte := lookupD Mem.unlisted m k

/-- Write one byte of memory; writing what an unlisted address reads as removes the entry. -/
def Mem.setByte (m : Mem) (k : Nat) (b : Byte) : Mem := Bits.put (w := 8) m k b

/-- Read bytes from a key upward. -/
def Mem.read (m : Mem) (k : Nat) : Nat → List Byte
  | 0 => []
  | n + 1 => Mem.byte m k :: Mem.read m (k + 1) n

/-- Write bytes from a key upward. -/
def Mem.write (m : Mem) (k : Nat) : List Byte → Mem
  | [] => m
  | b :: t => Mem.write (Mem.setByte m k b) (k + 1) t

/-- Write single bytes by their keys, in turn. -/
def Mem.writeCells (m : Mem) : List Host.Cell → Mem
  | [] => m
  | (k, b) :: t => Mem.writeCells (Mem.setByte m k b) t

/-- Read a little-endian number of n bytes. -/
def Mem.num (m : Mem) (l : Loc) (n : Nat) : Nat := natOfBytes (Mem.read m l.key n)

/-- Read a doubleword. -/
def Mem.dword (m : Mem) (l : Loc) : Word := BitVec.ofNat 64 (Mem.num m l 8)

/-- Write a little-endian number of n bytes. -/
def Mem.setNum (m : Mem) (l : Loc) (n v : Nat) : Mem := Mem.write m l.key (bytesOf n v)

/-- Clear every byte of a storage range to zero. -/
def Mem.clear (m : Mem) (k n : Nat) : Mem := m.filter fun c => !(decide (k ≤ c.1) && decide (c.1 < k + n))

end Sys2Proof.Machine
end

