-- ==== Sys2Proof/Syntax.lean ====
section
/-! DEFINITION. The syntax of the GZ-960: one constructor for each row of the opcode table. Instruction rows carry the fields of their words (R53 to R65); event rows carry the subject the event is about. -/

namespace Sys2Proof

/-- The seven queues of a core, in the order of the lane tags 0x1 to 0x7 (R45). -/
inductive Queue where
  | c | l | m | v | s | f | k
  deriving DecidableEq, Repr

/-- The lane tag of a queue (R45). -/
def Queue.tag : Queue → Nat
  | .c => 1 | .l => 2 | .m => 3 | .v => 4 | .s => 5 | .f => 6 | .k => 7

/-- The queue of a lane tag, when the tag names one (R45). -/
def Queue.ofTag? : Nat → Option Queue
  | 1 => some .c | 2 => some .l | 3 => some .m | 4 => some .v | 5 => some .s | 6 => some .f | 7 => some .k
  | _ => none

/-- The four timed queues (R86). -/
def Queue.timed : Queue → Bool
  | .l | .m | .v | .s => true
  | .c | .f | .k => false

/-- The direction of a grid operand, bits 7:6 (R55, R150). -/
inductive Dir where
  | h | v | d | e
  deriving DecidableEq, Repr

/-- The direction of a two-bit code (R55). -/
def Dir.ofBits (b : BitVec 2) : Dir :=
  match b.toNat with
  | 0 => .h | 1 => .v | 2 => .d | _ => .e

/-- The two-bit code of a direction (R55). -/
def Dir.bits : Dir → BitVec 2
  | .h => 0 | .v => 1 | .d => 2 | .e => 3

/-- A grid operand: a direction and an index (R55). -/
structure GridOp where
  dir : Dir
  idx : BitVec 6
  deriving DecidableEq, Repr

/-- The grid operand of an eight-bit field (R55). -/
def GridOp.ofBits (b : BitVec 8) : GridOp := ⟨Dir.ofBits (b.extractLsb' 6 2), b.extractLsb' 0 6⟩

/-- The eight-bit field of a grid operand (R55). -/
def GridOp.bits (g : GridOp) : BitVec 8 := g.dir.bits ++ g.idx

/-- The continuation word of a timed queue (R56). -/
structure Cont where
  stamp : BitVec 16
  pw : Bool
  pe : Bool
  sw : Bool
  se : Bool
  q  : BitVec 3
  xg : BitVec 8
  deriving DecidableEq, Repr

/-- The continuation word of an untimed queue (R57). -/
structure UCont where
  aw : BitVec 6
  xg : BitVec 8
  deriving DecidableEq, Repr

/-- The floating element types that mod selects (R63, R217). -/
inductive FTy where
  | f32 | bf16 | f16 | f64
  deriving DecidableEq, Repr

/-- The floating element type of a mod field (R63). -/
def FTy.ofBits (b : BitVec 2) : FTy :=
  match b.toNat with
  | 0 => .f32 | 1 => .bf16 | 2 => .f16 | _ => .f64

/-- The mod field of a floating element type (R63). -/
def FTy.bits : FTy → BitVec 2
  | .f32 => 0 | .bf16 => 1 | .f16 => 2 | .f64 => 3

/-- The rounding modes (R201). -/
inductive Rm where
  | rne | rz | ru | rd
  deriving DecidableEq, Repr

/-- The rounding mode of a two-bit code (R201). -/
def Rm.ofBits (b : BitVec 2) : Rm :=
  match b.toNat with
  | 0 => .rne | 1 => .rz | 2 => .ru | _ => .rd

/-- The two-bit code of a rounding mode (R201). -/
def Rm.bits : Rm → BitVec 2
  | .rne => 0 | .rz => 1 | .ru => 2 | .rd => 3

/-- A function of a die's PCIe port (R29): 0 is the physical function, 1 to 16 the virtual functions, one for each tenant. -/
abbrev FnId := Nat

/-- The rows of the opcode table.  The first part holds the instructions of the seven queues, the second the events: the
part's own steps, each about the subject it names (a die, a coach, a core, a gang slot, a message). Coaches are numbered
`die * 8 + coach`, cores `coach * 16 + core`, gangs `home die * 64 + slot`. -/
inductive Instr where
  -- Control queue (R58, R59)
  | add (d a b : Reg)
  | sub (d a b : Reg)
  | mul (d a b : Reg)
  | mulh (d a b : Reg)
  | mulhn (d a b : Reg)
  | div (d a b : Reg)
  | rem (d a b : Reg)
  | and (d a b : Reg)
  | or (d a b : Reg)
  | xor (d a b : Reg)
  | shl (d a b : Reg)
  | shr (d a b : Reg)
  | sra (d a b : Reg)
  | min (d a b : Reg)
  | max (d a b : Reg)
  | sel (d a b c : Reg)
  | cmpeq (d a b : Reg)
  | cmplt (d a b : Reg)
  | cmplo (d a b : Reg)
  | clz (d a : Reg)
  | pop (d a : Reg)
  | addi (d a : Reg) (i : BitVec 16)
  | andi (d a : Reg) (i : BitVec 16)
  | ori (d a : Reg) (i : BitVec 16)
  | xori (d a : Reg) (i : BitVec 16)
  | shli (d a : Reg) (n : BitVec 6)
  | shri (d a : Reg) (n : BitVec 6)
  | srai (d a : Reg) (n : BitVec 6)
  | cmpi (d a : Reg) (k : BitVec 2) (v : BitVec 14)
  | li (d : Reg) (i : BitVec 21)
  | lih (d : Reg) (i : BitVec 21)
  | id (d : Reg) (s : BitVec 16)
  | cyc (d : Reg)
  | tbase (d a : Reg) (i : BitVec 16)
  | sget (d : Reg) (n : BitVec 16)
  | sset (a : Reg) (n : BitVec 16)
  | br (o : BitVec 21)
  | call (d : Reg) (o : BitVec 21)
  | jr (a : Reg)
  | ret (a : Reg)
  | beq (a b : Reg) (o : BitVec 16)
  | bne (a b : Reg) (o : BitVec 16)
  | blt (a b : Reg) (o : BitVec 16)
  | bge (a b : Reg) (o : BitVec 16)
  | blo (a b : Reg) (o : BitVec 16)
  | bhs (a b : Reg) (o : BitVec 16)
  | loop (a b : Reg) (o : BitVec 16)
  | loopPre (a b : Reg) (o : BitVec 16)
  | loopp (a b : Reg) (o : BitVec 16)
  | looppPre (a b : Reg) (o : BitVec 16)
  | lbrk (a : Reg)
  | lds (d a : Reg) (z : BitVec 2) (q : Bool) (o : BitVec 13)
  | sts (v a : Reg) (z : BitVec 2) (q : Bool) (o : BitVec 13)
  | amo (d a b : Reg) (c : BitVec 3) (o : BitVec 2) (z : Bool) (p : BitVec 4)
  | wfa (k : BitVec 6)
  | gridShrink (n : BitVec 7)
  | phPrep (a : Reg) (n : BitVec 4)
  | phAdv (a : Reg) (n : BitVec 4)
  | fmtPush (a : Reg) (y : Bool)
  | kgSet (n a b : Reg)
  | qWait (q : Queue) (n : BitVec 16) (k : Option Cont)
  | qSig (q : Queue) (aw : BitVec 6) (k : Option Cont)
  | launch (d a : Reg) (w : Bool) (k : BitVec 6)
  | exit (x : Reg)
  | trap (c : BitVec 16)
  | yield
  | hret
  | bar (s : BitVec 3)
  | fenceSc (s : BitVec 3)
  | stepBegin
  | stepCommit (d : Reg)
  | stepAbort
  -- L queue (R61)
  | ld (g : GridOp) (b : Reg) (o : BitVec 11) (k : Option Cont)
  | ldt (m : BitVec 2) (g : GridOp) (b : Reg) (o : BitVec 11) (k : Option Cont)
  | ldg (sc : BitVec 2) (g : GridOp) (b : Reg) (cb : BitVec 3) (nr : BitVec 6) (k : Cont)
  | cp (d s n : Reg) (w : BitVec 6) (k : Option Cont)
  | rput (m : BitVec 3) (l : BitVec 4) (a : GridOp) (k : Option Cont)
  | rtake (d : GridOp) (l : BitVec 4) (k : Option Cont)
  | ldx (d s : Reg) (p : BitVec 4) (w : BitVec 6) (k : Option Cont)
  | tlRun (s : BitVec 16) (k : Option Cont)
  -- S queue (R64)
  | st (g : GridOp) (b : Reg) (o : BitVec 11) (k : Option Cont)
  | stt (m : BitVec 2) (g : GridOp) (b : Reg) (o : BitVec 11) (k : Option Cont)
  | stg (sc : BitVec 2) (g : GridOp) (b : Reg) (cb : BitVec 3) (nr : BitVec 6) (k : Cont)
  | stStr (g : GridOp) (b : Reg) (s : BitVec 4) (r : Bool) (o : BitVec 6) (k : Option Cont)
  | sttStr (m : BitVec 2) (g : GridOp) (b : Reg) (s : BitVec 4) (r : Bool) (o : BitVec 6) (k : Option Cont)
  -- M queue (R62)
  | mld (y : Bool) (b : Reg) (k : Option Cont)
  | mmul (z : Bool) (c : BitVec 3) (y : Bool) (a : Reg) (n : BitVec 10) (k : Option Cont)
  | mmulCh (z : Bool) (c : BitVec 3) (y : Bool) (a : Reg) (n : BitVec 10) (k : Option Cont)
  | mmulCf (f z : Bool) (c : BitVec 3) (y : Bool) (n : BitVec 10) (k : Option Cont)
  | mrd (c : BitVec 2) (g : BitVec 8) (b : Reg) (o : BitVec 11) (k : Option Cont)
  | mclr (m : BitVec 2) (c : BitVec 3) (y : Bool) (n : BitVec 6) (k : Option Cont)
  | mattn (z : Bool) (c : BitVec 2) (a : Reg) (n : BitVec 6) (k : Option Cont)
  | mresc (c : BitVec 3) (y : Bool) (x : GridOp) (n : BitVec 6) (k : Option Cont)
  | msplLd (b : Reg) (n : BitVec 5) (s : BitVec 5) (k : Option Cont)
  | msplEv (j : BitVec 2) (z : Bool) (c : BitVec 2) (a : Reg) (n : BitVec 10) (k : Option Cont)
  | msplDx (j : BitVec 2) (z : Bool) (c : BitVec 2) (a d : Reg) (n : BitVec 10) (k : Option Cont)
  | msplGs (j : BitVec 2) (z : Bool) (w : BitVec 2) (a d : Reg) (n : BitVec 10) (k : Option Cont)
  | msplRf (j : BitVec 2) (k : Option Cont)
  | msplRd (n : BitVec 3) (s : BitVec 5) (b : Reg) (o : BitVec 11) (k : Option Cont)
  -- V queue (R63)
  | vadd (t : FTy) (d a b : GridOp) (k : Option Cont)
  | vsub (t : FTy) (d a b : GridOp) (k : Option Cont)
  | vmul (t : FTy) (d a b : GridOp) (k : Option Cont)
  | vfma (t : FTy) (d a b : GridOp) (k : Cont)
  | vfnm (t : FTy) (d a b : GridOp) (k : Cont)
  | vmin (t : FTy) (d a b : GridOp) (k : Option Cont)
  | vmax (t : FTy) (d a b : GridOp) (k : Option Cont)
  | vabs (t : FTy) (d a : GridOp) (k : Option Cont)
  | vneg (t : FTy) (d a : GridOp) (k : Option Cont)
  | vdiv (t : FTy) (d a b : GridOp) (k : Option Cont)
  | vsqrt (t : FTy) (d a : GridOp) (k : Option Cont)
  | vrsqrt (t : FTy) (d a : GridOp) (k : Option Cont)
  | vrcp (t : FTy) (d a : GridOp) (k : Option Cont)
  | vexp2 (t : FTy) (d a : GridOp) (k : Option Cont)
  | vlog2 (t : FTy) (d a : GridOp) (k : Option Cont)
  | vtanh (t : FTy) (d a : GridOp) (k : Option Cont)
  | vcmp (t : BitVec 2) (c : BitVec 3) (i : Bool) (p : BitVec 3) (a b : GridOp) (k : Option Cont)
  | vsel (d a b : GridOp) (k : Cont)
  | vclamp (t : FTy) (d a b : GridOp) (k : Cont)
  | viadd (t : Bool) (d a b : GridOp) (k : Option Cont)
  | visub (t : Bool) (d a b : GridOp) (k : Option Cont)
  | vimul (t : Bool) (d a b : GridOp) (k : Option Cont)
  | viand (t : Bool) (d a b : GridOp) (k : Option Cont)
  | vior (t : Bool) (d a b : GridOp) (k : Option Cont)
  | vixor (t : Bool) (d a b : GridOp) (k : Option Cont)
  | vishl (t : Bool) (d a b : GridOp) (k : Option Cont)
  | vishr (t : Bool) (d a b : GridOp) (k : Option Cont)
  | visra (t : Bool) (d a b : GridOp) (k : Option Cont)
  | vimin (t : Bool) (d a b : GridOp) (k : Option Cont)
  | vimax (t : Bool) (d a b : GridOp) (k : Option Cont)
  | vcvt (r : Rm) (d a : GridOp) (dst src : BitVec 4) (k : Option Cont)
  | vmxp (m : BitVec 2) (d a b : GridOp) (k : Option Cont)
  | vmxu (m : BitVec 2) (d a b : GridOp) (k : Option Cont)
  | vmov (d a : GridOp) (k : Option Cont)
  | vbc (t : FTy) (d a : GridOp) (n : BitVec 7) (k : Option Cont)
  | vperm (d a b : GridOp) (k : Option Cont)
  | vrot (d a : GridOp) (n : BitVec 6) (k : Option Cont)
  | vred (t : BitVec 2) (d a : GridOp) (i : Bool) (o : BitVec 2) (k : Option Cont)
  | vscan (t : BitVec 2) (d a : GridOp) (i e : Bool) (o : BitVec 2) (k : Option Cont)
  | vhist (t : Bool) (d a b : GridOp) (k : Option Cont)
  | vtop (t : Bool) (n : BitVec 5) (p : BitVec 3) (a x : GridOp) (k : Option Cont)
  | vsmxMerge (d a b : GridOp) (k : Cont)
  | vadam (d a b : GridOp) (k : Cont)
  | vchk (t : FTy) (a : GridOp) (k : Option Cont)
  | vamax (t : FTy) (d a : GridOp) (k : Option Cont)
  -- F queue (R65)
  | flLd (sz : BitVec 2) (aq : Bool) (d a : Reg) (o : BitVec 11) (u : UCont)
  | fam (ord : BitVec 2) (op : BitVec 4) (z : Bool) (a b d : Reg) (u : UCont)
  | fcollSet (g : BitVec 4) (b : Reg) (o : BitVec 11) (u : UCont)
  | fred (op : BitVec 2) (g : BitVec 4) (t : BitVec 4) (b : Reg) (n : BitVec 11) (u : UCont)
  | fbar (u : UCont)
  | cph (m : BitVec 2) (d h n : Reg) (u : UCont)
  -- K queue (R65)
  | spanOpen (tag : BitVec 3) (ra : Reg) (u : UCont)
  | spanApp (ra rb : Reg) (u : UCont)
  | spanRt (mode : BitVec 2) (tag : BitVec 3) (ra rb : Reg) (u : UCont)
  | kvWalk (m : BitVec 2) (g : BitVec 8) (b d : Reg) (u : UCont)
  | kvPlan (blk : BitVec 2) (nc : BitVec 4) (b : Reg) (o : BitVec 11) (u : UCont)
  | kvFork (m : BitVec 2) (ra rb rc : Reg) (u : UCont)
  | kvDrop (ra : Reg) (u : UCont)
  | kvHint (prio : BitVec 2) (ra rb rc : Reg) (u : UCont)
  -- Events: launch (R26 to R41)
  | jobLogScan (die vf : Nat)
  | gangPlacement (die : Nat)
  | holdRequest (msg : Nat)
  | holdCommit (gang : Nat)
  | contextLoaded (coach : Nat)
  | startTick (coach : Nat)
  | preemptionRequest (gang : Nat)
  | eviction (gang : Nat)
  | childEnd (gang : Nat)
  | launchAnswer (core : Nat)
  -- Events: issue and carriage memory
  | lineDispatch (core : Nat)
  | timedIssue (core : Nat) (q : Queue)
  | timedWritePerform (coach : Nat)
  | ringBeatPark (coach : Nat)
  | handlerEntry (core : Nat)
  | scalarAccessComplete (core n : Nat)
  | cpComplete (core n : Nat)
  | ldxComplete (core n : Nat)
  | deadlineFault (gang : Nat)
  | shiftGranuleWrite (coach : Nat)
  | phAdvComplete (core : Nat)
  -- Events: HBM timelines and tiers
  | timelineWord (coach : Nat)
  | landingWrite (coach : Nat)
  | tierLookupAnswer (core : Nat)
  | tierMoveComplete (die n : Nat)
  | uncorrectableError (coach : Nat) (info : Word)
  -- Events: untimed queues and fabric
  | kOperationApply (core n : Nat)
  | fQueueIssue (core : Nat)
  | linkRetrain (die link : Nat)
  | linkStateMessage (msg : Nat)
  | flitReceive (die link : Nat)
  | flitForward (die link : Nat)
  | remoteWriteArrive (msg : Nat)
  | acknowledgementArrive (msg : Nat)
  | releasedWriteSend (core n : Nat)
  | retransmitTimeout (coach n : Nat)
  | breakNotice (msg : Nat)
  | remoteReadArrive (msg : Nat)
  | readDataArrive (msg : Nat)
  | remoteLoadTimeout (core n : Nat)
  | remoteAtomicArrive (msg : Nat)
  | atomicResultArrive (msg : Nat)
  | fredContribution (msg : Nat)
  | fredComplete (core n : Nat)
  | fredTimeout (core n : Nat)
  | fbarComplete (gang : Nat)
  | cphGranule (core n : Nat)
  | cphComplete (core n : Nat)
  -- Events: interruption and retirement
  | dieLost (die : Nat)
  | stopMessage (coach : Nat)
  | coachSave (coach : Nat)
  | gangResume (gang : Nat)
  | stepBeginRelease (gang : Nat)
  | stepCommitDecision (gang : Nat)
  | stepReissue (gang : Nat)
  | barComplete (gang : Nat) (s : BitVec 3) (group : Nat)
  | fenceComplete (core : Nat)
  | coreExited (core : Nat)
  | gangDone (gang : Nat)
  -- Events: host registers
  | hrevWrite (die vf : Nat) (value : Word)
  | gcmdResume (die : Nat) (fn : FnId) (value : Word)
  | gcmdEnd (die : Nat) (fn : FnId) (value : Word)
  | evqaRead (die : Nat) (fn : FnId)
  | hfaqRead (die : Nat)
  | kvpbWrite (die vf pool : Nat) (value : Word)
  | tcapWrite (die tenant : Nat) (size : Bool) (value : Word)
  | registerWrite (die : Nat) (fn : FnId) (offset : Nat) (value : Word)
  -- Events: management
  | powerOnReset (die : Nat)
  | quote (die : Nat)
  | readBadPageList (die : Nat)
  | retireGranules (die : Nat)
  | stageUpdate (die : Nat)
  | mailboxInvalidCommand (die : Nat)
  | telemetrySample (die watts : Nat) (temps : List Nat)
  | paceUpdate (die pace : Nat)
  | paceWindow (die : Nat)
  | thermalLimit (die : Nat)
  | correctableError (coach : Nat) (info : Word)
  | retrainComplete (die link : Nat)
  | freezeRowRestore (coach : Nat)
  | virtualFunctionReset (die vf : Nat)
  deriving DecidableEq, Repr

end Sys2Proof
end

