-- ==== Sys2Proof/Machine/State.lean ====
section
/-! DEFINITION. The state of a domain of GZ-960 packages, as plain data, and the state right after reset. Sub-structures follow the manual: a core (05, 07, 10, 11, 12), a coach (05, 06, 07, 08), a gang (01, 02, 20), a die (02, 08, 14, 22), links and messages (16). -/

namespace Sys2Proof.Machine

/-! ## Outcomes -/

/-- Why a step stops with a fault. The faults of the manual are no such stops: they are taken, and the machine goes on (R361). -/
inductive Fault where
  /-- An event names a subject that the domain does not have: a die, coach or core beyond the figures of R4 and R308. Raised by
  the events. Safe: the machine stops where the hardware has no such part. -/
  | noSuchPart
  deriving DecidableEq, Repr

/-- Why a step is refused. -/
inductive Refusal where
  /-- The instruction with this mnemonic has no meaning in the model yet. Raised by the dispatcher. Safe. -/
  | notModelled (mnemonic : String)
  deriving DecidableEq, Repr

/-! ## A core -/

/-- A pending result of the control core (R87): the register it goes to, whether that is in the shadow set, whether a handler line
wrote it, the lines left until it is visible, its value, and the scalar access, launch or step.commit that still has to supply the value, by its identity. -/
structure Pend where
  reg  : Nat
  sh   : Bool
  hnd  : Bool
  left : Nat
  val  : Word
  wait : Option Nat
  deriving DecidableEq, Repr

/-- A release set (R345): the identities of the accesses, F and K operations and remote writes that it waits for. -/
structure RelSet where
  acc : List Nat
  ops : List Nat
  wr  : List Nat
  deriving DecidableEq, Repr

/-- What a control stream waits for (R88). -/
inductive Block where
  /-- wfa on an arrival word (R166). -/
  | wfa (k : Nat)
  /-- ph.adv (R134). -/
  | phAdv
  /-- launch, with the identity of its result, the arrival word to bind, the address of the record, and when the unit answers (R40). -/
  | launch (id : Nat) (w : Option Nat) (addr : Word) (due : Nat)
  /-- A control-queue q.wait: at most n of the operations it counts, by identity, may remain incomplete (R117). -/
  | qWait (n : Nat) (ids : List Nat)
  /-- fence.sc, with its release set (R350). -/
  | fence (r : RelSet)
  /-- bar at a scope, with its number and release set (R351). -/
  | bar (s n : Nat) (r : RelSet)
  /-- step.begin (R371). -/
  | stepBegin
  /-- step.commit, with the identity of its result and its release set (R372). -/
  | stepCommit (id : Nat) (r : RelSet)
  /-- A control-core acquire (R346), by the identity of its access. -/
  | acquire (id : Nat)
  /-- hret, until every handler access has performed (R169). -/
  | hret
  deriving DecidableEq, Repr

/-- How a core stands (R88, R361, R367, R377). -/
inductive Stand where
  /-- No context is placed on the core's coach. -/
  | idle
  /-- The core dispatches lines. -/
  | running
  /-- Dispatch has ended at a pre-emption point, its timed queues drain (R41, R103). -/
  | stopped
  /-- The exit line has dispatched; the release set is not yet complete (R377). -/
  | exiting (r : RelSet)
  /-- Exited (R377). -/
  | exited
  deriving DecidableEq, Repr

/-- What a scalar access does (R171, R172). -/
inductive AccKind where
  | load
  | store
  | amo (op : Nat)
  deriving DecidableEq, Repr

/-- A scalar access in flight (R173). -/
structure Access where
  id    : Nat
  kind  : AccKind
  loc   : Loc
  map   : Nat
  size  : Nat
  data  : Word
  cmp   : Word
  hnd   : Bool
  /-- Lines that may still dispatch before the core blocks: up to the latency of an lds or amo, and three past an sts (R173). -/
  left  : Nat
  rel   : Option RelSet
  due   : Nat
  /-- The CYC cycle in which its line dispatched (R347). -/
  at_   : Nat
  deriving DecidableEq, Repr

/-- A store to control memory as instruction fetch sees it (R173): for two lines the byte before it in program order, then the new one. -/
structure FetchStore where
  left : Nat
  id   : Nat
  off  : Nat
  old  : Byte
  new  : Byte
  deriving DecidableEq, Repr

/-- A queue entry (R89, R366, R395). -/
structure Entry where
  ins  : Instr
  id   : Nat
  seq  : Nat
  /-- The nominal issue cycle (R90). -/
  n    : Nat
  /-- The CYC cycle in which its line dispatched (R91). -/
  disp : Nat
  /-- The map it translates through, and the version of a SHADOW region it names (R370). -/
  map  : Nat
  ver  : Nat
  v0   : Word
  v1   : Word
  v2   : Word
  v3   : Word
  cap  : List Word
  /-- LINE, LANE and HALF in the places of R127, for a fault raised at issue. -/
  place : Word
  /-- Drain state (R260). -/
  rem  : Nat
  p0   : Nat
  zr   : Nat
  part : Bool
  /-- A gather or scatter that a failing row has stopped: it comes to no further row (R138). -/
  cut   : Bool
  deriving DecidableEq, Repr

/-- A tile buffer of an array (R241, R248): its element and scale bytes, its type, and whether a back tile is ready. -/
structure Tile where
  bytes  : List Byte
  scales : List Byte
  btype  : Nat
  ready  : Bool
  deriving DecidableEq, Repr

/-- A write of an issued entry, at the moment it is to perform (R154, R215, R246, R270). -/
inductive WEff where
  /-- Cells of the grid file, by row * 64 + column. -/
  | grid (cells : List (Nat × Cell32))
  /-- A predicate register: the bits of the mask take the value. -/
  | pred (p : Nat) (mask val : Word)
  /-- Bytes of SRAM, by key, of a timed store (R149), and the 64-byte units of the coach's SRAM that it accesses, by offset / 64
  (R148). -/
  | mem (cells : List Host.Cell) (units : List Nat)
  /-- A remote write of one grid line (R318). -/
  | post (addr : Nat) (mask : Nat) (data : List Byte) (stream : Nat) (rel : Bool)
  /-- A bit of a completion bitmap (R157). -/
  | cb (k i : Nat)
  /-- The step flag NF (R235, R236). -/
  | nf
  /-- An amax register (R259). -/
  | amax (r : Nat) (v : Cell32) (init : Bool)
  /-- The trail half of a row of mattn (R254). -/
  | trail (r : Nat) (p : List Cell32) (f : Cell32) (bad first : Bool)
  /-- A back tile becomes ready (R250). -/
  | tile (arr : Nat) (t : Tile)
  /-- Cells of the coefficient store, by slot * 4096 + row * 64 + column (R268). -/
  | coef (cells : List (Nat × BitVec 16))
  deriving DecidableEq, Repr

/-- An issued entry that has not completed (R92, R154). Times are relative to the issue, so a deferral of token mode moves them
together (R148). -/
structure Run where
  e    : Entry
  q    : Queue
  t    : Nat
  k    : Nat
  last : Nat
  /-- The cycle of the token pushes (R92). -/
  push : Nat
  wr   : List (Nat × WEff)
  data : List Byte
  data2 : List Byte
  tile : Option Tile
  tile2 : Option Tile
  /-- The feeder of a chained follower: its core and entry (R252). -/
  src  : Option (Nat × Nat)
  /-- The coefficient store as a spline row in flight found it at its entry, by row (R270). -/
  snaps : Tab (Bits 16)
  /-- Whether the accesses of its cycle k have been made. -/
  seen : Bool
  /-- The bytes of those accesses of its cycle k that it has made in earlier cycles, while token mode deferred the others (R148). -/
  early : List Host.Cell
  deriving DecidableEq, Repr

/-- A q.sig that waits for the instructions before it (R118). -/
structure Sig where
  id   : Nat
  q    : Queue
  aw   : Nat
  acc  : List Nat
  runs : List Nat
  ops  : List Nat
  left : Nat
  /-- Whether a handler line gave it. -/
  hnd  : Bool
  deriving DecidableEq, Repr

/-- An address group (R331). -/
structure Group where
  all  : Bool
  src  : Word
  dst  : Word
  map  : Nat
  mem  : List (Nat × Nat)
  deriving DecidableEq, Repr

/-- A bulk copy, stride gather, F operation or K operation that has issued and not completed (R162, R186, R294, R327). -/
structure Op where
  id    : Nat
  q     : Queue
  e     : Entry
  at_   : Nat
  /-- Bytes moved so far. -/
  pos   : Nat
  /-- A K operation has been applied; a host copy has stopped; a reduction has been answered. -/
  done  : Bool
  val   : Nat
  stat  : Nat
  due   : Nat
  /-- What a K operation writes at completion: its grid cells, and bytes of SRAM. -/
  cells : List (Nat × Cell32)
  bytes : List Host.Cell
  /-- Position, batch or member data read at issue; the groups a walk holds. -/
  data  : List Nat
  /-- The contributions of the members of a reduction, by member (R332). -/
  parts : Tab (List Byte)
  /-- The address group of a reduction, as it stood at the issue (R332). -/
  grp   : Option Group
  deriving DecidableEq, Repr

/-- A grid.shrink that waits for earlier entries before it zeroes the freed rows (R152). -/
structure Shrink where
  n   : Nat
  ids : List Nat
  deriving DecidableEq, Repr

/-- The control side of a core. -/
structure Ctl where
  stand  : Stand
  /-- s0 to s31 at keys 0 to 31, the shadow s24 to s31 at keys 56 to 63 (R87, R167). -/
  regs   : Bits 64
  pend   : List Pend
  pc     : Nat
  /-- The main stream's recorded next line while the handler runs (R167). -/
  mainPc : Nat
  lines  : Nat
  /-- What the main stream waits for: a line may hold several blocking instructions, and each ends by its own condition (R88). -/
  blocks : List Block
  /-- What the handler waits for (R169, R350). -/
  hblocks : List Block
  /-- State registers by number (R105); the computed ones are not kept here. -/
  sr     : Bits 64
  /-- State-register writes of the line being dispatched, which take effect at its end (R107). -/
  defer  : List (Nat × Word)
  /-- The next line that the line being dispatched selects (R114), and whether lbrk ends a plain loop (R102). -/
  flow   : Option Nat
  brk    : Bool
  /-- The pipelined levels whose pass a pre-emption request has met at a boundary (R103). -/
  cuts   : List Nat
  acc    : List Access
  fst    : List FetchStore
  dict   : Bits 35
  /-- bar counts by scope (R351) and the fbar count (R333). -/
  nbar   : List Nat
  nfbar  : Nat
  /-- Whether this core has completed the step.begin of the open step (R370, R371). -/
  inStep : Bool
  /-- Whether the core has raised a fault of its own in the stop under way (R362). -/
  own    : Bool
  /-- CB0 to CB7 as they stood at the start of the CYC cycle, at their numbers: a row of a gather reads its bit there (R157). -/
  cbs    : Bits 64
  /-- The bytes that this core's scalar accesses have written in the CYC cycle under way: its own later reads see them (R149, R173). -/
  wrote  : List Host.Cell
  /-- For each arrival word, the CYC cycle and the start of the operation whose status it keeps: of the completions of one cycle the
  operation that started first counts (R164). -/
  awFirst : Tab (Nat × Nat)
  deriving DecidableEq, Repr

/-- The engine side of a core. -/
structure Eng where
  /-- The six queues, oldest entry first (R86). -/
  ql : List Entry
  qm : List Entry
  qv : List Entry
  qs : List Entry
  qf : List Entry
  qk : List Entry
  /-- Nominal issue cycle of the last entry enqueued on L, M, V, S (R90), at keys 2 to 5. -/
  lastN : Tab Nat
  /-- Actual and nominal issue cycles of the last entry issued in token mode (R93), at keys 2 to 5. -/
  lastA : Tab (Nat × Nat)
  /-- Entries enqueued on each queue, by lane tag (R363). -/
  seqs  : Tab Nat
  run   : List Run
  sigs  : List Sig
  ops   : List Op
  shr   : List Shrink
  deriving DecidableEq, Repr

/-- The data side of a core: grid, planes, tiles, coefficients. -/
structure Dat where
  /-- Cell (row, column) at row * 64 + column (R150). -/
  grid  : Bits 32
  /-- Cell (row, column) of plane p at p * 4096 + row * 64 + column (R241). -/
  plane : Bits 32
  /-- rmx, kept with minus infinity as zero, and rsm (R241). -/
  rmxX  : Bits 32
  rsm   : Bits 32
  /-- Lead front, lead back, trail front, trail back. -/
  tiles : List Tile
  /-- Untaken words of the two format FIFOs, and the words taken by entries that have not issued (R243). -/
  fifo0 : List Word
  fifo1 : List Word
  held0 : List Word
  held1 : List Word
  /-- BTYPE of the last mld enqueued per array (R245). -/
  bty0  : Nat
  bty1  : Nat
  /-- The coefficient store, slot s of cell (i, j) at s * 4096 + i * 64 + j (R268). -/
  coef  : Bits 16
  deriving DecidableEq, Repr

/-- A core (R4). -/
structure Core where
  ctl : Ctl
  eng : Eng
  dat : Dat
  deriving DecidableEq, Repr

/-! ## A coach -/

/-- A map entry (R121). -/
structure MapEntry where
  dw0 : Word
  dw1 : Word
  deriving DecidableEq, Repr

/-- One write of a shift set or step copy (R129, R371): the destination granule, the granule copied or none for zeroing, and
whether it waits for every core. -/
structure ShiftWrite where
  dst  : Loc
  src  : Option Loc
  wait : Bool
  deriving DecidableEq, Repr

/-- A store into a granule whose copy has read it already, on its way through the OPEN slots to the granule's new home in HBM or the capacity
tier (R132): the core that made it, the granule's old and new homes, and the bytes by their offsets in the granule. -/
structure Mirror where
  core  : Nat
  src   : Loc
  dst   : Loc
  cells : List (Nat × Byte)
  deriving DecidableEq, Repr

/-- The phase state of a coach (R128); NREACH is the number of cores in `reach`, exited cores among them. -/
structure Phase where
  pht    : Nat
  prep   : Bool
  from_  : Nat
  ndone  : Nat
  reach  : List Nat
  work   : List ShiftWrite
  copied : List (Loc × Loc)
  /-- Mirrors that have not performed yet (R132). -/
  mirrors : List Mirror
  due    : Nat
  /-- The copy of step.begin under way (R371). -/
  stepWork : List ShiftWrite
  stepping : Bool
  deriving DecidableEq, Repr

/-- A beat on a ring lane (R158). -/
structure Beat where
  car    : Nat
  lane   : Nat
  pos    : Nat
  target : Nat
  data   : List Byte
  deriving DecidableEq, Repr

/-- The history of a pseudo-channel over the running segment (R180). -/
structure PcState where
  /-- Open rows by bank. -/
  rows : Tab Nat
  /-- Cycles of the last ACT, PRE, RD, WR, REF by bank (key kind * 16 + bank) plus one; REF of all banks at key 64. -/
  last : Tab Nat
  acts : List Nat
  /-- The end of the OPEN window that runs, and the window cycles so far. -/
  winEnd : Nat
  winSum : Nat
  /-- REFs so far, in sixteenths. -/
  refs : Nat
  rowAt : Nat
  colAt : Nat
  deriving DecidableEq, Repr

/-- The timeline controller of a coach (R177 to R184). -/
structure Timeline where
  running : Bool
  core    : Nat
  start   : Nat
  base    : Nat
  word    : Nat
  at_     : Nat
  pcs     : Tab PcState
  cmds    : Nat
  cmdsAt  : Nat
  /-- Landings under way: the cycle, the core, the SRAM offset and the data (R179). -/
  land    : List (Nat × Nat × Nat × List Byte)
  /-- The hold of the freeze line after freeze-time work (R184). -/
  hold    : Bool
  /-- The first CYC cycle in which every pseudo-channel is under dynamic control again after a segment has ended (R181, R183). -/
  freeAt  : Nat
  deriving DecidableEq, Repr

/-- How a coach context stands. -/
inductive CStand where
  /-- No context. -/
  | idle
  /-- The context loads its image (R34); until when. -/
  | loading (due : Nat)
  /-- Loaded and reported (R35). -/
  | loaded
  /-- Waits for the start tick `t`, or for a common resume tick when the flag is set; its message reaches the coach at `rx`, 0 once it has
  (R35, R368). -/
  | ready (t rx : Nat) (resume : Bool)
  | running
  /-- A fault has been raised here or a stop has arrived; TSTOP is the next cycle that takes place (R361). -/
  | stopping
  /-- Draining from TSTOP (R361). -/
  | draining
  /-- Drained at TEND, waiting for its save (R366). -/
  | drained
  /-- Saved: the context is in the save area (R366). -/
  | saved
  deriving DecidableEq, Repr

/-- A remote write that its sender holds until it is acknowledged (R319 to R323). -/
structure OutW where
  id     : Nat
  core   : Nat
  stream : Nat
  /-- Sequence numbers by stream: one, or fifteen for a write on stream 15. -/
  nums   : List (Nat × Nat)
  dstDie : Nat
  dstCo  : Nat
  loc    : Loc
  par    : Option Loc
  mask   : Nat
  data   : List Byte
  rel    : Option RelSet
  sent   : Bool
  last   : Nat
  /-- The routes tried so far, the last one first: order, and the dimensions that go the long way (R309, R323). -/
  tried  : List (Nat × Nat)
  wal    : Nat
  cls    : Nat
  lco    : Nat
  /-- A remote atomic travels as a write of stream 0: its operation, size, operand and compare value (R329). -/
  atom   : Option (Nat × Nat × Word × Word)
  opId   : Nat
  deriving DecidableEq, Repr

/-- The fabric side of a coach context. -/
structure Fab where
  /-- Next sequence number by destination die * 16 + stream (R320). -/
  seqs   : Tab Nat
  out    : List OutW
  groups : Tab Group
  broken : List (Nat × Nat)
  /-- Expected sequence numbers of the writes that come to this coach, by source coach * 16 + stream (R321, R325). -/
  expect : Tab Nat
  /-- Whether the coach has raised the one stream-broken fault of a destination (R336). -/
  ended  : Bool
  deriving DecidableEq, Repr

/-- A coach (R4). -/
structure Coach where
  stand  : CStand
  gang   : Option Nat
  lco    : Nat
  tclk   : Nat
  /-- The freeze line as it stands in this core clock cycle (R94). -/
  frozen : Bool
  /-- The CYC cycle whose TCLK cycle has been opened, and the heads still to issue in it, by core * 8 + queue tag. -/
  opened : Option Nat
  due    : List Nat
  /-- The bytes that landings have written over in the CYC cycle under way, the earliest last: a copy of that cycle reads them (R149). -/
  landed : List Host.Cell
  /-- Dispatches since a resumption: the freeze line stays asserted until each core has dispatched 4 lines (R368). -/
  warm   : List (Nat × Nat)
  phases : List (List MapEntry)
  /-- The ranges of the tenant's capacity bytes that `.data` chunks have written: they are not cleared at the start tick (R124). -/
  kept   : List (Nat × Nat)
  ph     : Phase
  beats  : List Beat
  /-- Park buffers by core * 16 + lane, oldest beat first (R158). -/
  park   : Tab (List (List Byte))
  tl     : Timeline
  fab    : Fab
  /-- STEPF (R370). -/
  stepf  : Word
  tstop  : Nat
  tend   : Nat
  tsave  : Nat
  /-- TPT by core (R367). -/
  tpt    : Tab Nat
  /-- When the home unit's stop message arrives (R361). -/
  stopDue : Option Nat
  /-- Whether a pre-emption request is pending (R38, R41), and the reason of a save. -/
  preReq : Bool
  reason : Nat
  /-- The cycle from which the save may complete (R366). -/
  saveAt : Nat
  deriving DecidableEq, Repr

/-! ## A gang -/

/-- How a launch stands (R22, R29, R365). -/
inductive GStand where
  | waiting
  /-- Holds have been requested on other dies (R34). -/
  | holding
  | loading
  | starting
  | running
  /-- A pre-emption request is pending (R38). -/
  | preempting
  /-- Saved after a pre-emption, waiting to resume. -/
  | preempted
  | stopping
  /-- Held after a precise or issue fault (R365). -/
  | held
  | resuming
  | done
  | faulted
  deriving DecidableEq, Repr

/-- A coach context that its save took from the coach: the coach, its context and its cores (R366). -/
structure SavedCtx where
  coach : Nat
  ctx   : Coach
  cores : List Core
  deriving DecidableEq, Repr

/-- A gang: a launch in its home unit's slot (R29). -/
structure Gang where
  stand   : GStand
  tenant  : Nat
  /-- DW0 to DW11 of the record, as the unit read them (R21). -/
  words   : List Word
  /-- Where the record stands in device memory; none for a launch by instruction. -/
  recAt   : Option Nat
  /-- The cycle of acceptance times 4096, plus the order among the acceptances of that cycle. -/
  accept  : Nat
  dies    : List Nat
  coaches : List Nat
  tick    : Nat
  bused   : Nat
  budget  : Nat
  preAt   : Nat
  preTmo  : Nat
  /-- The parent gang and its acceptance, the logical core and the arrival word that the child's end sets (R40). -/
  parent  : Option (Nat × Nat × Nat × Nat)
  /-- The first fault: FCODE in the layout of R362, and the CYC cycle of its report. -/
  fault   : Option Word
  faultAt : Nat
  /-- Step state of the gang (R370): CV, OPEN, STEPN, and the map each coach stood on. -/
  cv      : Bool
  open_   : Bool
  stepn   : Nat
  stepPh  : Tab Nat
  /-- The largest TCLK count of the coaches that were lost with their die (R21). -/
  lostTclk : Nat
  /-- The restart line that the home unit records for each core that has not exited, by logical coach * 16 + core (R371). -/
  restarts : Tab Nat
  /-- Which try to be placed is under way: the hold requests of an earlier one count no more (R34). -/
  try_    : Nat
  /-- The dies whose holds are granted, the logical dies lost, the saved contexts. -/
  grants  : List Nat
  lost    : List Nat
  saved   : List SavedCtx
  deriving DecidableEq, Repr

/-! ## A die -/

/-- A path entry of a sequence (R287). -/
structure PathEntry where
  node  : Nat
  delta : Int
  ret   : Bool
  deriving DecidableEq, Repr

/-- A sequence (R287). -/
structure Seq where
  path : List PathEntry
  next : Nat
  tag  : Nat
  num  : Nat
  deriving DecidableEq, Repr

/-- A node (R287). -/
structure Node where
  spos   : Nat
  len    : Nat
  tag    : Nat
  num    : Nat
  off    : Nat
  groups : List Nat
  ref    : Nat
  deriving DecidableEq, Repr

/-- A sequence pool of a tenant (R285, R287). A group's LIVE mask is
the slots that the nodes hold in it (R287). -/
structure Pool where
  seqs  : Tab Seq
  nodes : Tab Node
  fresh : Nat
  free  : List Nat
  holds : Tab Nat
  /-- The slots of each allocated group that have been used, counted from slot 0: a freed one is not used again (R289). -/
  fill  : Tab Nat
  /-- Clearing EN waits for the K operations in flight (R285). -/
  closing : Bool
  deriving DecidableEq, Repr

/-- A tier page (R187 to R190): the coach and stack granule where it is resident, its hint, whether it was written while resident. -/
structure Page where
  coach : Option Nat
  slot  : Nat
  prio  : Nat
  next  : Nat
  dirty : Bool
  deriving DecidableEq, Repr

/-- A tier move under way (R190). -/
structure TierMove where
  id      : Nat
  tenant  : Nat
  page    : Nat
  promote : Bool
  coach   : Nat
  slot    : Nat
  due     : Nat
  deriving DecidableEq, Repr

/-- A boot stage image in the management flash (R384). -/
structure StageImage where
  header : List Byte
  body   : List Byte
  key    : List Byte
  sig    : List Byte
  deriving DecidableEq, Repr

/-- A core of the management cluster: the registers of RV64GC (R382). -/
structure Hart where
  /-- x1 to x31 and f0 to f31, by number. -/
  x    : Bits 64
  f    : Bits 64
  pc   : Word
  fcsr : BitVec 32
  /-- The other control and status registers, by number. -/
  csr  : Bits 64
  deriving DecidableEq, Repr

/-- The management cluster of a package (R382 to R391). -/
structure Mgmt where
  /-- The four RV64GC cores (R382). -/
  harts   : List Hart
  /-- Boot: 0 not started, 1 running firmware, 2 stopped on a failure. -/
  boot    : Nat
  stage   : Nat
  err     : Bool
  /-- MR0 to MR7, 32 bytes each. -/
  mr      : List (List Byte)
  stages  : List StageImage
  upd     : List Byte
  slots   : List (List Byte × Bool)
  counter : Nat
  /-- The mailbox command that runs, plus one; 0 for none (R386). -/
  pending : Nat
  bad     : List Word
  quotes  : Nat
  capGran : Nat
  deriving DecidableEq, Repr

/-- A die (R4). -/
structure Die where
  /-- BAR0 registers that hold what was written, by function * 65536 + offset. -/
  regs   : Bits 64
  /-- The event queue of each function, and whether entries were lost (R364). -/
  evq    : Tab (List (Word × Word))
  evOvf  : Tab Nat
  evqb   : Tab Word
  hfaq   : List Word
  hfOvf  : Bool
  /-- Corrected errors by row since reset (R191). -/
  corr   : Tab Nat
  pools  : Tab Pool
  pages  : Tab Page
  moves  : List TierMove
  /-- The retired list as it stood when the fast pools of a tenant were laid out, by tenant (R187, R387). -/
  laid   : Tab (List Word)
  /-- Held messages (R321). -/
  heldW  : List Nat
  /-- Stripe writes whose parity update is on its way, and old values of committed atomics, by write (R140, R329). -/
  parity : List Nat
  olds   : Tab Word
  /-- Granted holds: coach, gang, key (R34). -/
  holds  : List (Nat × Nat × Nat)
  downs  : List Nat
  /-- Since which cycle the die has left class-0 messages of a home unit without an answer (R360). -/
  asked  : Option Nat
  /-- The paced cycles of the window of 64 cycles that runs (R389). -/
  pace   : Nat
  /-- The first CYC cycle in which PACE may change again (R389). -/
  paceAt : Nat
  lost   : Bool
  mgmt   : Mgmt
  deriving DecidableEq, Repr

/-! ## Links and messages -/

/-- What a message asks or answers (R317, R34, R315). -/
inductive MsgKind where
  /-- A home unit asks for a hold of coaches for a gang, with its key (R34). -/
  | holdReq (gang key : Nat) (coaches : List Nat)
  /-- A link of a die has gone DOWN (R315). -/
  | linkState (link : Nat)
  /-- A remote write, or an atomic that travels as one (R318, R329). -/
  | write
  /-- The update of a stripe set's parity member (R140). -/
  | parity
  /-- The acknowledgement of a remote write or atomic. -/
  | ack
  | read
  | readData
  /-- A reduction asks a member for its source bytes (R332). -/
  | collective
  /-- A break notice (R324). -/
  | brk
  deriving DecidableEq, Repr

/-- A message on the fabric: its dies and coaches, class, route (order, and the dimensions that go the long way) and the routes tried, the
sequence numbers of its triples or those that must be committed before it, its storage, bytes and operands, and the operation or write it
serves. Of the units of 64 bytes that it moves at its storage, `got` holds what those moved so far have read there (R146). -/
structure Msg where
  kind   : MsgKind
  src    : Nat
  dst    : Nat
  srcCo  : Nat
  dstCo  : Nat
  cls    : Nat
  order  : Nat
  long   : Nat
  tried  : List (Nat × Nat)
  /-- The cycle by which the answer to its request is back, and whether that bound of R311 holds for request and response so far. -/
  by_    : Nat
  clear  : Bool
  nums   : List (Nat × Nat)
  loc    : Loc
  par    : Option Loc
  mask   : Nat
  data   : List Byte
  got    : List Byte
  opnd   : List Nat
  core   : Nat
  id     : Nat
  /-- The cycle from which the message, at its die, is handled. -/
  due    : Nat
  deriving DecidableEq, Repr

/-- A flit on a link: a message and its link sequence number (R315, R316). -/
structure Flit where
  msg  : Msg
  lseq : Nat
  deriving DecidableEq, Repr

/-- A link of a die in one of the six directions (R313 to R315). -/
structure Link where
  mode   : Nat
  up     : Bool
  replay : Nat
  retrn  : Nat
  tx     : Nat
  /-- Flits on the wire toward the neighbour, not yet received. -/
  wire   : List Flit
  /-- Flits that wait for the link, by class. -/
  wait   : List Msg
  share  : Nat
  tries  : Nat
  retrain : Bool
  due    : Nat
  deriving DecidableEq, Repr

/-! ## The machine -/

/-- The core, lane, half and stage whose instruction is being carried out, the line it stands in, and the issued entry when an
entry issues (the model's own field, log 7). -/
structure Focus where
  core  : Nat
  line  : Nat
  lane  : Nat
  half  : Bool
  stage : Nat
  cur   : Option Entry
  deriving DecidableEq, Repr

/-- The whole domain. -/
structure State where
  /-- The domain's cycle counter (R5). -/
  cyc     : Nat
  /-- Where in the cycle's agenda the machine stands (log 4). -/
  turn    : Nat
  /-- Events from outside that wait to happen (log 5). -/
  inbox   : List Instr
  /-- Durations of work outside the timetable domain, read one after another (R394, log 6). -/
  delays  : List Nat
  /-- Mishaps, read one after another: a flit that arrives with a bad CRC (R315), a host translation that fails (R334). Without an entry
  all goes well (log 6). -/
  noise   : List Bool
  focus   : Focus
  /-- The next identity of an entry, access, operation or message. -/
  uid     : Nat
  present : List Nat
  mem     : Mem
  /-- Storage as it stood at the start of the CYC cycle: what the reads of the cycle return (R149). -/
  was     : Mem
  /-- The first cycle in which the shift slot (even) or the dynamic slot (odd) of an SRAM block is free again, by
  (coach * 16 + block) * 2, and from key 2^20 on its scalar slot, by coach * 16 + block (R146). -/
  slots   : Tab Nat
  cores   : Tab Core
  coaches : Tab Coach
  gangs   : Tab Gang
  dies    : Tab Die
  links   : Tab Link
  net     : Tab Msg
  deriving DecidableEq, Repr

/-! ## Reset -/

/-- A tile at entry: 4096 elements of value +0 and type BF16 (R241). -/
def Tile.reset : Tile := { bytes := [], scales := [], btype := 1, ready := false }

/-- The control side of a core at reset (registers 0: DESIGN CHOICE, log 1). -/
def Ctl.reset : Ctl :=
  { stand := .idle, regs := [], pend := [], pc := 0, mainPc := 0, lines := 0, blocks := [], hblocks := []
    sr := [], defer := [], flow := none, brk := false, cuts := [], acc := [], fst := [], dict := [], nbar := [0, 0, 0, 0], nfbar := 0
    inStep := false, own := false, cbs := [], wrote := [], awFirst := [] }

/-- The engine side of a core at reset. -/
def Eng.reset : Eng :=
  { ql := [], qm := [], qv := [], qs := [], qf := [], qk := [], lastN := [], lastA := [], seqs := [], run := [], sigs := []
    ops := [], shr := [] }

/-- The data side of a core at reset. -/
def Dat.reset : Dat :=
  { grid := [], plane := [], rmxX := [], rsm := [], tiles := [Tile.reset, Tile.reset, Tile.reset, Tile.reset], fifo0 := []
    fifo1 := [], held0 := [], held1 := [], bty0 := 1, bty1 := 1, coef := [] }

/-- A core at reset. -/
def Core.reset : Core := { ctl := Ctl.reset, eng := Eng.reset, dat := Dat.reset }

/-- Phase state with no shift under way. -/
def Phase.reset : Phase :=
  { pht := 0, prep := false, from_ := 0, ndone := 0, reach := [], work := [], copied := [], mirrors := [], due := 0
    stepWork := [], stepping := false }

/-- A pseudo-channel with no history. -/
def PcState.reset : PcState :=
  { rows := [], last := [], acts := [], winEnd := 0, winSum := 0, refs := 0, rowAt := 0, colAt := 0 }

/-- A timeline controller with no segment running. -/
def Timeline.reset : Timeline :=
  { running := false, core := 0, start := 0, base := 0, word := 0, at_ := 0, pcs := [], cmds := 0, cmdsAt := 0, land := []
    hold := false, freeAt := 0 }

/-- The fabric side of a context at its start tick (R325). -/
def Fab.reset : Fab := { seqs := [], out := [], groups := [], broken := [], expect := [], ended := false }

/-- A coach at reset. -/
def Coach.reset : Coach :=
  { stand := .idle, gang := none, lco := 0, tclk := 0, frozen := false, opened := none, due := [], landed := [], warm := [], phases := [], kept := []
    ph := Phase.reset, beats := [], park := [], tl := Timeline.reset, fab := Fab.reset, stepf := 0, tstop := 0, tend := 0
    tsave := 0, tpt := [], stopDue := none, preReq := false, reason := 0, saveAt := 0 }

/-- A slot that no launch has taken. -/
def Gang.reset : Gang :=
  { stand := .done, tenant := 0, words := [], recAt := none, accept := 0, dies := [], coaches := [], tick := 0, bused := 0
    budget := 0, preAt := 0, preTmo := 0, parent := none, fault := none, faultAt := 0, cv := false, open_ := false, stepn := 0
    stepPh := [], lostTclk := 0, restarts := [], try_ := 0, grants := [], lost := [], saved := [] }

/-- A pool with no sequence. -/
def Pool.reset : Pool := { seqs := [], nodes := [], fresh := 0, free := [], holds := [], fill := [], closing := false }

/-- A tier page that has no hint and is not resident (R189). -/
def Page.reset : Page := { coach := none, slot := 0, prio := 0, next := 0xFFFFFFFF, dirty := false }

/-- A management core at reset (registers 0: DESIGN CHOICE, log 96). -/
def Hart.reset : Hart := { x := [], f := [], pc := 0, fcsr := 0, csr := [] }

/-- A management cluster before its boot; the non-volatile contents are empty (DESIGN CHOICE, log 3). -/
def Mgmt.reset : Mgmt :=
  { harts := List.replicate 4 Hart.reset, boot := 0, stage := 0, err := false, mr := List.replicate 8 (List.replicate 32 0), stages := [], upd := []
    slots := List.replicate 4 (List.replicate 32 0, false), counter := 0, pending := 0, bad := [], quotes := 0, capGran := 0 }

/-- A die at reset: LIMIT of PCAP is 3200, every other register 0 (R24, R30, R389 and each register's table). -/
def Die.reset : Die :=
  { regs := [(0x6000, 3200)], evq := [], evOvf := [], evqb := [], hfaq := [], hfOvf := false, corr := [], pools := []
    pages := [], moves := [], laid := [], heldW := [], parity := [], olds := [], holds := []
    downs := [], asked := none, pace := 0, paceAt := 0, lost := false, mgmt := Mgmt.reset }

/-- A link before it has trained (R313, R314). -/
def Link.reset : Link :=
  { mode := 0, up := false, replay := 0, retrn := 0, tx := 0, wire := [], wait := [], share := 0, tries := 0
    retrain := false, due := 0 }

/-- The focus at reset: core 0 of coach 0 of die 0 (DESIGN CHOICE, log 7). -/
def Focus.reset : Focus := { core := 0, line := 0, lane := 1, half := false, stage := 0, cur := none }

/-- The machine right after reset: one package, die 0, that has not booted (log 10); nothing is placed and no byte is written. -/
def State.reset : State :=
  { cyc := 0, turn := 0, inbox := [], delays := [], noise := [], focus := Focus.reset, uid := 0, present := [0], mem := [], was := [], slots := []
    cores := [], coaches := [], gangs := [], dies := [], links := [], net := [] }

end Sys2Proof.Machine
end

