-- ==== Sys2Proof/WellFormed.lean ====
section
/-! DEFINITION. Which field values an instruction may hold. A value that the manual calls illegal raises FCODE 0x02 at dispatch and one it calls reserved raises FCODE 0x03 (R51); `Instr.check` names which. -/

namespace Sys2Proof

/-- Why an encoding is refused at dispatch (R51). -/
inductive Reject where
  /-- FCODE 0x02: an illegal encoding, a nonzero reserved or must-be-zero field, an invalid field value. -/
  | illegal
  /-- FCODE 0x03: an opcode, function code, selector or field value listed as reserved. -/
  | reserved
  deriving DecidableEq, Repr

/-- The FCODE of a refused encoding (R51). -/
def Reject.fcode : Reject → Nat
  | .illegal => 0x02
  | .reserved => 0x03

/-- The access of a state register (R105, R239, R261, R264, R312, R165). -/
inductive SrAccess where
  | ro | rw | reserved
  deriving DecidableEq, Repr

/-- The state-register table: which numbers exist and which `sset` may write (R105 and the rows other chapters add). -/
def srAccess (n : Nat) : SrAccess :=
  if n ≤ 0x004 then .ro
  else if n = 0x005 then .rw
  else if n ≤ 0x00A then .ro
  else if 0x010 ≤ n ∧ n ≤ 0x01B then .ro
  else if 0x020 ≤ n ∧ n ≤ 0x022 then .ro
  else if n = 0x028 ∨ n = 0x029 then .rw
  else if 0x030 ≤ n ∧ n ≤ 0x037 then .rw
  else if 0x038 ≤ n ∧ n ≤ 0x03F then .ro
  else if n = 0x040 ∨ n = 0x041 then .ro
  else if 0x048 ≤ n ∧ n ≤ 0x04E then .ro
  else if n = 0x050 ∨ n = 0x051 ∨ n = 0x058 then .ro
  else if 0x060 ≤ n ∧ n ≤ 0x0C3 then .rw
  else if 0x0C8 ≤ n ∧ n ≤ 0x0D3 then .rw
  else if n = 0x0D8 then .ro
  else if 0x0E0 ≤ n ∧ n ≤ 0x0E7 then .ro
  else if n = 0x0F0 then .rw
  else .reserved

/-- Refuse as illegal unless the condition holds. -/
def need (b : Bool) : Option Reject := if b then none else some .illegal

/-- Refuse as reserved unless the condition holds. -/
def needCode (b : Bool) : Option Reject := if b then none else some .reserved

/-- The first refusal of a list of checks, in the order written. -/
def firstReject : List (Option Reject) → Option Reject
  | [] => none
  | none :: rest => firstReject rest
  | some r :: _ => some r

/-- The tokens a queue has no neighbour for must be zero: no west of L, no east of S (R56). -/
def contTokens (q : Queue) (k : Cont) : Bool :=
  match q with
  | .l => !k.pw && !k.sw
  | .s => !k.pe && !k.se
  | _ => true

/-- A continuation of an instruction that takes a predicate and no extra operand. -/
def contPred (q : Queue) : Option Cont → Bool
  | none => true
  | some k => contTokens q k && k.xg == 0

/-- A continuation of an instruction that takes neither a predicate nor an extra operand. -/
def contPlain (q : Queue) : Option Cont → Bool
  | none => true
  | some k => contTokens q k && k.xg == 0 && k.q == 0

/-- A mod field naming an integer type for INT 1, any floating type for INT 0 (R217, R222, R229). -/
def intTypeOk (i : Bool) (t : BitVec 2) : Bool := !i || t.toNat < 2

/-- A vcvt type code: 0x5 to 0x7 are illegal and 0xB to 0xF reserved (R225). -/
def cvtCode (x : BitVec 4) : Option Reject :=
  if x.toNat ≥ 0xB then some .reserved else if 5 ≤ x.toNat ∧ x.toNat ≤ 7 then some .illegal else none

/-- The continuation of a q.wait or q.sig: none in the C, F and K queues, plain in a timed queue (R60). -/
def qCont (q : Queue) (k : Option Cont) : Bool :=
  if q.timed then contPlain q k else k.isNone

/-- What the manual refuses in the fields of an instruction, or `none` (R51 to R65 and each entry). Events have no encoding and
no check. -/
def Instr.check : Instr → Option Reject
  | .cmpi _ _ k _ => needCode (k.toNat < 3)
  | .id _ s => needCode (s.toNat < 6)
  | .sget _ n => needCode (srAccess n.toNat != .reserved)
  | .sset _ n =>
    match srAccess n.toNat with
    | .rw => none
    | .ro => some .illegal
    | .reserved => some .reserved
  | .loop _ _ o | .loopPre _ _ o | .loopp _ _ o | .looppPre _ _ o => need (1 ≤ o.toNat && o.toNat ≤ 2047)
  | .amo _ _ _ c _ _ p => firstReject [needCode (p.toNat < 10), need (c.toNat < 6)]
  | .gridShrink n => need (1 ≤ n.toNat && n.toNat ≤ 64)
  | .kgSet n _ _ => need (n.toNat < 4)
  | .qWait q _ k => need (qCont q k)
  | .qSig q _ k => need (qCont q k)
  | .launch _ _ w k => need (w || k == 0)
  | .bar s => need (1 ≤ s.toNat && s.toNat ≤ 3)
  | .fenceSc s => need (s.toNat < 6)
  | .ld _ _ _ k => need (contPred .l k)
  | .ldt m _ _ _ k => need (m.toNat < 3 && contPred .l k)
  | .ldg _ _ _ _ _ k => need (contTokens .l k)
  | .cp _ _ _ _ k => need (contPlain .l k)
  | .rput _ _ _ k => need (contPlain .l k)
  | .rtake _ _ k => need (contPred .l k)
  | .ldx _ _ _ _ k => need (contPlain .l k)
  | .tlRun _ k => need (contPlain .l k)
  | .st _ _ _ k => need (contPred .s k)
  | .stt m _ _ _ k => need (m.toNat < 3 && contPred .s k)
  | .stg _ _ _ _ _ k => need (contTokens .s k)
  | .stStr _ _ _ _ _ k => need (contPred .s k)
  | .sttStr m _ _ _ _ _ k => need (m.toNat < 3 && contPred .s k)
  | .mld _ _ k => need (contPlain .m k)
  | .mmul _ c y _ _ k => need (c.getLsbD 2 == y && contPlain .m k)
  | .mmulCh _ c y _ _ k => need (c.getLsbD 2 == y && contPlain .m k)
  | .mmulCf _ _ c y _ k => need (c.getLsbD 2 == y && contPlain .m k)
  | .mrd _ _ _ _ k => need (contPred .m k)
  | .mclr m c y _ k =>
    need (c.getLsbD 2 == y && contPlain .m k &&
      (match m.toNat with
       | 0 => true
       | 1 => c == 0 || c == 4
       | 2 => !c.getLsbD 0
       | _ => c == 0))
  | .mattn _ _ _ _ k => need (contPred .m k)
  | .mresc c y _ _ k => need (c.getLsbD 2 == y && contPlain .m k)
  | .msplLd _ n s k => need (s.toNat + n.toNat + 1 ≤ 20 && contPlain .m k)
  | .msplEv _ _ _ _ _ k => need (contPlain .m k)
  | .msplDx _ _ _ _ _ _ k => need (contPlain .m k)
  | .msplGs _ _ w _ _ _ k => need (w.toNat < 3 && contPlain .m k)
  | .msplRf _ k => need (contPlain .m k)
  | .msplRd n s _ _ k => need (s.toNat + n.toNat + 1 ≤ 20 && contPlain .m k)
  | .vadd _ _ _ _ k | .vsub _ _ _ _ k | .vmul _ _ _ _ k | .vmin _ _ _ _ k | .vmax _ _ _ _ k | .vdiv _ _ _ _ k =>
    need (contPred .v k)
  | .vabs _ _ _ k | .vneg _ _ _ k | .vsqrt _ _ _ k | .vrsqrt _ _ _ k | .vrcp _ _ _ k => need (contPred .v k)
  | .vexp2 t _ _ k | .vlog2 t _ _ k | .vtanh t _ _ k => need (t != .f64 && contPred .v k)
  | .vfma _ _ _ _ _ | .vfnm _ _ _ _ _ | .vclamp _ _ _ _ _ | .vsmxMerge _ _ _ _ | .vadam _ _ _ _ => none
  | .vcmp t c i _ _ _ k =>
    firstReject [needCode (c.toNat < 7), need (intTypeOk i t && !(i && c.toNat == 6) && contPred .v k)]
  | .vsel _ _ _ k => need (k.q != 0 && k.xg == 0)
  | .viadd _ _ _ _ k | .visub _ _ _ _ k | .vimul _ _ _ _ k | .viand _ _ _ _ k | .vior _ _ _ _ k | .vixor _ _ _ _ k
  | .vishl _ _ _ _ k | .vishr _ _ _ _ k | .visra _ _ _ _ k | .vimin _ _ _ _ k | .vimax _ _ _ _ k | .vhist _ _ _ _ k =>
    need (contPred .v k)
  | .vcvt _ _ _ dst src k => firstReject [cvtCode dst, cvtCode src, need (contPred .v k)]
  | .vmxp m _ _ _ k | .vmxu m _ _ _ k => need (m.toNat < 3 && contPlain .v k)
  | .vmov _ _ k => need (contPred .v k)
  | .vbc t _ _ n k =>
    need ((match t with
           | .f32 => n.toNat < 64
           | .bf16 | .f16 => true
           | .f64 => n.toNat < 32) && contPred .v k)
  | .vperm _ _ _ k => need (contPred .v k)
  | .vrot _ _ _ k => need (contPred .v k)
  | .vred t _ _ i o k => firstReject [needCode (o.toNat < 3), need (intTypeOk i t && contPred .v k)]
  | .vscan t _ _ i _ o k =>
    firstReject [needCode (o.toNat < 3),
      need ((if i then t.toNat == 0 else t.toNat == 0 || t.toNat == 3) && contPred .v k)]
  | .vtop _ _ _ _ _ k => need (contPred .v k)
  | .vchk _ _ k => need (contPred .v k)
  | .vamax _ _ _ k => need (contPred .v k)
  | .flLd _ _ _ _ _ u => need (u.xg == 0)
  | .fam _ op _ _ _ _ u => firstReject [needCode (op.toNat < 10), need (u.xg == 0)]
  | .fcollSet _ _ _ u => need (u.xg == 0)
  | .fred op _ t _ _ u =>
    need (op.toNat < 3 && (t.toNat == 0 || t.toNat == 1 || t.toNat == 8 || t.toNat == 9) && u.xg == 0)
  | .fbar u => need (u.xg == 0)
  | .cph m _ _ _ u => need (m.toNat < 2 && u.xg == 0)
  | .spanOpen _ _ u | .spanApp _ _ u | .kvDrop _ u => need (u.xg == 0)
  | .spanRt mode _ _ _ u => need (mode.toNat < 2 && u.xg == 0)
  | .kvWalk m g _ d _ => need (m.toNat < 2 && (m.toNat != 0 || d == 0) && (m.toNat != 1 || g == 0))
  | .kvPlan _ _ _ _ _ => none
  | .kvFork m _ rb rc u => need (m.toNat < 2 && (m.toNat != 1 || (rb == 0 && rc == 0)) && u.xg == 0)
  | .kvHint _ _ _ _ u => need (u.xg == 0)
  | _ => none

/-- An instruction that the manual lets dispatch: no field holds a refused value. -/
def Instr.WellFormed (i : Instr) : Prop := i.check = none

/-- Whether an instruction is well formed, as a Bool. -/
def Instr.wf (i : Instr) : Bool := i.check == none

end Sys2Proof
end

