-- ==== Sys2Proof/Machine/Ops.lean ====
section
/-! DEFINITION. The named operations over the state: finding a core, coach, gang or die and replacing it; registers and pending results (R87); state registers (R105); arrival words (R164); taking a fault, once for every fault of the manual (R51, R361, R362), and the record of a stop (R363). -/

namespace Sys2Proof.Machine

/-! ## Parts -/

/-- The coach of a core. -/
def coachOf (core : Nat) : Nat := core / 16

/-- The die of a coach. -/
def dieOf (coach : Nat) : Nat := coach / 8

/-- `id.car` × 8 + `id.core` of a core (R36). -/
def coreIx (core : Nat) : Nat := core % 16

/-- The carriage index of a core within its coach (R36). -/
def carOf (core : Nat) : Nat := coreIx core / 8

/-- The core index within its carriage (R36). -/
def idCore (core : Nat) : Nat := core % 8

/-- The sixteen cores of a coach, lowest first. -/
def coresOf (coach : Nat) : List Nat := span (coach * 16) 16

namespace State

/-- A core of the domain. -/
def core (s : State) (c : Nat) : Core := lookupD Core.reset s.cores c

/-- A coach of the domain. -/
def coach (s : State) (k : Nat) : Coach := lookupD Coach.reset s.coaches k

/-- A gang, by home die * 64 + slot. -/
def gang (s : State) (g : Nat) : Gang := lookupD Gang.reset s.gangs g

/-- A die. -/
def die (s : State) (d : Nat) : Die := lookupD Die.reset s.dies d

/-- A link of a die, at die * 6 + direction. -/
def link (s : State) (l : Nat) : Link := lookupD Link.reset s.links l

/-- Replace a core. -/
def setCore (s : State) (c : Nat) (x : Core) : State := { s with cores := putKey s.cores c x }

/-- Replace a coach. -/
def setCoach (s : State) (k : Nat) (x : Coach) : State := { s with coaches := putKey s.coaches k x }

/-- Replace a gang. -/
def setGang (s : State) (g : Nat) (x : Gang) : State := { s with gangs := putKey s.gangs g x }

/-- Replace a die. -/
def setDie (s : State) (d : Nat) (x : Die) : State := { s with dies := putKey s.dies d x }

/-- Replace a link. -/
def setLink (s : State) (l : Nat) (x : Link) : State := { s with links := putKey s.links l x }

/-- Replace the control side of a core. -/
def setCtl (s : State) (c : Nat) (x : Ctl) : State := s.setCore c { s.core c with ctl := x }

/-- Replace the engine side of a core. -/
def setEng (s : State) (c : Nat) (x : Eng) : State := s.setCore c { s.core c with eng := x }

/-- Replace the data side of a core. -/
def setDat (s : State) (c : Nat) (x : Dat) : State := s.setCore c { s.core c with dat := x }

/-- The control side of a core. -/
def ctl (s : State) (c : Nat) : Ctl := (s.core c).ctl

/-- The engine side of a core. -/
def eng (s : State) (c : Nat) : Eng := (s.core c).eng

/-- The data side of a core. -/
def dat (s : State) (c : Nat) : Dat := (s.core c).dat

/-- The core whose instruction is being carried out. -/
def me (s : State) : Nat := s.focus.core

/-- A fresh identity, and the state that has used it. -/
def fresh (s : State) : Nat × State := (s.uid, { s with uid := s.uid + 1 })

/-- The next duration of R394, at most a bound, and the state that has read it (log 6). -/
def delay (s : State) (bound : Nat) : Nat × State :=
  match s.delays with
  | [] => (0, s)
  | d :: rest => (Nat.min d bound, { s with delays := rest })

end State

/-! ## State registers -/

/-- AHV.ACTIVE: the arrival handler runs (R167). -/
def Ctl.inHandler (c : Ctl) : Bool := flag (c.sr.get 0x029) 63

/-- Write a state register at once. -/
def Ctl.setSr (c : Ctl) (n : Nat) (v : Word) : Ctl := { c with sr := c.sr.put n v }

/-- Whether level k of the loop engine is active (R106). -/
def Ctl.levelActive (c : Ctl) (k : Nat) : Bool := flag (c.sr.get (0x014 + k)) 43

/-- Active loop levels, LDEPTH (R105). -/
def Ctl.depth (c : Ctl) : Nat := b2n (c.levelActive 0) + b2n (c.levelActive 1) + b2n (c.levelActive 2) + b2n (c.levelActive 3)

/-- PHS of a coach (R128): PEND saturates, WAITALL while some write of the set waits for every core. -/
def Coach.phs (k : Coach) : Word :=
  mkFld 16 32 (Nat.min (k.ph.work.length) 0xFFFFFFFF) ||| mkFld 11 5 k.ph.ndone ||| mkFld 6 5 k.ph.reach.length |||
    mkFld 1 1 (b2n (k.ph.work.any (·.wait))) ||| mkFld 0 1 (b2n k.ph.prep)

/-- MFQ: taken and untaken counts of the format FIFOs (R262). -/
def Core.mfq (c : Core) : Word :=
  mkFld 0 5 c.dat.fifo0.length ||| mkFld 8 5 c.dat.held0.length ||| mkFld 16 5 c.dat.fifo1.length |||
    mkFld 24 5 c.dat.held1.length

/-- A state register as sget reads it at the line's dispatch (R105, R107): ARITHGEN is 1 (R1, R213); TCLK, CYC, BUSED, LDEPTH, PHT, PHS,
STEPF and MFQ are computed from the machine. -/
def State.srRead (s : State) (c n : Nat) : Word :=
  let k := s.coach (coachOf c)
  match n with
  | 0x000 => 1
  | 0x004 => BitVec.ofNat 64 ((s.gang (k.gang.getD 0)).bused % 2 ^ 48)
  | 0x006 => BitVec.ofNat 64 k.tclk
  | 0x007 => BitVec.ofNat 64 s.cyc
  | 0x00A => BitVec.ofNat 64 (s.ctl c).depth
  | 0x021 => BitVec.ofNat 64 k.ph.pht
  | 0x022 => k.phs
  | 0x050 => k.stepf
  | 0x0D8 => (s.core c).mfq
  | n => (s.ctl c).sr.get n

/-- The RW bits of a state register: a write leaves its other bits as they are (R107 and each register's table). -/
def srMask (n : Nat) : Word :=
  if n = 0x029 then 0x7FF
  else if 0x060 ≤ n ∧ n ≤ 0x06F then 0xFFFFFFCFFFFFFFFF
  else if 0x080 ≤ n ∧ n ≤ 0x0BF then 0x800FFFFFFFFFFFFF
  else if n = 0x0C3 then 0xFFFFFFFF
  else if 0x0D0 ≤ n ∧ n ≤ 0x0D3 then 0xFFFFFFF8
  else if n = 0x0F0 then 0xF
  else 0xFFFFFFFFFFFFFFFF

/-- What an sset stores (R107). WALk takes LIM at once and EN and LCOACH only while OUT is 0 (R319). -/
def srStore (n : Nat) (old v : Word) : Word :=
  if 0x070 ≤ n ∧ n ≤ 0x07F then
    let m : Word := if fld old 32 11 = 0 then 0x8FFF0000000003FF else 0x3FF
    (old &&& ~~~ m) ||| (v &&& m)
  else (old &&& ~~~ (srMask n)) ||| (v &&& srMask n)

/-! ## Registers (R87) -/

/-- The key of a register in its set: the shadow s24 to s31 stand at 56 to 63 (R167). -/
def regKey (sh : Bool) (r : Nat) : Nat := if sh && decide (24 ≤ r) then r + 32 else r

/-- A register as visible to the line: s0 reads 0, the handler sees the shadow s24 to s31 (R87, R167). -/
def Ctl.reg (c : Ctl) (r : Reg) : Word :=
  if r = 0 then 0 else c.regs.get (regKey c.inHandler r.toNat)

/-- A register of the core whose instruction is being carried out. -/
def State.reg (s : State) (r : Reg) : Word := (s.ctl s.me).reg r

/-- Add a result of latency `lat` lines (R87); a write to s0 is discarded. Only s24 to s31 have a shadow in the handler: to any other register
a handler line and a main line write alike (R87, R167). -/
def Ctl.result (c : Ctl) (r : Reg) (lat : Nat) (v : Word) (wait : Option Nat) : Ctl :=
  if r = 0 then c
  else { c with pend := c.pend ++ [{ reg := r.toNat, sh := c.inHandler && decide (24 ≤ r.toNat), hnd := c.inHandler, left := lat, val := v
                                     wait := wait }] }

/-- Add a result to the core whose instruction is being carried out. -/
def State.result (s : State) (r : Reg) (lat : Nat) (v : Word) : State :=
  s.setCtl s.me ((s.ctl s.me).result r lat v none)

/-- A result that has become visible goes to its register (R87). -/
def Ctl.land (c : Ctl) (p : Pend) : Ctl := { c with regs := c.regs.put (regKey p.sh p.reg) p.val }

/-- Whether a pending result becomes visible now: its lines have passed, its value is there, and the handler does not run, or the result is the
handler's own: the handler reads the values visible at its entry (R87). -/
def Ctl.landsNow (c : Ctl) (p : Pend) : Bool := p.left == 0 && p.wait.isNone && (p.hnd || !c.inHandler)

/-- Go through the pending results from the oldest: a result that becomes visible now goes to its register and discards the older results
still pending to it (R87). `keep` holds the older results that stay. -/
def settleFrom (c : Ctl) (keep : List Pend) : List Pend → Ctl
  | [] => { c with pend := keep }
  | p :: rest =>
    if c.landsNow p = true then
      settleFrom (c.land p) (keep.filter fun q => !(q.reg == p.reg && q.sh == p.sh)) rest
    else settleFrom c (keep ++ [p]) rest

/-- Make every result visible whose lines have passed and whose value is there. -/
def Ctl.settle (c : Ctl) : Ctl := settleFrom c [] c.pend

/-- One line of a stream has dispatched: its pending results come one line nearer (R87). -/
def Ctl.countLine (c : Ctl) (hnd : Bool) : Ctl :=
  Ctl.settle { c with pend := c.pend.map fun p => if p.hnd == hnd then { p with left := p.left - 1 } else p }

/-! ## Arrival words (R164, R165) -/

/-- Registration of an operation on an arrival word. -/
def awRegister (w : Word) : Word :=
  if fld w 52 11 = 0 then mkFld 52 11 1 else setFld w 52 11 (fld w 52 11 + 1)

/-- Completion of an operation on an arrival word, with its value and status. -/
def awComplete (w : Word) (val stat : Nat) : Word :=
  let w1 := setFld w 0 48 (Nat.min (fld w 0 48 + val) (2 ^ 48 - 1))
  let w2 := if fld w1 48 4 = 0 then setFld w1 48 4 stat else w1
  let w3 := setFld w2 52 11 (fld w2 52 11 - 1)
  if fld w3 52 11 = 0 then setFld w3 63 1 1 else w3

/-- Register an operation on arrival word k of a core. -/
def State.awReg (s : State) (c k : Nat) : State :=
  let x := s.ctl c
  s.setCtl c (x.setSr (0x080 + k) (awRegister (x.sr.get (0x080 + k))))

/-- An arrival word and its record of the cycle, once an operation that started at `start` completes on it in cycle `now`: of the statuses that
come in one cycle, the one of the operation that started first counts (R164). -/
def awUpdate (w : Word) (first : Nat × Nat) (now start val stat : Nat) : Word × (Nat × Nat) :=
  let earlier := stat != 0 && decide (first.1 = now + 1) && decide (start < first.2)
  let w0 := if earlier then setFld w 48 4 0 else w
  (awComplete w0 val stat, if stat != 0 && fld w0 48 4 == 0 then (now + 1, start) else first)

/-- Complete an operation that started at `start` on arrival word k of a core. -/
def State.awDone (s : State) (c k val stat start : Nat) : State :=
  let x := s.ctl c
  let r := awUpdate (x.sr.get (0x080 + k)) (lookupD (0, 0) x.awFirst k) s.cyc start val stat
  s.setCtl c { x.setSr (0x080 + k) r.1 with awFirst := putKey x.awFirst k r.2 }

/-! ## Places of faults -/

/-- FADDR bits 63:49 of R127 for an instruction at a line, lane and half; the ADDR part is zero. -/
def placeAt (line lane : Nat) (half : Bool) : Word := mkFld 53 11 line ||| mkFld 50 3 lane ||| mkFld 49 1 (b2n half)

/-- FADDR bits 15:0 of R52 for an instruction at a line, lane and half. -/
def placeAt52 (line lane : Nat) (half : Bool) : Word := mkFld 5 11 line ||| mkFld 2 3 lane ||| mkFld 1 1 (b2n half)

/-- The place of the instruction being carried out, as R127 lays it out. -/
def State.place (s : State) : Word := placeAt s.focus.line s.focus.lane s.focus.half

/-- The place of the instruction being carried out, as R52 lays it out. -/
def State.place52 (s : State) : Word := placeAt52 s.focus.line s.focus.lane s.focus.half

/-! ## Taking a fault (R361, R362) -/

/-- The FCODE record of a fault: OWN, origin core, origin logical coach, code (R362). -/
def fcodeWord (own : Bool) (ocore ocoach code : Nat) : Word :=
  mkFld 24 1 (b2n own) ||| mkFld 20 4 ocore ||| mkFld 8 12 ocoach ||| mkFld 0 8 code

/-- Whether a stop concerns a coach: it runs, or it is on its way to its start. -/
def CStand.stoppable (c : CStand) : Bool :=
  match c with
  | .running | .loading _ | .loaded | .ready _ _ _ => true
  | _ => false

/-- How a coach stands once a stop has reached it: a coach that has not started has nothing to drain (R361); one whose start tick is still on its
way takes the tick first, for a tick that comes too late loses the die (R35). -/
def CStand.stopped (c : CStand) : CStand :=
  match c with
  | .running => .stopping
  | .loading _ | .loaded => .drained
  | .ready t rx resume => if rx = 0 then .drained else .ready t rx resume
  | c => c

/-- The other coaches of a gang: the home unit's stop message goes to each of them (R361). -/
def stopOthers (now : Nat) (self : Nat) (s : State) : List Nat → State
  | [] => s
  | k :: rest =>
    let x := s.coach k
    if k ≠ self ∧ x.stopDue = none ∧ x.stand.stoppable = true then
      let d := s.delay 0xFFFFFFFF
      stopOthers now self (d.2.setCoach k { x with stopDue := some (now + 1 + d.1) }) rest
    else stopOthers now self s rest

/-- The codes of the step-spoiling class: stream broken, uncorrectable error, die lost (R360). -/
def spoils (code : Nat) : Bool := code == 0x60 || code == 0x90 || code == 0x91

/-- How a gang stands once a fault has been raised in it: a held gang drops its held state for a step-spoiling fault (R361, R379). -/
def GStand.struck (g : GStand) (code : Nat) : GStand :=
  match g with
  | .held => if spoils code then .stopping else .held
  | .waiting | .holding | .preempted | .done | .faulted => g
  | _ => .stopping

/-- The first fault of a gang: the first report stands, and among the reports of one CYC cycle the one of the lowest logical coach and
core (R362). -/
def Gang.report (g : Gang) (now : Nat) (w : Word) : Gang :=
  match g.fault with
  | none => { g with fault := some w, faultAt := now }
  | some v =>
    if g.faultAt = now ∧ fld w 8 12 * 16 + fld w 20 4 < fld v 8 12 * 16 + fld v 20 4 then { g with fault := some w } else g

/-- Whether a fault drops the held state of a gang (R379). -/
def Gang.dropsHold (g : Gang) (code : Nat) : Bool := g.stand == .held && spoils code

/-- A gang takes the report of a fault: one that drops a held state begins a stop of its own (R362, R379). A pre-emption request is dropped with
it (R379). -/
def Gang.fail (g : Gang) (now code : Nat) (w : Word) : Gang :=
  let g1 := if g.dropsHold code then { g with fault := some w, faultAt := now } else g.report now w
  { g1 with stand := g.stand.struck code, preTmo := if g.stand.struck code = .stopping then 0 else g.preTmo }

/-- The coaches of a gang whose held state is dropped are to be saved anew, with the record of the new fault (R374, R379). -/
def State.saveAnew (s : State) (coaches : List Nat) : State :=
  coaches.foldl (fun s c =>
    let k := s.coach c
    match k.stand with
    | .saved => s.setCoach c { k with stand := .drained }
    | _ => s) s

/-- A core raises a fault of its own: it records the fault with OWN 1, its coach stops at the next TCLK cycle that takes place, the
gang takes its first fault, and the home unit stops the other coaches (R361, R362). A core that has raised a fault in the stop under
way already keeps that record. -/
def State.raise (s : State) (c code : Nat) (faddr : Word) : State :=
  let kc := coachOf c
  let k := s.coach kc
  let x := s.ctl c
  if x.own then s
  else
    let w := fcodeWord true (coreIx c) k.lco code
    let s1 := s.setCtl c { (x.setSr 0x040 w).setSr 0x041 faddr with own := true }
    let s2 := s1.setCoach kc { k with stand := k.stand.stopped }
    match k.gang with
    | none => s2
    | some g =>
      let gg := (s2.gang g).fail s.cyc code w
      let s3 := if (s2.gang g).dropsHold code then s2.saveAnew gg.coaches else s2
      stopOthers s.cyc kc (s3.setGang g gg) gg.coaches

/-- A fault of the instruction being carried out, at the place R52 lays out. -/
def State.fault52 (s : State) (code : Nat) : State := s.raise s.me code s.place52

/-- A fault of the instruction being carried out, with the address part of R127. -/
def State.faultAt (s : State) (code : Nat) (addr : Nat) : State := s.raise s.me code (s.place ||| mkFld 0 48 addr)

/-- An operand fault (R174): ADDR holds the offending value's bits 47:0. -/
def State.operandFault (s : State) (v : Nat) : State := s.faultAt 0x33 v

/-! ## The record of a stop (R363) -/

/-- The sequence number of the first entry of a queue that had not issued, or the next number to be given. -/
def cutSeq (q : List Entry) (next : Nat) : Word :=
  match q with
  | [] => mkFld 0 48 next
  | e :: _ => mkFld 63 1 (b2n e.part) ||| mkFld 0 48 e.seq

/-- CUT0 to CUT6 of a core (R363). -/
def Core.cut (x : Core) (i : Nat) : Word :=
  match i with
  | 0 => mkFld 48 11 x.ctl.pc ||| mkFld 0 48 x.ctl.lines
  | 1 => cutSeq x.eng.ql (lookupD 0 x.eng.seqs 2)
  | 2 => cutSeq x.eng.qm (lookupD 0 x.eng.seqs 3)
  | 3 => cutSeq x.eng.qv (lookupD 0 x.eng.seqs 4)
  | 4 => cutSeq x.eng.qs (lookupD 0 x.eng.seqs 5)
  | 5 => cutSeq x.eng.qf (lookupD 0 x.eng.seqs 6)
  | _ => cutSeq x.eng.qk (lookupD 0 x.eng.seqs 7)

/-- Record a core's cut, and the gang's first fault on a core that raised none of its own: its FADDR is 0 (R362, R363). -/
def Core.recordStop (x : Core) (first : Option Word) : Core :=
  let put (c : Ctl) (i : Nat) : Ctl := c.setSr (0x048 + i) (x.cut i)
  let c := (span 0 7).foldl put x.ctl
  let c2 := match first with
    | some w =>
      if c.own then c
      else (c.setSr 0x040 (setFld w 24 1 0)).setSr 0x041 0
    | none => c
  { x with ctl := c2 }

end Sys2Proof.Machine
end

