-- ==== Sys2Proof/Machine/Flags.lean ====
section
/-! DEFINITION. Conditions. The machine has no flags register: a comparison answers 1 or 0 into a register (R108, R110), a branch tests two registers (R115), and a vector comparison writes a predicate (R222). -/

namespace Sys2Proof.Machine

/-- A condition as a register value: 1 or 0 (R108). -/
def truth (b : Bool) : Word := if b then 1 else 0

/-- S(a) < S(b) (R108). -/
def ltS (a b : Word) : Bool := decide (a.toInt < b.toInt)

/-- U(a) < U(b) (R108). -/
def ltU (a b : Word) : Bool := decide (a.toNat < b.toNat)

/-- The comparison of cmpi by its kind (R110); kind 3 never dispatches. -/
def cmpKind (k : BitVec 2) (a v : Word) : Bool :=
  match k.toNat with
  | 0 => a == v
  | 1 => ltS a v
  | _ => ltU a v

/-- The branch conditions (R115). -/
inductive Cond where
  | eq | ne | lt | ge | lo | hs
  deriving DecidableEq, Repr

/-- Whether a branch condition holds of two registers (R115). -/
def Cond.holds : Cond → Word → Word → Bool
  | .eq, a, b => a == b
  | .ne, a, b => !(a == b)
  | .lt, a, b => ltS a b
  | .ge, a, b => !ltS a b
  | .lo, a, b => ltU a b
  | .hs, a, b => !ltU a b

end Sys2Proof.Machine
end

