-- ==== Sys2Proof/Decode.lean ====
section
/-! DEFINITION. The decoder of the seven queues' instruction words (R53 to R65), total on any words and refusing by FCODE, and after it the encoder written from the same tables. -/

namespace Sys2Proof

/-- The length classes of R46: 32-bit form only, 64-bit form only, both. -/
inductive LenClass where
  | short | long | both
  deriving DecidableEq, Repr

/-- The opcode field, bits 31:26, of a first word. -/
def opOf (w : BitVec 32) : Nat := (w.extractLsb' 26 6).toNat

/-- The length class of a first word in its queue (R58, R60 to R65). A reserved or illegal opcode of an engine queue counts as
both (R46). -/
def lenClass (q : Queue) (w : BitVec 32) : LenClass :=
  let op := opOf w
  match q with
  | .c => .short
  | .l => if op = 0x03 then .long else .both
  | .m => .both
  | .v => if op = 0x04 ∨ op = 0x05 ∨ op = 0x12 ∨ op = 0x13 ∨ op = 0x2B ∨ op = 0x2C then .long else .both
  | .s => if op = 0x03 then .long else .both
  | .f => if 1 ≤ op ∧ op ≤ 6 then .long else if op = 0x3C ∨ op = 0x3D then .short else .both
  | .k => if 1 ≤ op ∧ op ≤ 8 then .long else if op = 0x3C ∨ op = 0x3D then .short else .both

/-- A single bit of a word. -/
def bit1 (w : BitVec 32) (i : Nat) : Bool := w.getLsbD i

/-- A register field at a low bit. -/
def regAt (w : BitVec 32) (lo : Nat) : Reg := w.extractLsb' lo 5

/-- A grid operand field at a low bit. -/
def gridAt (w : BitVec 32) (lo : Nat) : GridOp := GridOp.ofBits (w.extractLsb' lo 8)

/-- Whether every bit a word has outside its fields is zero: the word has no bit of the mask. -/
def zeroIn (w mask : BitVec 32) : Bool := w &&& mask == 0

/-- Accept an instruction when the bits of the mask are zero, and refuse it as illegal otherwise (R53, R55). -/
def accept (w mask : BitVec 32) (i : Instr) : Except Reject Instr :=
  if zeroIn w mask then .ok i else .error .illegal

/-- The fields of a timed continuation word; bit 0 is reserved (R56). -/
def parseCont (w : BitVec 32) : Except Reject Cont :=
  if bit1 w 0 then .error .illegal
  else .ok { stamp := w.extractLsb' 16 16, pw := bit1 w 15, pe := bit1 w 14, sw := bit1 w 13, se := bit1 w 12
             q := w.extractLsb' 9 3, xg := w.extractLsb' 1 8 }

/-- The fields of an untimed continuation word; bits 31:22, 15:9 and 0 are reserved (R57). -/
def parseUCont (w : BitVec 32) : Except Reject UCont :=
  if zeroIn w 0xFFC0FE01 then .ok { aw := w.extractLsb' 16 6, xg := w.extractLsb' 1 8 } else .error .illegal

/-- The continuation of a class-B instruction, when its line carries one. -/
def optCont (c : Option (BitVec 32)) : Except Reject (Option Cont) :=
  match c with
  | none => .ok none
  | some w =>
    match parseCont w with
    | .ok k => .ok (some k)
    | .error r => .error r

/-- The continuation of a class-L timed instruction. -/
def reqCont (c : Option (BitVec 32)) : Except Reject Cont :=
  match c with
  | none => .error .illegal
  | some w => parseCont w

/-- The continuation of an F or K instruction (R57). -/
def reqUCont (c : Option (BitVec 32)) : Except Reject UCont :=
  match c with
  | none => .error .illegal
  | some w => parseUCont w

/-- The ALU group (R59): sc is the field of bits 10:6, which only sel uses. -/
def parseAlu (w : BitVec 32) : Except Reject Instr :=
  let d := regAt w 21
  let a := regAt w 16
  let b := regAt w 11
  match (w.extractLsb' 0 6).toNat with
  | 0x00 => accept w 0x7C0 (.add d a b)
  | 0x01 => accept w 0x7C0 (.sub d a b)
  | 0x02 => accept w 0x7C0 (.mul d a b)
  | 0x03 => accept w 0x7C0 (.mulh d a b)
  | 0x04 => accept w 0x7C0 (.mulhn d a b)
  | 0x05 => accept w 0x7C0 (.div d a b)
  | 0x06 => accept w 0x7C0 (.rem d a b)
  | 0x07 => accept w 0x7C0 (.and d a b)
  | 0x08 => accept w 0x7C0 (.or d a b)
  | 0x09 => accept w 0x7C0 (.xor d a b)
  | 0x0A => accept w 0x7C0 (.shl d a b)
  | 0x0B => accept w 0x7C0 (.shr d a b)
  | 0x0C => accept w 0x7C0 (.sra d a b)
  | 0x0D => accept w 0x7C0 (.min d a b)
  | 0x0E => accept w 0x7C0 (.max d a b)
  | 0x0F => .ok (.sel d a b (regAt w 6))
  | 0x10 => accept w 0x7C0 (.cmpeq d a b)
  | 0x11 => accept w 0x7C0 (.cmplt d a b)
  | 0x12 => accept w 0x7C0 (.cmplo d a b)
  | 0x13 => accept w 0xFFC0 (.clz d a)
  | 0x14 => accept w 0xFFC0 (.pop d a)
  | _ => .error .reserved

/-- The system group (R54). -/
def parseSys (w : BitVec 32) : Except Reject Instr :=
  let x := regAt w 16
  match (w.extractLsb' 21 5).toNat with
  | 0x00 => .error .illegal
  | 0x01 => accept w 0xFFFF (.exit x)
  | 0x02 => accept w 0x1F0000 (.trap (w.extractLsb' 0 16))
  | 0x03 => accept w 0x1FFFFF .yield
  | 0x04 => accept w 0x1FFFFF .hret
  | 0x05 => accept w 0x1FFFF8 (.bar (w.extractLsb' 0 3))
  | 0x06 => accept w 0x1FFFF8 (.fenceSc (w.extractLsb' 0 3))
  | 0x07 => accept w 0x1FFFFF .stepBegin
  | 0x08 => accept w 0xFFFF (.stepCommit x)
  | 0x09 => accept w 0x1FFFFF .stepAbort
  | _ => .error .reserved

/-- The control queue (R58). -/
def parseC (w : BitVec 32) : Except Reject Instr :=
  let d := regAt w 21
  let a := regAt w 16
  let i16 : BitVec 16 := w.extractLsb' 0 16
  let i21 : BitVec 21 := w.extractLsb' 0 21
  match opOf w with
  | 0x00 => parseAlu w
  | 0x01 => .ok (.addi d a i16)
  | 0x02 => .ok (.andi d a i16)
  | 0x03 => .ok (.ori d a i16)
  | 0x04 => .ok (.xori d a i16)
  | 0x05 => accept w 0xFFC0 (.shli d a (w.extractLsb' 0 6))
  | 0x06 => accept w 0xFFC0 (.shri d a (w.extractLsb' 0 6))
  | 0x07 => accept w 0xFFC0 (.srai d a (w.extractLsb' 0 6))
  | 0x08 => .ok (.cmpi d a (w.extractLsb' 14 2) (w.extractLsb' 0 14))
  | 0x09 => .ok (.li d i21)
  | 0x0A => .ok (.lih d i21)
  | 0x0B => accept w 0x1F0000 (.id d i16)
  | 0x0C => accept w 0x1FFFFF (.cyc d)
  | 0x0D => .ok (.tbase d a i16)
  | 0x0E => accept w 0x1F0000 (.sget d i16)
  | 0x0F => accept w 0x3E00000 (.sset a i16)
  | 0x10 => accept w 0x3E00000 (.br i21)
  | 0x11 => .ok (.call d i21)
  | 0x12 => accept w 0x3E0FFFF (.jr a)
  | 0x13 => accept w 0x3E0FFFF (.ret a)
  | 0x14 => .ok (.beq d a i16)
  | 0x15 => .ok (.bne d a i16)
  | 0x16 => .ok (.blt d a i16)
  | 0x17 => .ok (.bge d a i16)
  | 0x18 => .ok (.blo d a i16)
  | 0x19 => .ok (.bhs d a i16)
  | 0x1A => .ok (.loop d a i16)
  | 0x1B => .ok (.loopPre d a i16)
  | 0x1C => .ok (.loopp d a i16)
  | 0x1D => .ok (.looppPre d a i16)
  | 0x1E => accept w 0x1FFFFF (.lbrk d)
  | 0x20 => .ok (.lds d a (w.extractLsb' 14 2) (bit1 w 13) (w.extractLsb' 0 13))
  | 0x21 => .ok (.sts d a (w.extractLsb' 14 2) (bit1 w 13) (w.extractLsb' 0 13))
  | 0x22 => accept w 0x10 (.amo d a (regAt w 11) (w.extractLsb' 8 3) (w.extractLsb' 6 2) (bit1 w 5) (w.extractLsb' 0 4))
  | 0x23 => accept w 0x3FFFFC0 (.wfa (w.extractLsb' 0 6))
  | 0x24 => accept w 0x3FFFF80 (.gridShrink (w.extractLsb' 0 7))
  | 0x25 => accept w 0x3E0FFF0 (.phPrep a (w.extractLsb' 0 4))
  | 0x26 => accept w 0x3E0FFF0 (.phAdv a (w.extractLsb' 0 4))
  | 0x27 => accept w 0x3E0FFFE (.fmtPush a (bit1 w 0))
  | 0x28 => accept w 0x7FF (.kgSet d a (regAt w 11))
  | 0x3C => accept w 0x3FF0000 (.qWait .c i16 none)
  | 0x3D => accept w 0x3FFFFC0 (.qSig .c (w.extractLsb' 0 6) none)
  | 0x3E => accept w 0xFF80 (.launch d a (bit1 w 6) (w.extractLsb' 0 6))
  | 0x3F => parseSys w
  | _ => .error .reserved

/-- q.wait and q.sig of an engine queue (R60). -/
def parseQ (q : Queue) (w : BitVec 32) (k : Option Cont) : Except Reject Instr :=
  match opOf w with
  | 0x3C => accept w 0x3FF0000 (.qWait q (w.extractLsb' 0 16) k)
  | 0x3D => accept w 0x3FFFFC0 (.qSig q (w.extractLsb' 0 6) k)
  | 0x00 => .error .illegal
  | _ => .error .reserved

/-- The class-B instructions of the L queue, and its q.wait and q.sig (R61). -/
def parseLB (w : BitVec 32) (k : Option Cont) : Except Reject Instr :=
  match opOf w with
  | 0x01 => accept w 0x3000000 (.ld (gridAt w 16) (regAt w 11) (w.extractLsb' 0 11) k)
  | 0x02 => .ok (.ldt (w.extractLsb' 24 2) (gridAt w 16) (regAt w 11) (w.extractLsb' 0 11) k)
  | 0x04 => accept w 0x3E00000 (.cp (regAt w 16) (regAt w 11) (regAt w 6) (w.extractLsb' 0 6) k)
  | 0x05 => accept w 0x31000FF (.rput (w.extractLsb' 21 3) (w.extractLsb' 16 4) (gridAt w 8) k)
  | 0x06 => accept w 0x300F0FF (.rtake (gridAt w 16) (w.extractLsb' 8 4) k)
  | 0x07 => accept w 0x3E00040 (.ldx (regAt w 16) (regAt w 11) (w.extractLsb' 7 4) (w.extractLsb' 0 6) k)
  | 0x08 => accept w 0x3FF0000 (.tlRun (w.extractLsb' 0 16) k)
  | _ => parseQ .l w k

/-- The class-B instructions of the S queue (R64). -/
def parseSB (w : BitVec 32) (k : Option Cont) : Except Reject Instr :=
  match opOf w with
  | 0x01 => accept w 0x3000000 (.st (gridAt w 16) (regAt w 11) (w.extractLsb' 0 11) k)
  | 0x02 => .ok (.stt (w.extractLsb' 24 2) (gridAt w 16) (regAt w 11) (w.extractLsb' 0 11) k)
  | 0x04 => accept w 0x3000000
      (.stStr (gridAt w 16) (regAt w 11) (w.extractLsb' 7 4) (bit1 w 6) (w.extractLsb' 0 6) k)
  | 0x05 => .ok (.sttStr (w.extractLsb' 24 2) (gridAt w 16) (regAt w 11) (w.extractLsb' 7 4) (bit1 w 6)
      (w.extractLsb' 0 6) k)
  | _ => parseQ .s w k

/-- The M queue (R62). -/
def parseM (w : BitVec 32) (k : Option Cont) : Except Reject Instr :=
  let acc : BitVec 3 := w.extractLsb' 21 3
  let a := regAt w 15
  let b := regAt w 10
  let n10 : BitVec 10 := w.extractLsb' 0 10
  let n6 : BitVec 6 := w.extractLsb' 0 6
  match opOf w with
  | 0x01 =>
    if w.extractLsb' 0 10 == 63#10 then accept w 0x3EF8000 (.mld (bit1 w 20) b k) else .error .illegal
  | 0x02 => accept w 0x2007C00 (.mmul (bit1 w 24) acc (bit1 w 20) a n10 k)
  | 0x03 => accept w 0x2007C00 (.mmulCh (bit1 w 24) acc (bit1 w 20) a n10 k)
  | 0x04 => accept w 0xFFC00 (.mmulCf (bit1 w 25) (bit1 w 24) acc (bit1 w 20) n10 k)
  | 0x05 => .ok (.mrd (w.extractLsb' 24 2) (w.extractLsb' 16 8) (regAt w 11) (w.extractLsb' 0 11) k)
  | 0x06 => accept w 0xFFFC0 (.mclr (w.extractLsb' 24 2) acc (bit1 w 20) n6 k)
  | 0x07 => accept w 0x2907FC0 (.mattn (bit1 w 24) (w.extractLsb' 21 2) a n6 k)
  | 0x08 => accept w 0x3000FC0 (.mresc acc (bit1 w 20) (gridAt w 12) n6 k)
  | 0x10 => accept w 0x3FF8000 (.msplLd b (w.extractLsb' 5 5) (w.extractLsb' 0 5) k)
  | 0x11 => accept w 0x107C00 (.msplEv (w.extractLsb' 24 2) (bit1 w 23) (w.extractLsb' 21 2) a n10 k)
  | 0x12 => accept w 0x100000 (.msplDx (w.extractLsb' 24 2) (bit1 w 23) (w.extractLsb' 21 2) a b n10 k)
  | 0x13 => accept w 0x100000 (.msplGs (w.extractLsb' 24 2) (bit1 w 23) (w.extractLsb' 21 2) a b n10 k)
  | 0x14 => accept w 0xFFFFFF (.msplRf (w.extractLsb' 24 2) k)
  | 0x15 => accept w 0x3000000 (.msplRd (w.extractLsb' 21 3) (w.extractLsb' 16 5) (regAt w 11) (w.extractLsb' 0 11) k)
  | _ => parseQ .m w k

/-- The class-B instructions of the V queue (R63). -/
def parseVB (w : BitVec 32) (k : Option Cont) : Except Reject Instr :=
  let t := FTy.ofBits (w.extractLsb' 24 2)
  let t2 : BitVec 2 := w.extractLsb' 24 2
  let i8 := bit1 w 24
  let d := gridAt w 16
  let a := gridAt w 8
  let b := gridAt w 0
  match opOf w with
  | 0x01 => .ok (.vadd t d a b k)
  | 0x02 => .ok (.vsub t d a b k)
  | 0x03 => .ok (.vmul t d a b k)
  | 0x06 => .ok (.vmin t d a b k)
  | 0x07 => .ok (.vmax t d a b k)
  | 0x08 => accept w 0xFF (.vabs t d a k)
  | 0x09 => accept w 0xFF (.vneg t d a k)
  | 0x0A => .ok (.vdiv t d a b k)
  | 0x0B => accept w 0xFF (.vsqrt t d a k)
  | 0x0C => accept w 0xFF (.vrsqrt t d a k)
  | 0x0D => accept w 0xFF (.vrcp t d a k)
  | 0x0E => accept w 0xFF (.vexp2 t d a k)
  | 0x0F => accept w 0xFF (.vlog2 t d a k)
  | 0x10 => accept w 0xFF (.vtanh t d a k)
  | 0x11 => accept w 0x100000 (.vcmp t2 (w.extractLsb' 21 3) (bit1 w 19) (w.extractLsb' 16 3) a b k)
  | 0x14 => accept w 0x2000000 (.viadd i8 d a b k)
  | 0x15 => accept w 0x2000000 (.visub i8 d a b k)
  | 0x16 => accept w 0x2000000 (.vimul i8 d a b k)
  | 0x17 => accept w 0x2000000 (.viand i8 d a b k)
  | 0x18 => accept w 0x2000000 (.vior i8 d a b k)
  | 0x19 => accept w 0x2000000 (.vixor i8 d a b k)
  | 0x1A => accept w 0x2000000 (.vishl i8 d a b k)
  | 0x1B => accept w 0x2000000 (.vishr i8 d a b k)
  | 0x1C => accept w 0x2000000 (.visra i8 d a b k)
  | 0x1D => accept w 0x2000000 (.vimin i8 d a b k)
  | 0x1E => accept w 0x2000000 (.vimax i8 d a b k)
  | 0x20 => .ok (.vcvt (Rm.ofBits t2) d a (w.extractLsb' 4 4) (w.extractLsb' 0 4) k)
  | 0x21 => .ok (.vmxp t2 d a b k)
  | 0x22 => .ok (.vmxu t2 d a b k)
  | 0x23 => accept w 0x30000FF (.vmov d a k)
  | 0x24 => accept w 0x80 (.vbc t d a (w.extractLsb' 0 7) k)
  | 0x25 => accept w 0x3000000 (.vperm d a b k)
  | 0x26 => accept w 0x30000C0 (.vrot d a (w.extractLsb' 0 6) k)
  | 0x27 => accept w 0xF4 (.vred t2 d a (bit1 w 3) (w.extractLsb' 0 2) k)
  | 0x28 => accept w 0xF0 (.vscan t2 d a (bit1 w 3) (bit1 w 2) (w.extractLsb' 0 2) k)
  | 0x29 => accept w 0x2000000 (.vhist i8 d a b k)
  | 0x2A => accept w 0x2000000 (.vtop i8 (w.extractLsb' 19 5) (w.extractLsb' 16 3) a b k)
  | 0x2D => accept w 0xFF00FF (.vchk t a k)
  | 0x2E => accept w 0xFF (.vamax t d a k)
  | _ => parseQ .v w k

/-- The class-L instructions of the timed queues (R61, R63, R64). -/
def parseLong (q : Queue) (w : BitVec 32) (k : Cont) : Except Reject Instr :=
  let t := FTy.ofBits (w.extractLsb' 24 2)
  let d := gridAt w 16
  let a := gridAt w 8
  let b := gridAt w 0
  match q, opOf w with
  | .l, 0x03 => accept w 0xC0 (.ldg (w.extractLsb' 24 2) d (regAt w 11) (w.extractLsb' 8 3) (w.extractLsb' 0 6) k)
  | .s, 0x03 => accept w 0xC0 (.stg (w.extractLsb' 24 2) d (regAt w 11) (w.extractLsb' 8 3) (w.extractLsb' 0 6) k)
  | .v, 0x04 => .ok (.vfma t d a b k)
  | .v, 0x05 => .ok (.vfnm t d a b k)
  | .v, 0x12 => accept w 0x3000000 (.vsel d a b k)
  | .v, 0x13 => .ok (.vclamp t d a b k)
  | .v, 0x2B => accept w 0x3000000 (.vsmxMerge d a b k)
  | .v, 0x2C => accept w 0x3000000 (.vadam d a b k)
  | _, _ => .error .reserved

/-- The F queue (R65). -/
def parseF (w : BitVec 32) (u : UCont) : Except Reject Instr :=
  let m : BitVec 2 := w.extractLsb' 24 2
  match opOf w with
  | 0x01 => accept w 0x600000 (.flLd m (bit1 w 23) (regAt w 16) (regAt w 11) (w.extractLsb' 0 11) u)
  | 0x02 => accept w 0x70001 (.fam m (w.extractLsb' 20 4) (bit1 w 19) (regAt w 11) (regAt w 6) (regAt w 1) u)
  | 0x03 => accept w 0x30F0000 (.fcollSet (w.extractLsb' 20 4) (regAt w 11) (w.extractLsb' 0 11) u)
  | 0x04 => .ok (.fred m (w.extractLsb' 20 4) (w.extractLsb' 16 4) (regAt w 11) (w.extractLsb' 0 11) u)
  | 0x05 => accept w 0x3FFFFFF (.fbar u)
  | 0x06 => accept w 0xE0003F (.cph m (regAt w 16) (regAt w 11) (regAt w 6) u)
  | 0x00 => .error .illegal
  | _ => .error .reserved

/-- The K queue (R65, R295). -/
def parseK (w : BitVec 32) (u : UCont) : Except Reject Instr :=
  let m : BitVec 2 := w.extractLsb' 24 2
  let t : BitVec 3 := w.extractLsb' 21 3
  let ra := regAt w 16
  let rb := regAt w 11
  let rc := regAt w 6
  match opOf w with
  | 0x01 => accept w 0x300FFFF (.spanOpen t ra u)
  | 0x02 => accept w 0x3E007FF (.spanApp ra rb u)
  | 0x03 => accept w 0x7FF (.spanRt m t ra rb u)
  | 0x04 => accept w 0x3F (.kvWalk m (w.extractLsb' 16 8) rb rc u)
  | 0x05 => accept w 0xF00000 (.kvPlan m (w.extractLsb' 16 4) rb (w.extractLsb' 0 11) u)
  | 0x06 => accept w 0xE0003F (.kvFork m ra rb rc u)
  | 0x07 => accept w 0x3E0FFFF (.kvDrop ra u)
  | 0x08 => accept w 0x380003F (.kvHint (w.extractLsb' 21 2) ra rb rc u)
  | 0x00 => .error .illegal
  | _ => .error .reserved

/-- Read a first word and its continuation in a queue, before the checks of field values. The presence of the continuation is
the one that R46 lets pass; a class-L word without it and a class-S word with it are refused. -/
def parse (q : Queue) (w : BitVec 32) (c : Option (BitVec 32)) : Except Reject Instr :=
  match lenClass q w, q with
  | .long, .f =>
    match reqUCont c with
    | .ok u => parseF w u
    | .error r => .error r
  | .long, .k =>
    match reqUCont c with
    | .ok u => parseK w u
    | .error r => .error r
  | .long, q =>
    match reqCont c with
    | .ok k => parseLong q w k
    | .error r => .error r
  | _, .c => if c.isNone then parseC w else .error .illegal
  | .short, q => if c.isNone then parseQ q w none else .error .illegal
  | .both, q =>
    match q with
    | .l =>
      match optCont c with
      | .ok k => parseLB w k
      | .error r => match parseLB w none with | .error .reserved => .error .reserved | _ => .error r
    | .m =>
      match optCont c with
      | .ok k => parseM w k
      | .error r => match parseM w none with | .error .reserved => .error .reserved | _ => .error r
    | .v =>
      match optCont c with
      | .ok k => parseVB w k
      | .error r => match parseVB w none with | .error .reserved => .error .reserved | _ => .error r
    | .s =>
      match optCont c with
      | .ok k => parseSB w k
      | .error r => match parseSB w none with | .error .reserved => .error .reserved | _ => .error r
    | q => parseQ q w none

/-- The decoder: the instruction that a first word and its optional continuation hold in a queue, or the refusal that R51
gives the word. -/
def decode (q : Queue) (w : BitVec 32) (c : Option (BitVec 32)) : Except Reject Instr :=
  match parse q w c with
  | .error r => .error r
  | .ok i =>
    match i.check with
    | none => .ok i
    | some r => .error r

/-! The encoder. -/

/-- The queue, first word and continuation word of an instruction. -/
structure Words where
  q     : Queue
  first : BitVec 32
  cont  : Option (BitVec 32)
  deriving DecidableEq, Repr

/-- A Bool as one bit. -/
def b1 (b : Bool) : BitVec 1 := BitVec.ofBool b

/-- A timed continuation word (R56). -/
def Cont.word (k : Cont) : BitVec 32 :=
  k.stamp ++ b1 k.pw ++ b1 k.pe ++ b1 k.sw ++ b1 k.se ++ k.q ++ k.xg ++ 0#1

/-- An untimed continuation word (R57). -/
def UCont.word (u : UCont) : BitVec 32 := 0#10 ++ u.aw ++ 0#7 ++ u.xg ++ 0#1

/-- CR: op, sd, sa, sb, fn (R53). -/
def fmtCR (op : BitVec 6) (d a b : Reg) (fn : BitVec 11) : BitVec 32 := op ++ d ++ a ++ b ++ fn

/-- CI and CB: op, two registers, a 16-bit field (R53). -/
def fmtCI (op : BitVec 6) (d a : Reg) (i : BitVec 16) : BitVec 32 := op ++ d ++ a ++ i

/-- CL: op, sd, imm21 (R53). -/
def fmtCL (op : BitVec 6) (d : Reg) (i : BitVec 21) : BitVec 32 := op ++ d ++ i

/-- CS: op 0x3F, SYS, X, Y (R53). -/
def fmtCS (sys x : Reg) (y : BitVec 16) : BitVec 32 := 0x3F#6 ++ sys ++ x ++ y

/-- E3: op, mod, three grid-sized fields (R55). -/
def fmtE3 (op : BitVec 6) (m : BitVec 2) (d a b : BitVec 8) : BitVec 32 := op ++ m ++ d ++ a ++ b

/-- EM: op, mod, grid field, base, offset (R55). -/
def fmtEM (op : BitVec 6) (m : BitVec 2) (g : BitVec 8) (b : Reg) (o : BitVec 11) : BitVec 32 := op ++ m ++ g ++ b ++ o

/-- MX: op, mod, acc, array, A-base, B-base, rows (R55). -/
def fmtMX (op : BitVec 6) (m : BitVec 2) (acc : BitVec 3) (y : Bool) (a b : Reg) (n : BitVec 10) : BitVec 32 :=
  op ++ m ++ acc ++ b1 y ++ a ++ b ++ n

/-- E3-format K words: op, mod, IMM3, RA, RB, RC (R295). -/
def fmtK (op : BitVec 6) (m : BitVec 2) (t : BitVec 3) (ra rb rc : Reg) : BitVec 32 := op ++ m ++ t ++ ra ++ rb ++ rc ++ 0#6

/-- A C instruction's words. -/
def wC (w : BitVec 32) : Option Words := some ⟨.c, w, none⟩

/-- The words of a class-B timed instruction. -/
def wB (q : Queue) (w : BitVec 32) (k : Option Cont) : Option Words := some ⟨q, w, k.map Cont.word⟩

/-- The words of a class-L timed instruction. -/
def wL (q : Queue) (w : BitVec 32) (k : Cont) : Option Words := some ⟨q, w, some k.word⟩

/-- The words of an F or K instruction. -/
def wU (q : Queue) (w : BitVec 32) (u : UCont) : Option Words := some ⟨q, w, some u.word⟩

/-- The encoder: the words of an instruction, written from the tables of R53 to R65 and each entry; an event has none. -/
def encode : Instr → Option Words
  | .add d a b => wC (fmtCR 0x00 d a b 0x00)
  | .sub d a b => wC (fmtCR 0x00 d a b 0x01)
  | .mul d a b => wC (fmtCR 0x00 d a b 0x02)
  | .mulh d a b => wC (fmtCR 0x00 d a b 0x03)
  | .mulhn d a b => wC (fmtCR 0x00 d a b 0x04)
  | .div d a b => wC (fmtCR 0x00 d a b 0x05)
  | .rem d a b => wC (fmtCR 0x00 d a b 0x06)
  | .and d a b => wC (fmtCR 0x00 d a b 0x07)
  | .or d a b => wC (fmtCR 0x00 d a b 0x08)
  | .xor d a b => wC (fmtCR 0x00 d a b 0x09)
  | .shl d a b => wC (fmtCR 0x00 d a b 0x0A)
  | .shr d a b => wC (fmtCR 0x00 d a b 0x0B)
  | .sra d a b => wC (fmtCR 0x00 d a b 0x0C)
  | .min d a b => wC (fmtCR 0x00 d a b 0x0D)
  | .max d a b => wC (fmtCR 0x00 d a b 0x0E)
  | .sel d a b c => wC (fmtCR 0x00 d a b (c ++ 0x0F#6))
  | .cmpeq d a b => wC (fmtCR 0x00 d a b 0x10)
  | .cmplt d a b => wC (fmtCR 0x00 d a b 0x11)
  | .cmplo d a b => wC (fmtCR 0x00 d a b 0x12)
  | .clz d a => wC (fmtCR 0x00 d a 0 0x13)
  | .pop d a => wC (fmtCR 0x00 d a 0 0x14)
  | .addi d a i => wC (fmtCI 0x01 d a i)
  | .andi d a i => wC (fmtCI 0x02 d a i)
  | .ori d a i => wC (fmtCI 0x03 d a i)
  | .xori d a i => wC (fmtCI 0x04 d a i)
  | .shli d a n => wC (fmtCI 0x05 d a (0#10 ++ n))
  | .shri d a n => wC (fmtCI 0x06 d a (0#10 ++ n))
  | .srai d a n => wC (fmtCI 0x07 d a (0#10 ++ n))
  | .cmpi d a k v => wC (fmtCI 0x08 d a (k ++ v))
  | .li d i => wC (fmtCL 0x09 d i)
  | .lih d i => wC (fmtCL 0x0A d i)
  | .id d s => wC (fmtCI 0x0B d 0 s)
  | .cyc d => wC (fmtCR 0x0C d 0 0 0)
  | .tbase d a i => wC (fmtCI 0x0D d a i)
  | .sget d n => wC (fmtCI 0x0E d 0 n)
  | .sset a n => wC (fmtCI 0x0F 0 a n)
  | .br o => wC (fmtCL 0x10 0 o)
  | .call d o => wC (fmtCL 0x11 d o)
  | .jr a => wC (fmtCR 0x12 0 a 0 0)
  | .ret a => wC (fmtCR 0x13 0 a 0 0)
  | .beq a b o => wC (fmtCI 0x14 a b o)
  | .bne a b o => wC (fmtCI 0x15 a b o)
  | .blt a b o => wC (fmtCI 0x16 a b o)
  | .bge a b o => wC (fmtCI 0x17 a b o)
  | .blo a b o => wC (fmtCI 0x18 a b o)
  | .bhs a b o => wC (fmtCI 0x19 a b o)
  | .loop a b o => wC (fmtCI 0x1A a b o)
  | .loopPre a b o => wC (fmtCI 0x1B a b o)
  | .loopp a b o => wC (fmtCI 0x1C a b o)
  | .looppPre a b o => wC (fmtCI 0x1D a b o)
  | .lbrk a => wC (fmtCI 0x1E a 0 0)
  | .lds d a z q o => wC (fmtCI 0x20 d a (z ++ b1 q ++ o))
  | .sts v a z q o => wC (fmtCI 0x21 v a (z ++ b1 q ++ o))
  | .amo d a b c o z p => wC (fmtCR 0x22 d a b (c ++ o ++ b1 z ++ 0#1 ++ p))
  | .wfa k => wC (fmtCI 0x23 0 0 (0#10 ++ k))
  | .gridShrink n => wC (fmtCI 0x24 0 0 (0#9 ++ n))
  | .phPrep a n => wC (fmtCI 0x25 0 a (0#12 ++ n))
  | .phAdv a n => wC (fmtCI 0x26 0 a (0#12 ++ n))
  | .fmtPush a y => wC (fmtCI 0x27 0 a (0#15 ++ b1 y))
  | .kgSet n a b => wC (fmtCR 0x28 n a b 0)
  | .qWait q n k => some ⟨q, fmtCI 0x3C 0 0 n, k.map Cont.word⟩
  | .qSig q aw k => some ⟨q, fmtCI 0x3D 0 0 (0#10 ++ aw), k.map Cont.word⟩
  | .launch d a w k => wC (fmtCR 0x3E d a 0 (0#4 ++ b1 w ++ k))
  | .exit x => wC (fmtCS 0x01 x 0)
  | .trap c => wC (fmtCS 0x02 0 c)
  | .yield => wC (fmtCS 0x03 0 0)
  | .hret => wC (fmtCS 0x04 0 0)
  | .bar s => wC (fmtCS 0x05 0 (0#13 ++ s))
  | .fenceSc s => wC (fmtCS 0x06 0 (0#13 ++ s))
  | .stepBegin => wC (fmtCS 0x07 0 0)
  | .stepCommit d => wC (fmtCS 0x08 d 0)
  | .stepAbort => wC (fmtCS 0x09 0 0)
  | .ld g b o k => wB .l (fmtEM 0x01 0 g.bits b o) k
  | .ldt m g b o k => wB .l (fmtEM 0x02 m g.bits b o) k
  | .ldg sc g b cb nr k => wL .l (fmtEM 0x03 sc g.bits b (cb ++ 0#2 ++ nr)) k
  | .cp d s n w k => wB .l (fmtEM 0x04 0 (0#3 ++ d) s (n ++ w)) k
  | .rput m l a k => wB .l (fmtE3 0x05 0 (m ++ 0#1 ++ l) a.bits 0) k
  | .rtake d l k => wB .l (fmtE3 0x06 0 d.bits (0#4 ++ l) 0) k
  | .ldx d s p w k => wB .l (fmtEM 0x07 0 (0#3 ++ d) s (p ++ 0#1 ++ w)) k
  | .tlRun s k => wB .l (0x08#6 ++ 0#10 ++ s) k
  | .st g b o k => wB .s (fmtEM 0x01 0 g.bits b o) k
  | .stt m g b o k => wB .s (fmtEM 0x02 m g.bits b o) k
  | .stg sc g b cb nr k => wL .s (fmtEM 0x03 sc g.bits b (cb ++ 0#2 ++ nr)) k
  | .stStr g b s r o k => wB .s (fmtEM 0x04 0 g.bits b (s ++ b1 r ++ o)) k
  | .sttStr m g b s r o k => wB .s (fmtEM 0x05 m g.bits b (s ++ b1 r ++ o)) k
  | .mld y b k => wB .m (fmtMX 0x01 0 0 y 0 b 63) k
  | .mmul z c y a n k => wB .m (fmtMX 0x02 (0#1 ++ b1 z) c y a 0 n) k
  | .mmulCh z c y a n k => wB .m (fmtMX 0x03 (0#1 ++ b1 z) c y a 0 n) k
  | .mmulCf f z c y n k => wB .m (fmtMX 0x04 (b1 f ++ b1 z) c y 0 0 n) k
  | .mrd c g b o k => wB .m (fmtEM 0x05 c g b o) k
  | .mclr m c y n k => wB .m (fmtMX 0x06 m c y 0 0 (0#4 ++ n)) k
  | .mattn z c a n k => wB .m (fmtMX 0x07 (0#1 ++ b1 z) (0#1 ++ c) false a 0 (0#4 ++ n)) k
  | .mresc c y x n k => wB .m (0x08#6 ++ 0#2 ++ c ++ b1 y ++ x.bits ++ 0#6 ++ n) k
  | .msplLd b n s k => wB .m (fmtMX 0x10 0 0 false 0 b (n ++ s)) k
  | .msplEv j z c a n k => wB .m (fmtMX 0x11 j (b1 z ++ c) false a 0 n) k
  | .msplDx j z c a d n k => wB .m (fmtMX 0x12 j (b1 z ++ c) false a d n) k
  | .msplGs j z w a d n k => wB .m (fmtMX 0x13 j (b1 z ++ w) false a d n) k
  | .msplRf j k => wB .m (fmtMX 0x14 j 0 false 0 0 0) k
  | .msplRd n s b o k => wB .m (fmtEM 0x15 0 (n ++ s) b o) k
  | .vadd t d a b k => wB .v (fmtE3 0x01 t.bits d.bits a.bits b.bits) k
  | .vsub t d a b k => wB .v (fmtE3 0x02 t.bits d.bits a.bits b.bits) k
  | .vmul t d a b k => wB .v (fmtE3 0x03 t.bits d.bits a.bits b.bits) k
  | .vfma t d a b k => wL .v (fmtE3 0x04 t.bits d.bits a.bits b.bits) k
  | .vfnm t d a b k => wL .v (fmtE3 0x05 t.bits d.bits a.bits b.bits) k
  | .vmin t d a b k => wB .v (fmtE3 0x06 t.bits d.bits a.bits b.bits) k
  | .vmax t d a b k => wB .v (fmtE3 0x07 t.bits d.bits a.bits b.bits) k
  | .vabs t d a k => wB .v (fmtE3 0x08 t.bits d.bits a.bits 0) k
  | .vneg t d a k => wB .v (fmtE3 0x09 t.bits d.bits a.bits 0) k
  | .vdiv t d a b k => wB .v (fmtE3 0x0A t.bits d.bits a.bits b.bits) k
  | .vsqrt t d a k => wB .v (fmtE3 0x0B t.bits d.bits a.bits 0) k
  | .vrsqrt t d a k => wB .v (fmtE3 0x0C t.bits d.bits a.bits 0) k
  | .vrcp t d a k => wB .v (fmtE3 0x0D t.bits d.bits a.bits 0) k
  | .vexp2 t d a k => wB .v (fmtE3 0x0E t.bits d.bits a.bits 0) k
  | .vlog2 t d a k => wB .v (fmtE3 0x0F t.bits d.bits a.bits 0) k
  | .vtanh t d a k => wB .v (fmtE3 0x10 t.bits d.bits a.bits 0) k
  | .vcmp t c i p a b k => wB .v (fmtE3 0x11 t (c ++ 0#1 ++ b1 i ++ p) a.bits b.bits) k
  | .vsel d a b k => wL .v (fmtE3 0x12 0 d.bits a.bits b.bits) k
  | .vclamp t d a b k => wL .v (fmtE3 0x13 t.bits d.bits a.bits b.bits) k
  | .viadd t d a b k => wB .v (fmtE3 0x14 (0#1 ++ b1 t) d.bits a.bits b.bits) k
  | .visub t d a b k => wB .v (fmtE3 0x15 (0#1 ++ b1 t) d.bits a.bits b.bits) k
  | .vimul t d a b k => wB .v (fmtE3 0x16 (0#1 ++ b1 t) d.bits a.bits b.bits) k
  | .viand t d a b k => wB .v (fmtE3 0x17 (0#1 ++ b1 t) d.bits a.bits b.bits) k
  | .vior t d a b k => wB .v (fmtE3 0x18 (0#1 ++ b1 t) d.bits a.bits b.bits) k
  | .vixor t d a b k => wB .v (fmtE3 0x19 (0#1 ++ b1 t) d.bits a.bits b.bits) k
  | .vishl t d a b k => wB .v (fmtE3 0x1A (0#1 ++ b1 t) d.bits a.bits b.bits) k
  | .vishr t d a b k => wB .v (fmtE3 0x1B (0#1 ++ b1 t) d.bits a.bits b.bits) k
  | .visra t d a b k => wB .v (fmtE3 0x1C (0#1 ++ b1 t) d.bits a.bits b.bits) k
  | .vimin t d a b k => wB .v (fmtE3 0x1D (0#1 ++ b1 t) d.bits a.bits b.bits) k
  | .vimax t d a b k => wB .v (fmtE3 0x1E (0#1 ++ b1 t) d.bits a.bits b.bits) k
  | .vcvt r d a dst src k => wB .v (fmtE3 0x20 r.bits d.bits a.bits (dst ++ src)) k
  | .vmxp m d a b k => wB .v (fmtE3 0x21 m d.bits a.bits b.bits) k
  | .vmxu m d a b k => wB .v (fmtE3 0x22 m d.bits a.bits b.bits) k
  | .vmov d a k => wB .v (fmtE3 0x23 0 d.bits a.bits 0) k
  | .vbc t d a n k => wB .v (fmtE3 0x24 t.bits d.bits a.bits (0#1 ++ n)) k
  | .vperm d a b k => wB .v (fmtE3 0x25 0 d.bits a.bits b.bits) k
  | .vrot d a n k => wB .v (fmtE3 0x26 0 d.bits a.bits (0#2 ++ n)) k
  | .vred t d a i o k => wB .v (fmtE3 0x27 t d.bits a.bits (0#4 ++ b1 i ++ 0#1 ++ o)) k
  | .vscan t d a i e o k => wB .v (fmtE3 0x28 t d.bits a.bits (0#4 ++ b1 i ++ b1 e ++ o)) k
  | .vhist t d a b k => wB .v (fmtE3 0x29 (0#1 ++ b1 t) d.bits a.bits b.bits) k
  | .vtop t n p a x k => wB .v (fmtE3 0x2A (0#1 ++ b1 t) (n ++ p) a.bits x.bits) k
  | .vsmxMerge d a b k => wL .v (fmtE3 0x2B 0 d.bits a.bits b.bits) k
  | .vadam d a b k => wL .v (fmtE3 0x2C 0 d.bits a.bits b.bits) k
  | .vchk t a k => wB .v (fmtE3 0x2D t.bits 0 a.bits 0) k
  | .vamax t d a k => wB .v (fmtE3 0x2E t.bits d.bits a.bits 0) k
  | .flLd sz aq d a o u => wU .f (fmtEM 0x01 sz (b1 aq ++ 0#2 ++ d) a o) u
  | .fam ord op z a b d u => wU .f (fmtEM 0x02 ord (op ++ b1 z ++ 0#3) a (b ++ d ++ 0#1)) u
  | .fcollSet g b o u => wU .f (fmtEM 0x03 0 (g ++ 0#4) b o) u
  | .fred op g t b n u => wU .f (fmtEM 0x04 op (g ++ t) b n) u
  | .fbar u => wU .f (fmtEM 0x05 0 0 0 0) u
  | .cph m d h n u => wU .f (fmtEM 0x06 m (0#3 ++ d) h (n ++ 0#6)) u
  | .spanOpen tag ra u => wU .k (fmtK 0x01 0 tag ra 0 0) u
  | .spanApp ra rb u => wU .k (fmtK 0x02 0 0 ra rb 0) u
  | .spanRt mode tag ra rb u => wU .k (fmtK 0x03 mode tag ra rb 0) u
  | .kvWalk m g b d u => wU .k (fmtEM 0x04 m g b (d ++ 0#6)) u
  | .kvPlan blk nc b o u => wU .k (fmtEM 0x05 blk (0#4 ++ nc) b o) u
  | .kvFork m ra rb rc u => wU .k (fmtK 0x06 m 0 ra rb rc) u
  | .kvDrop ra u => wU .k (fmtK 0x07 0 0 ra 0 0) u
  | .kvHint prio ra rb rc u => wU .k (fmtK 0x08 0 (0#1 ++ prio) ra rb rc) u
  | .jobLogScan .. | .gangPlacement .. | .holdRequest .. | .holdCommit .. | .contextLoaded .. | .startTick ..
  | .preemptionRequest .. | .eviction .. | .childEnd .. | .launchAnswer .. | .lineDispatch .. | .timedIssue ..
  | .timedWritePerform .. | .ringBeatPark .. | .handlerEntry .. | .scalarAccessComplete .. | .cpComplete ..
  | .ldxComplete .. | .deadlineFault .. | .shiftGranuleWrite .. | .phAdvComplete .. | .timelineWord .. | .landingWrite ..
  | .tierLookupAnswer .. | .tierMoveComplete .. | .uncorrectableError .. | .kOperationApply .. | .fQueueIssue ..
  | .linkRetrain .. | .linkStateMessage .. | .flitReceive .. | .flitForward .. | .remoteWriteArrive ..
  | .acknowledgementArrive .. | .releasedWriteSend .. | .retransmitTimeout .. | .breakNotice .. | .remoteReadArrive ..
  | .readDataArrive .. | .remoteLoadTimeout .. | .remoteAtomicArrive .. | .atomicResultArrive .. | .fredContribution ..
  | .fredComplete .. | .fredTimeout .. | .fbarComplete .. | .cphGranule .. | .cphComplete .. | .dieLost ..
  | .stopMessage .. | .coachSave .. | .gangResume .. | .stepBeginRelease .. | .stepCommitDecision .. | .stepReissue ..
  | .barComplete .. | .fenceComplete .. | .coreExited .. | .gangDone .. | .hrevWrite .. | .gcmdResume .. | .gcmdEnd ..
  | .evqaRead .. | .hfaqRead .. | .kvpbWrite .. | .tcapWrite .. | .registerWrite .. | .powerOnReset .. | .quote ..
  | .readBadPageList .. | .retireGranules .. | .stageUpdate .. | .mailboxInvalidCommand .. | .telemetrySample ..
  | .paceUpdate .. | .paceWindow .. | .thermalLimit .. | .correctableError .. | .retrainComplete .. | .freezeRowRestore ..
  | .virtualFunctionReset .. => none

/-- The instruction's own queue: the queue its words stand in. Events have none. -/
def Instr.queue? (i : Instr) : Option Queue := (encode i).map Words.q

/-- The first of a list of results that is an instruction. -/
def firstOk : List (Except Reject Instr) → Option Instr
  | [] => none
  | .ok i :: _ => some i
  | .error _ :: rest => firstOk rest

/-- The instruction the decoder reads from bits numbered as the opcode table numbers them. The table's words carry no lane tag, so
the queues are tried in the order of their tags, and the first that accepts the word decides (DESIGN CHOICE, log 8). A word of more
than 32 bits has its continuation in bits 63:32, present when it is not zero or the first word is of class L; a queue in which the
first word takes no continuation does not accept it with one. -/
def decodeTableWord (nbits w : Nat) : Option Instr :=
  let first := BitVec.ofNat 32 w
  let c := if nbits ≤ 32 then BitVec.ofNat 32 0 else BitVec.ofNat 32 (w / 2 ^ 32)
  let one (q : Queue) : Except Reject Instr :=
    match lenClass q first with
    | .long => decode q first (some c)
    | .short => if c == 0 then decode q first none else .error .illegal
    | .both => decode q first (if c == 0 then none else some c)
  firstOk [one .c, one .l, one .m, one .v, one .s, one .f, one .k]

end Sys2Proof
end

