-- ==== Sys2Proof/Machine/Operands.lean ====
section
/-! DEFINITION. Operand forms: grid lines and predicates (R150, R151, R56), map entries and the translation and checks of memory operands (R120 to R126, R138 to R141, R147), nominal issue cycles (R90), and the enqueue of an engine instruction, whose checks come in the order of R89. -/

namespace Sys2Proof.Machine

/-! ## Grid operands -/

/-- The grid cell that is cell i of a line, as row * 64 + column (R150). -/
def gridKey (g : GridOp) (i : Nat) : Nat :=
  let n := g.idx.toNat
  match g.dir with
  | .h => n * 64 + i
  | .v => i * 64 + n
  | .d => i * 64 + (i + n) % 64
  | .e => i * 64 + (n + 64 - i) % 64

/-- The line k further on, with the same direction and the index modulo 64 (R153). -/
def gridNext (g : GridOp) (k : Nat) : GridOp := { g with idx := BitVec.ofNat 6 (g.idx.toNat + k) }

/-- A grid line as 64 cells (R150). -/
def readLine (d : Dat) (g : GridOp) : List Cell32 := (List.range 64).map fun i => d.grid.get (gridKey g i)

/-- The bytes of a grid line, cell 0 lowest (R150). -/
def lineBytes (l : List Cell32) : List Byte := l.flatMap fun c => bytesOf 4 c.toNat

/-- The cells of 4n bytes. -/
def cellsOf : Nat → List Byte → List Cell32
  | 0, _ => []
  | n + 1, bs => BitVec.ofNat 32 (natOfBytes (bs.take 4)) :: cellsOf n (bs.drop 4)

/-- Whether the allotment lets an operand name a line (R151). -/
def allotOk (galloc : Nat) (g : GridOp) : Bool :=
  galloc == 64 || (g.dir == .h && decide (g.idx.toNat < galloc))

/-- The grid cells of a line paired with new values, for the cells whose bit of the mask is set. -/
def lineWrites (g : GridOp) (mask : Word) (vals : List Cell32) : List (Nat × Cell32) :=
  ((List.range 64).zip vals).filterMap fun p => if mask.getLsbD p.1 then some (gridKey g p.1, p.2) else none

/-! ## Predicates -/

/-- The continuation's predicate number; 0 acts on every cell (R56). -/
def predOf (k : Option Cont) : Nat := match k with
  | some c => c.q.toNat
  | none => 0

/-- The enabled cells of an entry: all for predicate 0, else the bits of q[Q] (R56, R238). -/
def predMask (c : Ctl) (q : Nat) : Word := if q = 0 then BitVec.allOnes 64 else c.sr.get (0x0C8 + q)

/-! ## Map entries (R121, R122) -/

namespace MapEntry

/-- LENG (R121). -/
def leng (e : MapEntry) : Nat := fld e.dw0 36 28
/-- BASEG (R121). -/
def baseg (e : MapEntry) : Nat := fld e.dw0 0 36
/-- OWNER (R121). -/
def owner (e : MapEntry) : Nat := fld e.dw1 60 4
/-- SHARED (R121). -/
def shared (e : MapEntry) : Bool := flag e.dw1 59
/-- SHADOW (R121, R141). -/
def shadow (e : MapEntry) : Bool := flag e.dw1 58
/-- CARRY: 0 LIVE, 1 FRESH, 2 DROP (R121). -/
def carry (e : MapEntry) : Nat := fld e.dw1 56 2
/-- ORD: 0 SO, 1 RC, 2 UO (R121, R344). -/
def ord (e : MapEntry) : Nat := fld e.dw1 54 2
/-- PERM: 1 read, 3 read and write (R121). -/
def perm (e : MapEntry) : Nat := fld e.dw1 52 2
/-- HOME: 0 ABSENT, 1 SRAM, 2 HBM, 3 CAP, 4 PSRAM, 5 PSTRIPE (R121). -/
def home (e : MapEntry) : Nat := fld e.dw1 48 4
/-- CAR of an SRAM or PSRAM home (R122). -/
def car (e : MapEntry) : Nat := fld e.dw1 12 1
/-- BLK of an SRAM or PSRAM home (R122). -/
def blk (e : MapEntry) : Nat := fld e.dw1 9 3
/-- LCOACH of a PSRAM home (R122). -/
def lcoach (e : MapEntry) : Nat := fld e.dw1 13 12
/-- OFFG of each home kind (R122). -/
def offg (e : MapEntry) : Nat :=
  match e.home with
  | 1 => fld e.dw1 0 9
  | 4 => fld e.dw1 0 9
  | 3 => fld e.dw1 0 30
  | _ => fld e.dw1 0 25
/-- DIE0 of a PSTRIPE home (R122). -/
def die0 (e : MapEntry) : Nat := fld e.dw1 33 9
/-- Data members of a PSTRIPE home (R122). -/
def members (e : MapEntry) : Nat := fld e.dw1 29 4 + 1
/-- PAR of a PSTRIPE home (R122). -/
def par (e : MapEntry) : Bool := flag e.dw1 28
/-- LCO of a PSTRIPE home (R122). -/
def lco (e : MapEntry) : Nat := fld e.dw1 25 3

end MapEntry

/-- NCOACH of a gang (R21). -/
def Gang.ncoach (g : Gang) : Nat := fld (nthD 0 g.words 1) 0 12

/-- NDIE of a gang (R21). -/
def Gang.ndie (g : Gang) : Nat := fld (nthD 0 g.words 1) 16 9

/-- Coaches of the gang on each of its dies (R36). -/
def Gang.perDie (g : Gang) : Nat := g.ncoach / g.ndie

/-- The gang of a coach. -/
def State.gangOf (s : State) (coach : Nat) : Gang :=
  match (s.coach coach).gang with
  | some g => s.gang g
  | none => Gang.reset

/-- Whether an entry names storage for this gang: ABSENT names none, and a window or stripe set beyond the gang's shape
translates as ABSENT (R121, R123). -/
def MapEntry.present (e : MapEntry) (g : Gang) : Bool :=
  match e.home with
  | 0 => false
  | 4 => decide (e.lcoach < g.ncoach)
  | 5 => decide (e.members + b2n e.par ≤ g.ndie)
  | _ => true

/-- SIZEG of a tenant: the granules of its capacity allocation on a die (R393). -/
def Die.capSize (d : Die) (tenant : Nat) : Nat := fld (d.regs.get (0x2308 + 16 * tenant)) 0 31

/-- Whether a CAP entry lies in the tenant's allocation (R393); one that does not translates as ABSENT, like a window beyond the gang's
shape (DESIGN CHOICE, log 86). -/
def MapEntry.inAllotment (e : MapEntry) (size : Nat) : Bool := e.home != 3 || decide (e.offg + e.leng ≤ size)

/-- A map of a coach, without the CAP entries that no allocation of the tenant holds (R15, R120, R393). -/
def State.mapOf (s : State) (coach map : Nat) : List MapEntry :=
  let size := (s.die (dieOf coach)).capSize (s.gangOf coach).tenant
  (nthD [] (s.coach coach).phases map).filter fun e => e.inAllotment size

/-- The entry of a map that covers a context address with storage (R120). -/
def findEntry (g : Gang) : List MapEntry → Nat → Option MapEntry
  | [], _ => none
  | e :: rest, a =>
    if e.baseg ≤ a / 4096 ∧ a / 4096 < e.baseg + e.leng ∧ e.present g then some e else findEntry g rest a

/-- The physical coach of a gang's logical coach (R37). -/
def Gang.coachAt (g : Gang) (l : Nat) : Nat := nthD 0 g.coaches l

/-- The first granule of the tenant's capacity allocation on a die (R393). -/
def State.capBase (s : State) (die tenant : Nat) : Nat := fld ((s.die die).regs.get (0x2300 + 16 * tenant)) 0 30

/-- POOL of a tenant: its fast-pool granules per coach (R187). -/
def State.poolSize (s : State) (die tenant : Nat) : Nat := fld ((s.die die).regs.get (0x2100 + 8 * tenant)) 0 25

/-- The key of a tier page of a tenant among a die's pages. -/
def pageKey (tenant page : Nat) : Nat := tenant * 2 ^ 32 + page

/-- The current home of a byte of a tenant's capacity allocation: a fast pool while its page is resident, else the capacity tier
(R187, R188). -/
def State.capLoc (s : State) (die tenant off : Nat) : Loc :=
  let p := lookupD Page.reset (s.die die).pages (pageKey tenant (off / 4096))
  match p.coach with
  | some k => .hbm k (p.slot * 4096 + off % 4096)
  | none => .cap die (s.capBase die tenant * 4096 + off)

/-- The home of a byte of a coach now: a byte of the capacity tier may be resident in a fast pool (R187). -/
def State.homeNow (s : State) (coach : Nat) (l : Loc) : Loc :=
  match l with
  | .cap d o => s.capLoc d (s.gangOf coach).tenant (o - s.capBase d (s.gangOf coach).tenant * 4096)
  | l => l

/-- Mark the page that is resident in a granule of a coach's pool as written (R189). -/
def Die.notePool (d : Die) (coach slot : Nat) : Die :=
  { d with pages := d.pages.map fun p =>
      if p.2.coach == some coach && p.2.slot == slot then (p.1, { p.2 with dirty := true }) else p }

/-- Note writes to granules, given by their keys / 4096: a tier page that is resident in one of them has been written (R189, R190). -/
def State.notePages (s : State) : List Nat → State
  | [] => s
  | g :: rest =>
    let coach := g >>> 55
    let slot := g % 2 ^ 52
    let d := s.die (dieOf coach)
    if (g >>> 52) % 8 = 1 ∧ (d.pages.any fun p => p.2.coach == some coach && p.2.slot == slot) = true then
      State.notePages (s.setDie (dieOf coach) (d.notePool coach slot)) rest
    else State.notePages s rest

/-- The storage of a byte of a region in a version, as seen from a coach (R122, R140, R141). -/
def State.locIn (s : State) (coach : Nat) (e : MapEntry) (ver addr : Nat) : Loc :=
  let g := s.gangOf coach
  let i := addr / 4096 - e.baseg
  let o := addr % 4096
  let v := if e.shadow then ver else 0
  match e.home with
  | 1 => .sram coach (e.car * 2 ^ 24 + e.blk * 2 ^ 21 + (e.offg + i + v * e.leng) * 4096 + o)
  | 2 => .hbm coach ((e.offg + i + v * e.leng) * 4096 + o)
  | 3 => s.capLoc (dieOf coach) g.tenant ((e.offg + i) * 4096 + o)
  | 4 => .sram (g.coachAt e.lcoach) (e.car * 2 ^ 24 + e.blk * 2 ^ 21 + (e.offg + i) * 4096 + o)
  | _ =>
    let n := e.members
    let r := (e.leng + n - 1) / n
    let die := (e.die0 + i % n) % g.ndie
    .hbm (g.coachAt (die * g.perDie + e.lco)) ((e.offg + i / n + v * r) * 4096 + o)

/-- The parity storage of a byte of a stripe set, when it has a parity member (R140). -/
def State.parityOf (s : State) (coach : Nat) (e : MapEntry) (ver addr : Nat) : Option Loc :=
  if e.home = 5 ∧ e.par then
    let g := s.gangOf coach
    let i := addr / 4096 - e.baseg
    let n := e.members
    let r := (e.leng + n - 1) / n
    let v := if e.shadow then ver else 0
    let die := (e.die0 + n) % g.ndie
    some (.hbm (g.coachAt (die * g.perDie + e.lco)) ((e.offg + i / n + v * r) * 4096 + addr % 4096))
  else none

/-- The parts of an operand: each lies in one region, and in one granule of a stripe set, or is the rest of the operand from the first
byte that no region covers (R126, R140). -/
def partsOf (g : Gang) (m : List MapEntry) : Nat → Nat → Nat → List (Nat × Nat × Option MapEntry)
  | 0, _, _ => []
  | f + 1, a, stop =>
    if stop ≤ a then []
    else
      match findEntry g m a with
      | none => [(a, stop - a, none)]
      | some e =>
        let next := Nat.min stop (if e.home = 5 then (a / 4096 + 1) * 4096 else (e.baseg + e.leng) * 4096)
        (a, next - a, some e) :: partsOf g m f next stop

/-- The parts of an operand of a length, through a map of a coach. A map has at most 256 entries (R15). -/
def State.parts (s : State) (coach map a len : Nat) : List (Nat × Nat × Option MapEntry) :=
  partsOf (s.gangOf coach) (s.mapOf coach map) (300 + len / 4096) a (a + len)

/-- The storage of a context address through a map, when the map covers it. -/
def State.locOf (s : State) (coach map ver addr : Nat) : Option Loc :=
  (findEntry (s.gangOf coach) (s.mapOf coach map) addr).map fun e => s.locIn coach e ver addr

/-- The access classes (R125); the two ends of ldx are bulk operands of one home each (R186). -/
inductive Cls where
  | timedLocal | timedStore | bulk | ldxSrc | ldxDst | scalar | fabric | host | ctx
  deriving DecidableEq, Repr

/-- Whether a class may reach a home (R125). -/
def Cls.reaches (c : Cls) (home : Nat) : Bool :=
  match c with
  | .timedLocal => home == 1
  | .timedStore => home == 1 || home == 4 || home == 5
  | .bulk => home == 1 || home == 2 || home == 3
  | .ldxSrc => home == 2
  | .ldxDst => home == 1
  | .scalar => home == 1
  | .fabric => home == 4 || home == 5
  | .host => home == 1 || home == 2
  | .ctx => home == 1

/-- Whether a core reaches an SRAM part as a timed operand: it lies in its W or E block (R145, R147). -/
def besideCore (core : Nat) (e : MapEntry) : Bool :=
  e.car == carOf core && (e.blk == idCore core || e.blk == (idCore core + 1) % 8)

/-- Check 2 of R126 for one part. -/
def homeOk (core : Nat) (c : Cls) (e : MapEntry) : Bool :=
  c.reaches e.home &&
    (match c with
     | .timedLocal => besideCore core e
     | .timedStore => e.home != 1 || besideCore core e
     | _ => true)

/-- Check 3 of R126 for one part. -/
def ownerOk (core : Nat) (e : MapEntry) : Bool := e.shared || e.owner == coreIx core

/-- The first part that fails a check, as its first address. -/
def firstBad (ok : MapEntry → Bool) : List (Nat × Nat × Option MapEntry) → Option Nat
  | [] => none
  | (_, _, none) :: rest => firstBad ok rest
  | (a, _, some e) :: rest => if ok e then firstBad ok rest else some a

/-- The first part that no region covers. -/
def firstAbsent : List (Nat × Nat × Option MapEntry) → Option Nat
  | [] => none
  | (a, _, none) :: _ => some a
  | (_, _, some _) :: rest => firstAbsent rest

/-- Checks 1 to 4 of R126 in their order: FCODE and first address of the first failing part. -/
def checkParts (core : Nat) (c : Cls) (write : Bool) (ps : List (Nat × Nat × Option MapEntry)) : Option (Nat × Nat) :=
  match firstAbsent ps with
  | some a => some (0x20, a)
  | none =>
    match firstBad (homeOk core c) ps with
    | some a => some (0x21, a)
    | none =>
      match firstBad (ownerOk core) ps with
      | some a => some (0x22, a)
      | none =>
        match firstBad (fun e => !write || e.perm == 3) ps with
        | some a => some (0x23, a)
        | none => none

/-- The checks of R120 and R126 for an operand of a core through a map: a computed address with a bit of 63:48 set is absent. -/
def State.checkOperand (s : State) (core map : Nat) (c : Cls) (write : Bool) (addr : Word) (len : Nat) : Option (Nat × Nat) :=
  if 2 ^ 48 ≤ addr.toNat then some (0x20, addr.toNat)
  else checkParts core c write (s.parts (coachOf core) map addr.toNat len)

/-! ## Enqueue (R89, R90) -/

/-- A fault found at enqueue: with the address layout of R127, or with the plain layout of R52. -/
inductive Flt where
  | at127 (code addr : Nat)
  | at52 (code : Nat)
  deriving DecidableEq, Repr

/-- Take a fault found at enqueue or dispatch. -/
def State.take (s : State) (f : Flt) : State :=
  match f with
  | .at127 code addr => s.faultAt code addr
  | .at52 code => s.fault52 code

/-- PH of a core: the map its enqueues translate through (R128). -/
def State.mapNow (s : State) (core : Nat) : Nat := fld ((s.ctl core).sr.get 0x020) 0 4

/-- The version of a SHADOW region an enqueue of a core translates to (R370). -/
def State.verNow (s : State) (core : Nat) : Nat :=
  let f := (s.coach (coachOf core)).stepf
  let cv := b2n (flag f 3)
  if flag f 2 && (s.ctl core).inStep then 1 - cv else cv

/-- TMODE of a core: token mode when it is 1 (R93). -/
def State.tokenMode (s : State) (core : Nat) : Bool := flag ((s.ctl core).sr.get 0x001) 0

/-- GALLOC.LINES of a core (R151). -/
def State.galloc (s : State) (core : Nat) : Nat := fld ((s.ctl core).sr.get 0x002) 0 7

/-- TBASE of a core as visible to the line (R90). -/
def State.tbaseNow (s : State) (core : Nat) : Nat := ((s.ctl core).sr.get 0x005).toNat

/-- The nominal issue cycle of an entry of a timed queue (R90). -/
def State.nominal (s : State) (core : Nat) (q : Queue) (k : Option Cont) : Nat :=
  match k with
  | some c => (s.tbaseNow core + c.stamp.toNat) % 2 ^ 64
  | none =>
    match lookup? (s.eng core).lastN q.tag with
    | some n => (n + 1) % 2 ^ 64
    | none => s.tbaseNow core

/-- Whether a nominal issue cycle lies after that of the queue's previous entry (R90). -/
def State.orderOk (s : State) (core : Nat) (q : Queue) (n : Nat) : Bool :=
  match lookup? (s.eng core).lastN q.tag with
  | some p => decide (p < n)
  | none => true

/-- The entries of a queue. -/
def Eng.queue (e : Eng) (q : Queue) : List Entry :=
  match q with
  | .l => e.ql | .m => e.qm | .v => e.qv | .s => e.qs | .f => e.qf | .k => e.qk
  | .c => []

/-- Replace the entries of a queue. -/
def Eng.setQueue (e : Eng) (q : Queue) (l : List Entry) : Eng :=
  match q with
  | .l => { e with ql := l } | .m => { e with qm := l } | .v => { e with qv := l } | .s => { e with qs := l }
  | .f => { e with qf := l } | .k => { e with qk := l }
  | .c => e

/-- What an engine instruction puts into its entry: the values of R395, the registers it captures, and its first drain state. -/
structure Fields where
  v0  : Word := 0
  v1  : Word := 0
  v2  : Word := 0
  v3  : Word := 0
  cap : List Word := []
  rem : Nat := 0
  zr  : Nat := 0
  deriving DecidableEq, Repr

/-- Append an entry to a queue of the core whose line dispatches. Its map and the version of a SHADOW region are fixed here, those of the rows
of a gather or scatter too (DESIGN CHOICE, log 91: R137 speaks of the map only). -/
def State.append (s : State) (q : Queue) (ins : Instr) (n : Nat) (f : Fields) : State :=
  let c := s.me
  let x := s.eng c
  let e : Entry :=
    { ins := ins, id := s.uid, seq := lookupD 0 x.seqs q.tag, n := n, disp := s.cyc, map := s.mapNow c, ver := s.verNow c
      v0 := f.v0, v1 := f.v1, v2 := f.v2, v3 := f.v3, cap := f.cap, place := s.place, rem := f.rem, p0 := 0, zr := f.zr
      part := false, cut := false }
  let x1 := x.setQueue q (x.queue q ++ [e])
  let x2 := { x1 with seqs := putKey x1.seqs q.tag (e.seq + 1)
                      lastN := if q.timed then putKey x1.lastN q.tag n else x1.lastN }
  { (s.setEng c x2) with uid := s.uid + 1 }

/-- The first allotment failure among grid operands: FCODE 0x30 with the operand in ADDR bits 7:0 (R89, R151, R174). -/
def State.gridFault (s : State) (gs : List GridOp) : Option Flt :=
  match gs.find? fun g => !allotOk (s.galloc s.me) g with
  | some g => some (.at127 0x30 g.bits.toNat)
  | none => none

/-- Enqueue an engine instruction: grid operands, then issue cycle and order, then the state it captures, then its operand; the
first failing check is taken as a precise fault, and otherwise the entry is appended and its arrival word registers (R89, R164). The
captured state may change the machine (the taking of format words, R243). -/
def State.enqueue (s : State) (q : Queue) (ins : Instr) (k : Option Cont) (grids : List GridOp)
    (capture : Except Flt (List Word × State)) (operand : List Word → Except Flt Fields) (aw : Option Nat) : State :=
  match s.gridFault grids with
  | some f => s.take f
  | none =>
    let n := if q.timed then s.nominal s.me q k else 0
    if q.timed && !s.orderOk s.me q n then s.take (.at52 0x10)
    else
      match capture with
      | .error f => s.take f
      | .ok (cap, s1) =>
        match operand cap with
        | .error f => s.take f
        | .ok fs =>
          let s2 := s1.append q ins n { fs with cap := cap }
          match aw with
          | some a => s2.awReg s2.me a
          | none => s2

/-- Nothing captured. -/
def State.plain (s : State) : Except Flt (List Word × State) := .ok ([], s)

/-- An operand without a memory part. -/
def noOperand (_ : List Word) : Except Flt Fields := .ok {}

/-- An operand check as an enqueue result. -/
def orFault (c : Option (Nat × Nat)) (f : Fields) : Except Flt Fields :=
  match c with
  | some (code, a) => .error (.at127 code (a % 2 ^ 48))
  | none => .ok f

/-- The address of a memory operand: base register + offset × 64 (R89). -/
def State.address (s : State) (b : Reg) (o : Nat) : Word := s.reg b + BitVec.ofNat 64 (o * 64)

end Sys2Proof.Machine
end

