-- ==== Sys2Proof/Machine/Control.lean ====
section
/-! DEFINITION. The plain instructions of the control queue: arithmetic, immediates, identifiers, state registers and flow changes (R107 to R115). -/

namespace Sys2Proof.Machine

/-! ## Arithmetic -/

/-- Bits 127:64 of the signed product. -/
def mulHighS (a b : Word) : Word := BitVec.ofInt 64 ((a.toInt * b.toInt) / 2 ^ 64)

/-- Bits 127:64 of the unsigned product. -/
def mulHighU (a b : Word) : Word := BitVec.ofNat 64 ((a.toNat * b.toNat) / 2 ^ 64)

/-- The signed quotient truncated toward zero; all ones for a divisor of 0; the overflow wraps to 2^63 (R108). -/
def divS (a b : Word) : Word := if b = 0 then BitVec.allOnes 64 else BitVec.ofInt 64 (a.toInt.tdiv b.toInt)

/-- The signed remainder with the sign of a; a for a divisor of 0 (R108). -/
def remS (a b : Word) : Word := if b = 0 then a else BitVec.ofInt 64 (a.toInt.tmod b.toInt)

/-- A left shift by 0 to 63. -/
def shlW (a : Word) (n : Nat) : Word := a <<< n

/-- A logical right shift by 0 to 63. -/
def shrW (a : Word) (n : Nat) : Word := a >>> n

/-- An arithmetic right shift by 0 to 63. -/
def sraW (a : Word) (n : Nat) : Word := a.sshiftRight n

/-- Leading zero bits among the lowest i bits. -/
def leadingZeros (a : Word) : Nat → Nat
  | 0 => 0
  | i + 1 => if a.getLsbD i then 0 else leadingZeros a i + 1

/-- Set bits among the lowest i bits. -/
def setBits (a : Word) : Nat → Nat
  | 0 => 0
  | i + 1 => b2n (a.getLsbD i) + setBits a i

/-- The result of `add`: (a + b) mod 2^64 (R108). -/
def aluAdd (a b : Word) : Word := a + b

/-- The result of `sub`: (a − b) mod 2^64 (R108). -/
def aluSub (a b : Word) : Word := a - b

/-- The result of `mul`: (a × b) mod 2^64 (R108). -/
def aluMul (a b : Word) : Word := a * b

/-- The result of `mulh`: bits 127:64 of the signed product (R108). -/
def aluMulh (a b : Word) : Word := mulHighS a b

/-- The result of `mulhn`: bits 127:64 of the unsigned product (R108). -/
def aluMulhn (a b : Word) : Word := mulHighU a b

/-- The result of `div`: the signed quotient (R108). -/
def aluDiv (a b : Word) : Word := divS a b

/-- The result of `rem`: the signed remainder (R108). -/
def aluRem (a b : Word) : Word := remS a b

/-- The result of `and`: bitwise and (R108). -/
def aluAnd (a b : Word) : Word := a &&& b

/-- The result of `or`: bitwise or (R108). -/
def aluOr (a b : Word) : Word := a ||| b

/-- The result of `xor`: bitwise exclusive or (R108). -/
def aluXor (a b : Word) : Word := a ^^^ b

/-- The result of `shl`: a shifted left by b[5:0] (R108). -/
def aluShl (a b : Word) : Word := shlW a (fld b 0 6)

/-- The result of `shr`: a shifted right by b[5:0], zeros entering (R108). -/
def aluShr (a b : Word) : Word := shrW a (fld b 0 6)

/-- The result of `sra`: a shifted right by b[5:0], the sign entering (R108). -/
def aluSra (a b : Word) : Word := sraW a (fld b 0 6)

/-- The result of `min`: the signed minimum (R108). -/
def aluMin (a b : Word) : Word := if ltS b a then b else a

/-- The result of `max`: the signed maximum (R108). -/
def aluMax (a b : Word) : Word := if ltS a b then b else a

/-- The result of `cmpeq`: 1 if a = b, else 0 (R108). -/
def aluCmpeq (a b : Word) : Word := truth (a == b)

/-- The result of `cmplt`: 1 if S(a) < S(b), else 0 (R108). -/
def aluCmplt (a b : Word) : Word := truth (ltS a b)

/-- The result of `cmplo`: 1 if U(a) < U(b), else 0 (R108). -/
def aluCmplo (a b : Word) : Word := truth (ltU a b)

/-- `add`: sd := (a + b) mod 2^64, latency 1 (R108). -/
def execAdd (d a b : Reg) (s : State) : Host.Outcome State Fault Refusal :=
  .next (s.result d 1 (aluAdd (s.reg a) (s.reg b)))

/-- `sub`: sd := (a − b) mod 2^64, latency 1 (R108). -/
def execSub (d a b : Reg) (s : State) : Host.Outcome State Fault Refusal :=
  .next (s.result d 1 (aluSub (s.reg a) (s.reg b)))

/-- `mul`: sd := (a × b) mod 2^64, latency 2 (R108). -/
def execMul (d a b : Reg) (s : State) : Host.Outcome State Fault Refusal :=
  .next (s.result d 2 (aluMul (s.reg a) (s.reg b)))

/-- `mulh`: sd := bits 127:64 of the signed product, latency 2 (R108). -/
def execMulh (d a b : Reg) (s : State) : Host.Outcome State Fault Refusal :=
  .next (s.result d 2 (aluMulh (s.reg a) (s.reg b)))

/-- `mulhn`: sd := bits 127:64 of the unsigned product, latency 2 (R108). -/
def execMulhn (d a b : Reg) (s : State) : Host.Outcome State Fault Refusal :=
  .next (s.result d 2 (aluMulhn (s.reg a) (s.reg b)))

/-- `div`: sd := the signed quotient, latency 12 (R108). -/
def execDiv (d a b : Reg) (s : State) : Host.Outcome State Fault Refusal :=
  .next (s.result d 12 (aluDiv (s.reg a) (s.reg b)))

/-- `rem`: sd := the signed remainder, latency 12 (R108). -/
def execRem (d a b : Reg) (s : State) : Host.Outcome State Fault Refusal :=
  .next (s.result d 12 (aluRem (s.reg a) (s.reg b)))

/-- `and`: sd := bitwise and, latency 1 (R108). -/
def execAnd (d a b : Reg) (s : State) : Host.Outcome State Fault Refusal :=
  .next (s.result d 1 (aluAnd (s.reg a) (s.reg b)))

/-- `or`: sd := bitwise or, latency 1 (R108). -/
def execOr (d a b : Reg) (s : State) : Host.Outcome State Fault Refusal :=
  .next (s.result d 1 (aluOr (s.reg a) (s.reg b)))

/-- `xor`: sd := bitwise exclusive or, latency 1 (R108). -/
def execXor (d a b : Reg) (s : State) : Host.Outcome State Fault Refusal :=
  .next (s.result d 1 (aluXor (s.reg a) (s.reg b)))

/-- `shl`: sd := a shifted left by b[5:0], latency 1 (R108). -/
def execShl (d a b : Reg) (s : State) : Host.Outcome State Fault Refusal :=
  .next (s.result d 1 (aluShl (s.reg a) (s.reg b)))

/-- `shr`: sd := a shifted right by b[5:0], zeros entering, latency 1 (R108). -/
def execShr (d a b : Reg) (s : State) : Host.Outcome State Fault Refusal :=
  .next (s.result d 1 (aluShr (s.reg a) (s.reg b)))

/-- `sra`: sd := a shifted right by b[5:0], the sign entering, latency 1 (R108). -/
def execSra (d a b : Reg) (s : State) : Host.Outcome State Fault Refusal :=
  .next (s.result d 1 (aluSra (s.reg a) (s.reg b)))

/-- `min`: sd := the signed minimum, latency 1 (R108). -/
def execMin (d a b : Reg) (s : State) : Host.Outcome State Fault Refusal :=
  .next (s.result d 1 (aluMin (s.reg a) (s.reg b)))

/-- `max`: sd := the signed maximum, latency 1 (R108). -/
def execMax (d a b : Reg) (s : State) : Host.Outcome State Fault Refusal :=
  .next (s.result d 1 (aluMax (s.reg a) (s.reg b)))

/-- `cmpeq`: sd := 1 if a = b, else 0, latency 1 (R108). -/
def execCmpeq (d a b : Reg) (s : State) : Host.Outcome State Fault Refusal :=
  .next (s.result d 1 (aluCmpeq (s.reg a) (s.reg b)))

/-- `cmplt`: sd := 1 if S(a) < S(b), else 0, latency 1 (R108). -/
def execCmplt (d a b : Reg) (s : State) : Host.Outcome State Fault Refusal :=
  .next (s.result d 1 (aluCmplt (s.reg a) (s.reg b)))

/-- `cmplo`: sd := 1 if U(a) < U(b), else 0, latency 1 (R108). -/
def execCmplo (d a b : Reg) (s : State) : Host.Outcome State Fault Refusal :=
  .next (s.result d 1 (aluCmplo (s.reg a) (s.reg b)))

/-- `sel`: a if sc ≠ 0, else b, latency 1 (R108). -/
def execSel (d a b c : Reg) (s : State) : Host.Outcome State Fault Refusal :=
  .next (s.result d 1 (if s.reg c = 0 then s.reg b else s.reg a))

/-- `clz`: the leading zero bits of a, 0 to 64, latency 1 (R108). -/
def execClz (d a : Reg) (s : State) : Host.Outcome State Fault Refusal :=
  .next (s.result d 1 (BitVec.ofNat 64 (leadingZeros (s.reg a) 64)))

/-- `pop`: the set bits of a, 0 to 64, latency 1 (R108). -/
def execPop (d a : Reg) (s : State) : Host.Outcome State Fault Refusal :=
  .next (s.result d 1 (BitVec.ofNat 64 (setBits (s.reg a) 64)))

/-- `addi`: sd := sa + sign_extend(imm16), latency 1 (R109). -/
def execAddi (d a : Reg) (i : BitVec 16) (s : State) : Host.Outcome State Fault Refusal :=
  .next (s.result d 1 (s.reg a + i.signExtend 64))

/-- `andi`: sd := sa and zero_extend(imm16), latency 1 (R109). -/
def execAndi (d a : Reg) (i : BitVec 16) (s : State) : Host.Outcome State Fault Refusal :=
  .next (s.result d 1 (s.reg a &&& i.setWidth 64))

/-- `ori`: sd := sa or zero_extend(imm16), latency 1 (R109). -/
def execOri (d a : Reg) (i : BitVec 16) (s : State) : Host.Outcome State Fault Refusal :=
  .next (s.result d 1 (s.reg a ||| i.setWidth 64))

/-- `xori`: sd := sa xor zero_extend(imm16), latency 1 (R109). -/
def execXori (d a : Reg) (i : BitVec 16) (s : State) : Host.Outcome State Fault Refusal :=
  .next (s.result d 1 (s.reg a ^^^ i.setWidth 64))

/-- `shli`: sd := sa shifted left, latency 1 (R109). -/
def execShli (d a : Reg) (n : BitVec 6) (s : State) : Host.Outcome State Fault Refusal :=
  .next (s.result d 1 (shlW (s.reg a) n.toNat))

/-- `shri`: sd := sa shifted right, zeros entering, latency 1 (R109). -/
def execShri (d a : Reg) (n : BitVec 6) (s : State) : Host.Outcome State Fault Refusal :=
  .next (s.result d 1 (shrW (s.reg a) n.toNat))

/-- `srai`: sd := sa shifted right, the sign entering, latency 1 (R109). -/
def execSrai (d a : Reg) (n : BitVec 6) (s : State) : Host.Outcome State Fault Refusal :=
  .next (s.result d 1 (sraW (s.reg a) n.toNat))

/-- `cmpi`: 1 or 0 by the kind's comparison with sign_extend(imm16[13:0]), latency 1 (R110). -/
def execCmpi (d a : Reg) (k : BitVec 2) (v : BitVec 14) (s : State) : Host.Outcome State Fault Refusal :=
  .next (s.result d 1 (truth (cmpKind k (s.reg a) (v.signExtend 64))))

/-- `li`: sd := sign_extend(imm21), latency 1 (R111). -/
def execLi (d : Reg) (i : BitVec 21) (s : State) : Host.Outcome State Fault Refusal :=
  .next (s.result d 1 (i.signExtend 64))

/-- `lih`: sd := (sd << 21) | imm21, latency 1 (R111). -/
def execLih (d : Reg) (i : BitVec 21) (s : State) : Host.Outcome State Fault Refusal :=
  .next (s.result d 1 ((s.reg d <<< 21) ||| i.setWidth 64))

/-- The identifier that a selector names (R36, R58). -/
def State.ident (s : State) (c sel : Nat) : Nat :=
  let k := s.coach (coachOf c)
  let g := s.gangOf (coachOf c)
  match sel with
  | 0 => idCore c
  | 1 => carOf c
  | 2 => k.lco
  | 3 => k.lco / g.perDie
  | 4 => g.ncoach
  | _ => g.ndie

/-- `id`: sd := the identifier that imm16 selects, latency 1 (R112, R36). -/
def execId (d : Reg) (n : BitVec 16) (s : State) : Host.Outcome State Fault Refusal :=
  .next (s.result d 1 (BitVec.ofNat 64 (s.ident s.me n.toNat)))

/-- `cyc`: sd := CYC as of the line's dispatch, latency 1 (R112). -/
def execCyc (d : Reg) (s : State) : Host.Outcome State Fault Refusal :=
  .next (s.result d 1 (BitVec.ofNat 64 s.cyc))

/-! ## State registers -/

/-- Whether the arrival handler runs on the core whose instruction is being carried out. -/
def State.inHandler (s : State) : Bool := (s.ctl s.me).inHandler

/-- An instruction that the arrival handler may not hold raises a handler fault there (R168). -/
def State.notInHandler (s : State) (f : State → State) : State := if s.inHandler then s.fault52 0x35 else f s

/-- Put a state-register write off to the end of the line (R107). -/
def State.deferSr (s : State) (n : Nat) (v : Word) : State :=
  let c := s.ctl s.me
  s.setCtl s.me { c with defer := c.defer ++ [(n, v)] }

/-- `tbase`: t := (TBASE + sa + zero_extend(imm16)) mod 2^64; TBASE and sd take t from the next line on (R113); a handler fault in
the handler (R168). -/
def execTbase (d a : Reg) (i : BitVec 16) (s : State) : Host.Outcome State Fault Refusal :=
  .next (s.notInHandler fun s =>
    let t := (s.ctl s.me).sr.get 0x005 + s.reg a + i.setWidth 64
    (s.deferSr 0x005 t).result d 1 t)

/-- `sget`: sd := the state register as it stands when the line dispatches, latency 1 (R107). -/
def execSget (d : Reg) (n : BitVec 16) (s : State) : Host.Outcome State Fault Refusal :=
  .next (s.result d 1 (s.srRead s.me n.toNat))

/-- `sset`: the state register takes sa from the next line on (R107); an sset of TBASE is a handler fault in the handler (R168). -/
def execSset (a : Reg) (n : BitVec 16) (s : State) : Host.Outcome State Fault Refusal :=
  .next (if n.toNat = 0x005 ∧ s.inHandler then s.fault52 0x35 else s.deferSr n.toNat (s.reg a))

/-! ## Flow changes -/

/-- A line index some lines on, modulo 2048 (R43). -/
def lineAdd (line : Nat) (off : BitVec 11) : Nat := (BitVec.ofNat 11 line + off).toNat

/-- The last body line of the innermost active level, when a level is active. -/
def Ctl.lastLine (c : Ctl) : Option Nat :=
  if c.depth = 0 then none else some (fld (c.sr.get (0x014 + (c.depth - 1))) 0 11)

/-- Whether the line being dispatched is the LAST of the innermost level of the main stream (R100); handler lines never act as a loop
boundary (R167). -/
def State.atLast (s : State) : Bool := !s.inHandler && (s.ctl s.me).lastLine == some s.focus.line

/-- A flow change other than lbrk in the LAST line of the innermost level raises a loop fault (R100). -/
def State.flowChange (s : State) (f : State → State) : State := if s.atLast then s.fault52 0x14 else f s

/-- Select the next line. -/
def State.goto (s : State) (line : Nat) : State :=
  let c := s.ctl s.me
  s.setCtl s.me { c with flow := some line }

/-- A conditional branch (R115). -/
def State.branch (s : State) (c : Cond) (a b : Reg) (o : BitVec 16) : State :=
  s.flowChange fun s =>
    if c.holds (s.reg a) (s.reg b) then s.goto (lineAdd s.focus.line (o.setWidth 11)) else s

/-- `br`: the next line is n + imm21 (R114). -/
def execBr (o : BitVec 21) (s : State) : Host.Outcome State Fault Refusal :=
  .next (s.flowChange fun s => s.goto (lineAdd s.focus.line (o.setWidth 11)))

/-- `call`: as br, and sd := (n + 1) mod 2048, latency 1 (R114). -/
def execCall (d : Reg) (o : BitVec 21) (s : State) : Host.Outcome State Fault Refusal :=
  .next (s.flowChange fun s =>
    (s.goto (lineAdd s.focus.line (o.setWidth 11))).result d 1 (BitVec.ofNat 64 (lineAdd s.focus.line 1)))

/-- `jr`: the next line is sa[10:0] (R114). -/
def execJr (a : Reg) (s : State) : Host.Outcome State Fault Refusal :=
  .next (s.flowChange fun s => s.goto (fld (s.reg a) 0 11))

/-- `ret`: the effect of jr (R114). -/
def execRet (a : Reg) (s : State) : Host.Outcome State Fault Refusal :=
  .next (s.flowChange fun s => s.goto (fld (s.reg a) 0 11))

/-- `beq`: the next line is n + off16 when the condition holds, else n + 1 (R115). -/
def execBeq (a b : Reg) (o : BitVec 16) (s : State) : Host.Outcome State Fault Refusal :=
  .next (s.branch .eq a b o)

/-- `bne`: the next line is n + off16 when the condition holds, else n + 1 (R115). -/
def execBne (a b : Reg) (o : BitVec 16) (s : State) : Host.Outcome State Fault Refusal :=
  .next (s.branch .ne a b o)

/-- `blt`: the next line is n + off16 when the condition holds, else n + 1 (R115). -/
def execBlt (a b : Reg) (o : BitVec 16) (s : State) : Host.Outcome State Fault Refusal :=
  .next (s.branch .lt a b o)

/-- `bge`: the next line is n + off16 when the condition holds, else n + 1 (R115). -/
def execBge (a b : Reg) (o : BitVec 16) (s : State) : Host.Outcome State Fault Refusal :=
  .next (s.branch .ge a b o)

/-- `blo`: the next line is n + off16 when the condition holds, else n + 1 (R115). -/
def execBlo (a b : Reg) (o : BitVec 16) (s : State) : Host.Outcome State Fault Refusal :=
  .next (s.branch .lo a b o)

/-- `bhs`: the next line is n + off16 when the condition holds, else n + 1 (R115). -/
def execBhs (a b : Reg) (o : BitVec 16) (s : State) : Host.Outcome State Fault Refusal :=
  .next (s.branch .hs a b o)

end Sys2Proof.Machine
end

