-- ==== Sys2Proof/Machine/Loops.lean ====
section
/-! DEFINITION. The loop engine (R99 to R103): starting a level, lbrk, and the iteration boundary that follows a level's last line. -/

namespace Sys2Proof.Machine

/-- LCFG of a level that starts (R106). -/
def lcfgWord (pre pipe : Bool) (s ii first last : Nat) : Word :=
  mkFld 43 1 1 ||| mkFld 42 1 (b2n pre) ||| mkFld 41 1 (b2n pipe) ||| mkFld 38 3 (s - 1) ||| mkFld 22 16 ii |||
    mkFld 11 11 first ||| mkFld 0 11 last

/-- A loop form (R99, R102, R116): a loop fault while four levels are active, or for a loopp whose COUNT is too large; no level for a
COUNT of 0; else a new innermost level, from the next line on. -/
def State.startLoop (s : State) (pre pipe : Bool) (a b : Reg) (o : BitVec 16) : State :=
  s.notInHandler fun s => s.flowChange fun s =>
    let c := s.ctl s.me
    let count := fld (s.reg a) 0 32
    let ii := fld (s.reg b) 0 16
    let stages := if pipe then fld (s.reg b) 16 3 + 1 else 1
    let first := lineAdd s.focus.line 1
    let last := lineAdd s.focus.line (o.setWidth 11)
    if c.depth = 4 then s.fault52 0x14
    else if pipe ∧ 0xFFFFFFF8 < count then s.fault52 0x14
    else if count = 0 then s.goto (lineAdd last 1)
    else
      let k := c.depth
      (((s.deferSr (0x010 + k) (mkFld 32 32 count)).deferSr (0x014 + k) (lcfgWord pre pipe stages ii first last)).deferSr
        (0x018 + k) (mkFld 32 32 count)).goto first

/-- `loop` (R99). -/
def execLoop (a b : Reg) (o : BitVec 16) (s : State) : Host.Outcome State Fault Refusal :=
  .next (s.startLoop false false a b o)

/-- `loop.pre` (R99, R103). -/
def execLoopPre (a b : Reg) (o : BitVec 16) (s : State) : Host.Outcome State Fault Refusal :=
  .next (s.startLoop true false a b o)

/-- `loopp` (R99, R101). -/
def execLoopp (a b : Reg) (o : BitVec 16) (s : State) : Host.Outcome State Fault Refusal :=
  .next (s.startLoop false true a b o)

/-- `loopp.pre` (R99, R101, R103). -/
def execLooppPre (a b : Reg) (o : BitVec 16) (s : State) : Host.Outcome State Fault Refusal :=
  .next (s.startLoop true true a b o)

/-- `lbrk` (R102): a loop fault with no active level; acts only when sa ≠ 0: a plain level ends after the line, a pipelined one takes
LIMIT := min(LIMIT, ITER + 1). -/
def execLbrk (a : Reg) (s : State) : Host.Outcome State Fault Refusal :=
  .next (s.notInHandler fun s =>
    let c := s.ctl s.me
    if c.depth = 0 then s.fault52 0x14
    else if s.reg a = 0 then s
    else
      let k := c.depth - 1
      if flag (c.sr.get (0x014 + k)) 41 then
        let lsti := c.sr.get (0x018 + k)
        s.deferSr (0x018 + k)
          (setFld lsti 32 32 (Nat.min (fld lsti 32 32) (fld (c.sr.get (0x010 + k)) 0 32 + 1)))
      else s.setCtl s.me { c with brk := true })

/-- The innermost level ends: its registers are no longer active. -/
def Ctl.endLevel (c : Ctl) : Ctl :=
  let k := c.depth - 1
  { c.setSr (0x014 + k) (setFld (c.sr.get (0x014 + k)) 43 1 0) with cuts := c.cuts.filter fun i => i != k }

/-- What an iteration boundary leaves: the control state, the next line, and whether the core stops at a pre-emption point. -/
structure Boundary where
  ctl  : Ctl
  next : Nat
  stop : Bool
  deriving DecidableEq, Repr

/-- The boundaries that follow a dispatched main-stream line, innermost level first; each level that ends may be followed by the
boundary of the next one (R100, R102, R103). `preReq` is whether a pre-emption request is pending. At each boundary with one, LIMIT becomes
the lower of LIMIT and ITER, so the first such boundary cuts the pass and the later ones of its epilogue change nothing (DESIGN CHOICE,
log 89); a pass that met a request and ends with LIMIT < COUNT leaves its level active and stops the core, also when the request is gone by
then (R103). -/
def boundary (preReq : Bool) (line : Nat) : Nat → Ctl → Nat → Boundary
  | 0, c, next => ⟨c, next, false⟩
  | f + 1, c, next =>
    if c.depth = 0 then ⟨c, next, false⟩
    else
      let k := c.depth - 1
      let cfg := c.sr.get (0x014 + k)
      let last := fld cfg 0 11
      if c.brk then boundary preReq line f { c.endLevel with brk := false } (lineAdd last 1)
      else if last ≠ line then ⟨c, next, false⟩
      else
        let iter := fld (c.sr.get (0x010 + k)) 0 32 + 1
        let c1 := (c.setSr 0x005 (c.sr.get 0x005 + BitVec.ofNat 64 (fld cfg 22 16))).setSr (0x010 + k)
          (setFld (c.sr.get (0x010 + k)) 0 32 iter)
        let pre := flag cfg 42 && preReq
        let count := fld (c.sr.get (0x010 + k)) 32 32
        let lsti := c1.sr.get (0x018 + k)
        let first := fld cfg 11 11
        if flag cfg 41 then
          let limit := if pre then Nat.min (fld lsti 32 32) iter else fld lsti 32 32
          let c2 : Ctl := { c1.setSr (0x018 + k) (setFld lsti 32 32 limit) with
            cuts := if pre && !c1.cuts.contains k then c1.cuts ++ [k] else c1.cuts }
          if iter + 2 ≤ limit + (fld cfg 38 3 + 1) then ⟨c2, first, false⟩
          else if limit < count ∧ c2.cuts.contains k = true then ⟨c2, first, true⟩
          else boundary preReq line f c2.endLevel (lineAdd last 1)
        else if iter < fld lsti 32 32 then ⟨c1, first, pre⟩
        else boundary preReq line f c1.endLevel (lineAdd last 1)

/-- On resumption a pipelined level that was cut short starts a new pass: STARTIT := LIMIT, LIMIT := COUNT, ITER := STARTIT
(R103). -/
def Ctl.newPass (c : Ctl) : Ctl :=
  if c.depth = 0 then c
  else
    let k := c.depth - 1
    let cfg := c.sr.get (0x014 + k)
    let lsti := c.sr.get (0x018 + k)
    let lit := c.sr.get (0x010 + k)
    if flag cfg 41 ∧ c.cuts.contains k = true ∧ fld lsti 32 32 < fld lit 32 32 ∧ fld lsti 32 32 + (fld cfg 38 3 + 1) < fld lit 0 32 + 2 then
      { (c.setSr (0x018 + k) (mkFld 32 32 (fld lit 32 32) ||| mkFld 0 32 (fld lsti 32 32))).setSr (0x010 + k)
          (setFld lit 0 32 (fld lsti 32 32)) with cuts := c.cuts.filter fun i => i != k }
    else c

end Sys2Proof.Machine
end

