-- ==== Sys2Proof/Machine/Scalar.lean ====
section
/-! DEFINITION. Control-core memory accesses (R170 to R173), release sets and acquires (R344 to R346), arrival-word instructions (R117, R118, R166), fences and barriers (R350, R351), the end of the arrival handler (R169) and grid.shrink (R152). -/

namespace Sys2Proof.Machine

/-! ## Stores and their mirrors -/

/-- The bytes that fall in a granule already copied by a shift, moved to the granule's new home (R132). -/
def mirrorCells (copied : List (Nat × Nat)) (cells : List Host.Cell) : List Host.Cell :=
  copied.flatMap fun p =>
    cells.filterMap fun c => if p.1 ≤ c.1 ∧ c.1 < p.1 + 4096 then some (p.2 + (c.1 - p.1), c.2) else none

/-- Whether a home is reached through the OPEN slots of a timeline: HBM and the capacity tier (R130, R182). -/
def Loc.slotted : Loc → Bool
  | .hbm _ _ | .cap _ _ => true
  | _ => false

/-- The mirrors of a store into granules with slotted new homes, still to be performed (R132). -/
def lateMirrors (core : Nat) (copied : List (Loc × Loc × Nat)) (cells : List Host.Cell) : List Mirror :=
  copied.filterMap fun p =>
    let mine := cells.filterMap fun c => if p.2.2 ≤ c.1 ∧ c.1 < p.2.2 + 4096 then some (c.1 - p.2.2, c.2) else none
    if mine.isEmpty then none else some { core := core, src := p.1, dst := p.2.1, cells := mine }

/-- Write bytes that an access of a core enqueued under a map stores at its homes; a resident tier page among them has been written (R189).
While a shift runs, bytes of a granule that its copy has read are stored at the new home as well, unless the access was enqueued under the
target map: at once in SRAM, through the OPEN slots in HBM and the capacity tier (R132). -/
def State.storeCells (s : State) (coach core map : Nat) (cells : List Host.Cell) : State :=
  let k := s.coach coach
  let m := s.mem.writeCells cells
  let s1 : State :=
    if k.ph.prep ∧ map ≠ k.ph.pht then
      let at_ (l : Loc) : Nat := (s.homeNow coach l).key
      let now := (k.ph.copied.filter fun p => !p.2.slotted).map fun p => (at_ p.1, at_ p.2)
      let late := (k.ph.copied.filter fun p => p.2.slotted).map fun p => (p.1, p.2, at_ p.1)
      { (s.setCoach coach { k with ph := { k.ph with mirrors := k.ph.mirrors ++ lateMirrors core late cells } }) with
        mem := m.writeCells (mirrorCells now cells) }
    else { s with mem := m }
  s1.notePages (cells.map fun c => c.1 / 4096).eraseDups

/-- A list of bytes paired with their keys. -/
def cellsAt (k : Nat) : List Byte → List Host.Cell
  | [] => []
  | b :: t => (k, b) :: cellsAt (k + 1) t

/-! ## Release sets (R345) -/

/-- The narrowest scope that holds a byte of storage, seen from a core (R340). -/
def scopeTo (core : Nat) (l : Loc) : Nat :=
  let near (c : Nat) : Nat := if dieOf c = dieOf (coachOf core) then 3 else 4
  match l with
  | .cmem c _ => if c = core then 0 else near (c / 16)
  | .sram c o => if c ≠ coachOf core then near c else if o / 2 ^ 24 = carOf core then 1 else 2
  | .hbm c _ => if c ≠ coachOf core then near c else 2
  | .cap d _ => near (d * 8)
  | .host _ _ => 5
  | .dev d _ => near (d * 8)
  | .mbx d _ => near (d * 8)
  | .clu d _ => near (d * 8)

/-- The narrowest scope of the remote end of an fl.ld or fam: `die` when every part is a window onto a coach of the same die, else `ten`
(R340). -/
def State.remoteScope (s : State) (core : Nat) (e : Entry) (n : Nat) : Nat :=
  let kc := coachOf core
  let here (p : Nat × Nat × Option MapEntry) : Bool := match p.2.2 with
    | some r => r.home == 4 && dieOf ((s.gangOf kc).coachAt r.lcoach) == dieOf kc
    | none => false
  if (s.parts kc e.map e.v1.toNat n).all here then 3 else 4

/-- The bytes that an fl.ld reads (R328). -/
def flBytes (z : BitVec 2) : Nat := 64 * 4 ^ z.toNat

/-- The narrowest scope of an F or K entry (R340): 0 for q.wait and q.sig; `none` for fbar, which no release set waits for. -/
def State.opScope (s : State) (core : Nat) (e : Entry) : Option Nat :=
  match e.ins with
  | .fbar _ => none
  | .fcollSet .. => some 2
  | .fred .. => some 4
  | .cph .. => some 5
  | .flLd z _ _ _ _ _ => some (s.remoteScope core e (flBytes z))
  | .fam .. => some (s.remoteScope core e 1)
  | .qWait .. | .qSig .. => some 0
  | _ => some 3

/-- The F and K entries and operations of a core: queued first, then issued. -/
def Eng.fkEntries (x : Eng) : List Entry :=
  x.qf ++ x.qk ++ (x.ops.filter fun o => o.q == .f || o.q == .k).map (·.e)

/-- Whether an entry of an earlier line lies within a scope. -/
def State.inScope (s : State) (core sc : Nat) (e : Entry) : Bool :=
  decide (e.disp < s.cyc) &&
    (match s.opScope core e with
     | some n => decide (n ≤ sc)
     | none => false)

/-- The signals of the F and K queues that have issued and not completed (R118). -/
def Eng.fkSigs (x : Eng) : List Nat := (x.sigs.filter fun g => g.q == .f || g.q == .k).map (·.id)

/-- The narrowest scope of a remote write: that of its storage and of its parity member (R140, R340). -/
def OutW.scope (w : OutW) : Nat :=
  match w.par with
  | some p => Nat.max (scopeTo w.core w.loc) (scopeTo w.core p)
  | none => scopeTo w.core w.loc

/-- The release set of the line being dispatched at a scope (R345): accesses so far, F and K operations of earlier lines within the
scope (a signal lies within every scope), remote writes issued before this cycle within the scope. -/
def State.relSet (s : State) (core sc : Nat) : RelSet :=
  { acc := (s.ctl core).acc.map (·.id)
    ops := ((s.eng core).fkEntries.filter (s.inScope core sc)).map (·.id) ++ (s.eng core).fkSigs
    wr := ((s.coach (coachOf core)).fab.out.filter fun w => w.core == core && decide (w.scope ≤ sc)).map (·.id) }

/-- Whether a release set is complete (R345). -/
def State.relDone (s : State) (core : Nat) (r : RelSet) : Bool :=
  (r.acc.all fun i => !((s.ctl core).acc.any fun a => a.id == i)) &&
  (r.ops.all fun i => !((s.eng core).fkEntries.any fun e => e.id == i) && !(s.eng core).fkSigs.contains i) &&
  (r.wr.all fun i => !((s.coach (coachOf core)).fab.out.any fun w => w.id == i))

/-! ## Blocks (R88) -/

/-- The stream being dispatched waits for one thing more from the next cycle on (R88). -/
def State.setBlock (s : State) (b : Block) : State :=
  let c := s.ctl s.me
  if c.inHandler then s.setCtl s.me { c with hblocks := c.hblocks ++ [b] }
  else s.setCtl s.me { c with blocks := c.blocks ++ [b] }

/-- Waits of both streams that end. -/
def Ctl.unblock (c : Ctl) (ends : Block → Bool) : Ctl :=
  { c with blocks := c.blocks.filter fun b => !ends b, hblocks := c.hblocks.filter fun b => !ends b }

/-- Whether an entry sets an arrival word when it completes (R117). -/
def Entry.setsWord (e : Entry) : Bool :=
  match e.ins with
  | .cp .. | .ldx .. | .qSig .. | .flLd .. | .fam .. | .fcollSet .. | .fred .. | .fbar .. | .cph .. | .spanOpen ..
  | .spanApp .. | .spanRt .. | .kvWalk .. | .kvPlan .. | .kvFork .. | .kvDrop .. | .kvHint .. => true
  | _ => false

/-- The operations of a core that set an arrival word and are incomplete, by identity: entries of the queues, issued operations, and pending
q.sig (R117). -/
def Eng.wordOps (x : Eng) : List Nat :=
  ((x.ql ++ x.qm ++ x.qv ++ x.qs ++ x.qf ++ x.qk).filter Entry.setsWord).map (·.id) ++ x.ops.map (·.e.id) ++ x.sigs.map (·.id)

/-- `wfa`: the control core is blocked until AW[K].SET is 1 (R166); a handler fault in the handler (R168). -/
def execWfa (k : BitVec 6) (s : State) : Host.Outcome State Fault Refusal :=
  .next (s.notInHandler fun s => s.setBlock (.wfa k.toNat))

/-! ## Pending signals (R118) -/

/-- A q.sig of a core, with its identity, that waits for accesses and other results still to come, issued entries, operations, and lines until
every result is visible. -/
def State.addSig (s : State) (core id : Nat) (q : Queue) (aw : Nat) (acc runs ops : List Nat) (left : Nat) : State :=
  let x := s.eng core
  s.setEng core { x with sigs := x.sigs ++
      [{ id := id, q := q, aw := aw, acc := acc, runs := runs, ops := ops, left := left, hnd := s.inHandler }] }

/-- Whether everything a q.sig waits for has completed. -/
def Core.sigReady (x : Core) (g : Sig) : Bool :=
  decide (g.left = 0) &&
  (g.acc.all fun i => !(x.ctl.acc.any fun a => a.id == i) && !(x.ctl.pend.any fun p => p.wait == some i)) &&
  (g.runs.all fun i => !(x.eng.run.any fun r => r.e.id == i)) &&
  (g.ops.all fun i => !(x.eng.fkEntries.any fun e => e.id == i))

/-- Set the words of the signals that are ready, in the order they were given. -/
def doneSigs (core : Nat) : List Sig → State → State
  | [], s => s
  | g :: rest, s => doneSigs core rest (s.awDone core g.aw 0 0 0)

/-- Complete every signal of a core that is ready. -/
def State.settleSigs (s : State) (core : Nat) : State :=
  let x := s.core core
  let ready := x.eng.sigs.filter x.sigReady
  let s1 := s.setEng core { x.eng with sigs := x.eng.sigs.filter fun g => !x.sigReady g }
  doneSigs core ready s1

/-- `q.wait` (R117): in the control queue it blocks until at most n operations that set an arrival word are incomplete, and is a handler
fault in the handler (R168); in another queue it is enqueued, and has no effect when it issues. Of its own line it counts the entries that come
before it in dispatch order (R48; DESIGN CHOICE, log 104: R117 says 'already enqueued'). -/
def execQWait (q : Queue) (n : BitVec 16) (k : Option Cont) (s : State) : Host.Outcome State Fault Refusal :=
  match q with
  | .c => .next (s.notInHandler fun s => s.setBlock (.qWait n.toNat (s.eng s.me).wordOps))
  | q =>
    match s.focus.cur with
    | none => .next (s.enqueue q (.qWait q n k) k [] s.plain noOperand none)
    | some _ => .next s

/-- `q.sig` (R118): sets its arrival word once every earlier instruction of its queue has completed. In the control queue that is when
every earlier result is visible and every earlier access has performed; in a timed queue when every entry issued before it has
performed its last write; in F and K when every earlier operation has completed. -/
def execQSig (q : Queue) (aw : BitVec 6) (k : Option Cont) (s : State) : Host.Outcome State Fault Refusal :=
  match q with
  | .c =>
    let c := s.ctl s.me
    let mine := c.pend.filter fun p => p.hnd == c.inHandler
    let left := (mine.map (·.left)).foldl Nat.max 0
    let s1 := (s.awReg s.me aw.toNat).addSig s.me s.uid .c aw.toNat (c.acc.map (·.id) ++ mine.filterMap (·.wait)) [] [] left
    .next { s1 with uid := s.uid + 1 }
  | q =>
    match s.focus.cur with
    | none => .next (s.enqueue q (.qSig q aw k) k [] s.plain noOperand (some aw.toNat))
    | some e =>
      let x := s.eng s.me
      if q.timed then
        .next (s.addSig s.me e.id q aw.toNat [] ((x.run.filter fun r => r.q == q).map fun r => r.e.id) [] 0)
      else
        .next (s.addSig s.me e.id q aw.toNat [] [] ((x.ops.filter fun o => o.q == q).map fun o => o.e.id) 0)

/-! ## Scalar accesses -/

/-- Whether an address reaches control memory: bits 63:16 are all ones (R170). -/
def toControl (a : Word) : Bool := a.toNat / 65536 == 2 ^ 48 - 1

/-- The ordering kind of a scalar access: that of its region, or RC for control memory (R344). -/
def State.ordOf (s : State) (core : Nat) (a : Word) : Nat :=
  if toControl a then 1
  else
    match findEntry (s.gangOf (coachOf core)) (s.mapOf (coachOf core) (s.mapNow core)) a.toNat with
    | some e => e.ord
    | none => 1

/-- Whether an access acquires: an SO region always, a UO region never, else as encoded (R344). -/
def orderFlag (ord : Nat) (enc : Bool) : Bool := if ord = 0 then true else if ord = 2 then false else enc

/-- The storage of a scalar address of a core. -/
def State.scalarLoc (s : State) (core : Nat) (a : Word) : Loc :=
  if toControl a then .cmem core (a.toNat % 65536)
  else (s.locOf (coachOf core) (s.mapNow core) (s.verNow core) a.toNat).getD (.cmem core 0)

/-- The checks of a scalar access at dispatch: alignment first, then those of R126 for the scalar class (R170). -/
def State.scalarCheck (s : State) (a : Word) (size : Nat) (write : Bool) : Option (Nat × Nat) :=
  if a.toNat % size ≠ 0 then some (0x34, a.toNat)
  else if toControl a then none
  else s.checkOperand s.me (s.mapNow s.me) .scalar write a size

/-- The byte of control memory that instruction fetch sees: a store is seen from the third line after its own (R173). -/
def Ctl.fetchByte (c : Ctl) (m : Mem) (core off : Nat) : Byte :=
  let mine := c.fst.filter fun f => f.off == off
  match (mine.takeWhile fun f => f.left == 0).getLast?, mine.head? with
  | some f, _ => f.new
  | none, some f => f.old
  | none, none => m.byte (Loc.cmem core off).key

/-- A byte of control memory after every store of the core so far, in program order (R173). -/
def Ctl.storedByte (c : Ctl) (m : Mem) (core off : Nat) : Byte :=
  match (c.fst.filter fun f => f.off == off).getLast? with
  | some f => f.new
  | none => m.byte (Loc.cmem core off).key

/-- Note the bytes of a store to control memory for instruction fetch (R173). -/
def noteFetch (m : Mem) (core id : Nat) : Nat → List Byte → Ctl → Ctl
  | _, [], c => c
  | off, b :: t, c =>
    noteFetch m core id (off + 1) t
      { c with fst := c.fst ++ [{ left := 3, id := id, off := off, old := c.storedByte m core off, new := b }] }

/-- Start a scalar access of the core whose instruction is being carried out; its result, if any, comes after `lat` lines and not before
the access has completed (R173). -/
def State.access (s : State) (kind : AccKind) (a : Word) (size : Nat) (data cmp : Word) (rel : Option RelSet)
    (dst : Option (Reg × Nat)) (acq : Bool) : State :=
  let c := s.ctl s.me
  let d := s.delay 31
  let loc := s.scalarLoc s.me a
  let id := s.uid
  let acc : Access :=
    { id := id, kind := kind, loc := loc, map := s.mapNow s.me, size := size, data := data, cmp := cmp
      hnd := c.inHandler, left := if kind = .load then 3 else 4, rel := rel, due := s.cyc + 1 + d.1, at_ := s.cyc }
  let c1 := match dst with
    | some (r, lat) => c.result r lat 0 (some id)
    | none => c
  let c2 := match kind, loc with
    | .store, .cmem core off => noteFetch s.mem core id off (bytesOf size data.toNat) c1
    | _, _ => c1
  let s1 := { (d.2.setCtl s.me { c2 with acc := c2.acc ++ [acc] }) with uid := id + 1 }
  if acq then s1.setBlock (.acquire id) else s1

/-- `lds` (R171): sd := zero_extend(the bytes at sa + offset), latency 3; an acquire as encoded or by the region's kind (R344,
R346). -/
def execLds (d a : Reg) (z : BitVec 2) (q : Bool) (o : BitVec 13) (s : State) : Host.Outcome State Fault Refusal :=
  let addr := s.reg a + o.signExtend 64
  let size := 2 ^ z.toNat
  match s.scalarCheck addr size false with
  | some (code, x) => .next (s.faultAt code x)
  | none => .next (s.access .load addr size 0 0 none (some (d, 3)) (orderFlag (s.ordOf s.me addr) q))

/-- `sts` (R171): the low bytes of sv are written at sa + offset; a release at scope ten as encoded or by the region's kind (R344,
R345). -/
def execSts (v a : Reg) (z : BitVec 2) (q : Bool) (o : BitVec 13) (s : State) : Host.Outcome State Fault Refusal :=
  let addr := s.reg a + o.signExtend 64
  let size := 2 ^ z.toNat
  match s.scalarCheck addr size true with
  | some (code, x) => .next (s.faultAt code x)
  | none =>
    let rel := if orderFlag (s.ordOf s.me addr) q then some (s.relSet s.me 4) else none
    .next (s.access .store addr size (s.reg v) 0 rel none false)

/-- Whether the gang may use scope dom (R341, R342). -/
def State.domOk (s : State) (sc : Nat) : Bool := sc != 5 || flag ((s.ctl s.me).sr.get 0x051) 0

/-- `amo` (R172): reads the value at sa, writes a new one and returns the old in sd after 4 lines; a scope fault for scope dom without
permission (R342); an acquire, a release or both as ORD says or the region's kind (R344, R345, R346). -/
def execAmo (d a b : Reg) (c : BitVec 3) (o : BitVec 2) (z : Bool) (p : BitVec 4) (s : State) :
    Host.Outcome State Fault Refusal :=
  let addr := s.reg a
  let size := if z then 8 else 4
  match s.scalarCheck addr size true with
  | some (code, x) => .next (s.faultAt code x)
  | none =>
    if s.domOk c.toNat then
      let ord := s.ordOf s.me addr
      let rel := if orderFlag ord (o.getLsbD 1) then some (s.relSet s.me c.toNat) else none
      .next (s.access (.amo p.toNat) addr size (s.reg b) (s.reg d) rel (some (d, 4)) (orderFlag ord (o.getLsbD 0)))
    else .next (s.faultAt 0x70 c.toNat)

/-- The new value of an atomic (R172) on n-bit values: old, b and, for cas, the compare value. -/
def amoNew (op n : Nat) (old b cmp : Nat) : Nat :=
  let m := 2 ^ n
  let sg (x : Nat) : Int := if x < m / 2 then (x : Int) else (x : Int) - m
  match op with
  | 0 => b
  | 1 => (old + b) % m
  | 2 => old &&& b
  | 3 => old ||| b
  | 4 => old ^^^ b
  | 5 => if sg b < sg old then b else old
  | 6 => if sg old < sg b then b else old
  | 7 => Nat.min old b
  | 8 => Nat.max old b
  | _ => if old = cmp then b else old

/-- A scalar access performs on storage (R149, R171, R172): the bytes it writes, and the value it returns. The compare value of a cas, like b,
is taken at the size of the access (DESIGN CHOICE, log 87: R172 says it of b only). -/
def Access.perform (a : Access) (m : Mem) : List Host.Cell × Word :=
  let old := m.num a.loc a.size
  let w := 2 ^ (8 * a.size)
  match a.kind with
  | .load => ([], BitVec.ofNat 64 old)
  | .store => (cellsAt a.loc.key (bytesOf a.size a.data.toNat), 0)
  | .amo op =>
    (cellsAt a.loc.key (bytesOf a.size (amoNew op (8 * a.size) old (a.data.toNat % w) (a.cmp.toNat % w))),
     BitVec.ofNat 64 old)

/-- The handler returns once nothing of it is outstanding (R169): every handler result becomes visible, ACTIVE clears, results of the main
stream that came meanwhile become visible (R87), and the main stream's recorded next line is next. -/
def Ctl.finishHret (c : Ctl) : Ctl :=
  let c1 : Ctl := { c with pend := c.pend.map fun p => if p.hnd then { p with left := 0 } else p }
  Ctl.settle { (c1.setSr 0x029 (setFld (c1.sr.get 0x029) 63 1 0)) with hblocks := [], pc := c.mainPc }

/-- Whether the handler ends with this cycle: it has dispatched hret, waits for nothing else, and nothing of it is outstanding (R169). -/
def Ctl.hretDone (c : Ctl) : Bool :=
  c.inHandler && c.hblocks == [.hret] && !(c.acc.any (·.hnd)) && !(c.pend.any fun p => p.hnd && p.wait.isSome)

/-- `hret` (R169): a handler fault outside the handler; else waits until every handler access has performed, and ends the handler. -/
def execHret (s : State) : Host.Outcome State Fault Refusal :=
  .next (if s.inHandler then s.setBlock .hret else s.fault52 0x35)

/-- Whether a release may perform: its release set is complete (R345). -/
def Access.relOk (a : Access) (s : State) (core : Nat) : Bool :=
  match a.rel with
  | some r => s.relDone core r
  | none => true

/-- The key of the scalar slot of the SRAM block of a place, past those of the shift and dynamic slots (R146). -/
def scalarKey (coach off : Nat) : Nat := 2 ^ 20 + coach * 16 + off / 2 ^ 21

/-- Whether the scalar slot of the block of a place is free in the cycle: it serves one access a cycle (R146, log 69). -/
def State.scalarFree (s : State) (l : Loc) : Bool :=
  match l with
  | .sram c o => decide (lookupD 0 s.slots (scalarKey c o) ≤ s.cyc)
  | _ => true

/-- Whether an access has come to the last cycle in which it may complete: then it does not wait for its slot (R173, log 69). -/
def Access.atBound (a : Access) (now : Nat) : Bool := decide (a.at_ + 32 ≤ now)

/-- Take the scalar slot of the block of a place for the cycle (R146). -/
def State.takeScalar (s : State) (l : Loc) : State :=
  match l with
  | .sram c o => { s with slots := putKey s.slots (scalarKey c o) (s.cyc + 1) }
  | _ => s

/-- The oldest access of a core that may perform now: accesses perform in program order, a release after its release set, and one in a
cycle through the scalar slot of a block, but for those that have come to their bound (R146, R173, R345). -/
def State.accessReady (s : State) (core : Nat) : Option Access :=
  match (s.ctl core).acc with
  | [] => none
  | a :: _ =>
    if a.due ≤ s.cyc && a.relOk s core && (s.scalarFree a.loc || a.atBound s.cyc) then some a else none

/-- The storage that a scalar access reads: an lds returns the bytes as they stood at the start of the cycle, with what its own core has
written in it; an atomic acts after the writes before it (R149, R173, R176). -/
def State.scalarView (s : State) (core : Nat) (kind : AccKind) : Mem :=
  if kind = .load then s.was.writeCells (s.ctl core).wrote else s.mem

/-- Complete an access of a core: it performs, its result becomes known, blocks that wait for it end (R173, R346). -/
def State.completeAccess (s : State) (core : Nat) (a : Access) : State :=
  let r := a.perform (s.scalarView core a.kind)
  let s1 := (s.takeScalar a.loc).storeCells (coachOf core) core a.map r.1
  let c := s1.ctl core
  let fill (p : Pend) : Pend := if p.wait == some a.id then { p with val := r.2, wait := none } else p
  let c1 : Ctl := { c with acc := c.acc.filter (fun x => !(x.id == a.id)), pend := c.pend.map fill,
                           fst := c.fst.filter (fun f => !(f.id == a.id && f.left == 0)), wrote := c.wrote ++ r.1 }
  (s1.setCtl core (c1.settle.unblock fun b => b == .acquire a.id)).settleSigs core

/-- SCALAR_ACCESS_COMPLETE (R173): the oldest access of a core completes when its time has come. -/
def execScalarAccessComplete (core n : Nat) (s : State) : Host.Outcome State Fault Refusal :=
  match s.accessReady core with
  | some a => if a.id = n then .next (s.completeAccess core a) else .next s
  | none => .next s

/-! ## Fences, barriers and yield -/

/-- `fence.sc` (R350): blocked until the release set of the line at the scope is complete; a scope fault for dom without permission
(R342). -/
def execFenceSc (c : BitVec 3) (s : State) : Host.Outcome State Fault Refusal :=
  if s.domOk c.toNat then .next (s.setBlock (.fence (s.relSet s.me c.toNat)))
  else .next (s.faultAt 0x70 c.toNat)

/-- Whether a wait is a fence whose release set is complete (R350). -/
def State.fenceEnds (s : State) (core : Nat) (b : Block) : Bool :=
  match b with
  | .fence r => s.relDone core r
  | _ => false

/-- FENCE_COMPLETE (R350): a core blocked in fence.sc goes on once its release set is complete; a fence of the main stream ends so also while
the handler runs (R169). -/
def execFenceComplete (core : Nat) (s : State) : Host.Outcome State Fault Refusal :=
  .next (s.setCtl core ((s.ctl core).unblock (s.fenceEnds core)))

/-- `bar` (R351): counts the core's barrier at the scope and blocks; a handler fault in the handler (R168). -/
def execBar (c : BitVec 3) (s : State) : Host.Outcome State Fault Refusal :=
  .next (s.notInHandler fun s =>
    let x := s.ctl s.me
    let n := nthD 0 x.nbar c.toNat
    (s.setCtl s.me { x with nbar := setNth x.nbar c.toNat (n + 1) }).setBlock (.bar c.toNat n (s.relSet s.me c.toNat)))

/-- `yield` (R41): with a pre-emption request pending the core dispatches nothing after this line; else it changes nothing. A handler
fault in the handler (R168). -/
def execYield (s : State) : Host.Outcome State Fault Refusal :=
  .next (s.notInHandler fun s => s.flowChange fun s =>
    if (s.coach (coachOf s.me)).preReq then
      let c := s.ctl s.me
      s.setCtl s.me { c with stand := .stopped }
    else s)

/-! ## grid.shrink (R152) -/

/-- Grid lines a first line and the ones that follow it. -/
def linesFrom (g : GridOp) (n : Nat) : List GridOp := (List.range n).map (gridNext g)

/-- Lines of a tile by its mod field (R153). -/
def tileLines (m : BitVec 2) : Nat := 4 <<< m.toNat

/-- Source lines of an MX packing by its mod field (R226). -/
def mxLines (m : BitVec 2) : Nat :=
  match m.toNat with
  | 0 => 4
  | 1 => 5
  | _ => 8

/-- Bytes of an element of a type code (R200). -/
def typeBytes (t : Nat) : Nat :=
  match t with
  | 0x0 => 4 | 0x1 => 2 | 0x2 => 2 | 0x3 => 1 | 0x4 => 1 | 0x5 => 1 | 0x6 => 1 | 0x7 => 1 | 0x8 => 8 | 0x9 => 4 | _ => 1

/-- The grid lines a readout writes when its destination is the grid (R257). -/
def mrdLines (mrc : Word) (g : GridOp) : List GridOp :=
  if flag mrc 9 then []
  else linesFrom g (((fld mrc 16 6 + 1) * 64 * typeBytes (fld mrc 12 4) + 255) / 256)

/-- The grid operand that a continuation's XG names. -/
def xgOp (k : Cont) : GridOp := GridOp.ofBits k.xg

/-- The grid lines that an entry reads or writes, the further lines of tiles, gathers, packings and readouts included (R151, R152). -/
def Entry.lines (e : Entry) : List GridOp :=
  match e.ins with
  | .ld g _ _ _ | .st g _ _ _ | .stStr g _ _ _ _ _ => [g]
  | .ldt m g _ _ _ | .stt m g _ _ _ | .sttStr m g _ _ _ _ _ => linesFrom g (tileLines m)
  | .ldg _ g _ _ nr k | .stg _ g _ _ nr k => xgOp k :: linesFrom g (nr.toNat + 1)
  | .rput _ _ a _ => [a]
  | .rtake d _ _ => [d]
  | .mrd _ g _ _ _ => mrdLines (nthD 0 e.cap 0) (GridOp.ofBits g)
  | .mresc _ _ x _ _ => [x]
  | .vadd _ d a b _ | .vsub _ d a b _ | .vmul _ d a b _ | .vmin _ d a b _ | .vmax _ d a b _ | .vdiv _ d a b _ => [d, a, b]
  | .viadd _ d a b _ | .visub _ d a b _ | .vimul _ d a b _ | .viand _ d a b _ | .vior _ d a b _ | .vixor _ d a b _
  | .vishl _ d a b _ | .vishr _ d a b _ | .visra _ d a b _ | .vimin _ d a b _ | .vimax _ d a b _ | .vhist _ d a b _ =>
    [d, a, b]
  | .vabs _ d a _ | .vneg _ d a _ | .vsqrt _ d a _ | .vrsqrt _ d a _ | .vrcp _ d a _ | .vexp2 _ d a _ | .vlog2 _ d a _
  | .vtanh _ d a _ | .vmov d a _ | .vbc _ d a _ _ | .vrot d a _ _ | .vred _ d a _ _ _ | .vscan _ d a _ _ _ _
  | .vamax _ d a _ | .vcvt _ d a _ _ _ => [d, a]
  | .vperm d a b _ => [d, a, b]
  | .vfma _ d a b k | .vfnm _ d a b k | .vclamp _ d a b k | .vsmxMerge d a b k | .vadam d a b k => [d, a, b, xgOp k]
  | .vcmp _ _ _ _ a b _ => [a, b]
  | .vsel d a b _ => [d, a, b]
  | .vmxp m d a b _ => d :: b :: linesFrom a (mxLines m)
  | .vmxu m d a b _ => a :: b :: linesFrom d (mxLines m)
  | .vtop _ _ _ a x _ => [a, x]
  | .vchk _ a _ => [a]
  | .kvWalk m g _ _ u =>
    if m = 0 then GridOp.ofBits u.xg :: linesFrom (GridOp.ofBits g) 2 else [GridOp.ofBits u.xg]
  | .kvPlan _ _ _ _ u => [GridOp.ofBits u.xg]
  | _ => []

/-- Whether a line crosses rows n to 63 (R152). -/
def crosses (n : Nat) (g : GridOp) : Bool := g.dir != .h || decide (n ≤ g.idx.toNat)

/-- The earlier entries of a core, queued or in flight, that name a cell of rows n to 63 (R152). -/
def Eng.naming (x : Eng) (n : Nat) : List Nat :=
  ((x.ql ++ x.qm ++ x.qv ++ x.qs ++ x.qf ++ x.qk ++ x.run.map (·.e) ++ x.ops.map (·.e)).filter fun e =>
    e.lines.any (crosses n)).map (·.id)

/-- Zero every cell outside rows 0 to n - 1. -/
def Dat.zeroFrom (d : Dat) (n : Nat) : Dat := { d with grid := d.grid.filter fun p => decide (p.1 < n * 64) }

/-- Whether an entry of a core is still queued or in flight. -/
def Eng.pendingId (x : Eng) (i : Nat) : Bool :=
  (x.ql ++ x.qm ++ x.qv ++ x.qs ++ x.qf ++ x.qk).any (fun e => e.id == i) || x.run.any (fun r => r.e.id == i) ||
    x.ops.any (fun o => o.e.id == i)

/-- Zero the rows of every shrink of a core whose earlier entries have completed (R152). -/
def Core.settleShrinks (x : Core) : Core :=
  let ready := x.eng.shr.filter fun h => !(h.ids.any x.eng.pendingId)
  { x with eng := { x.eng with shr := x.eng.shr.filter (fun h => h.ids.any x.eng.pendingId) },
           dat := ready.foldl (fun (d : Dat) (h : Shrink) => d.zeroFrom h.n) x.dat }

/-- `grid.shrink` (R152): an operand fault when n exceeds the allotment; else the allotment is n from the next line on and the freed rows
are zeroed once the earlier entries that name them have completed. A handler fault in the handler (R168). -/
def execGridShrink (n : BitVec 7) (s : State) : Host.Outcome State Fault Refusal :=
  .next (s.notInHandler fun s =>
    let ga := s.galloc s.me
    if ga < n.toNat then s.operandFault n.toNat
    else if n.toNat = ga then s
    else
      let s1 := s.deferSr 0x002 (mkFld 0 7 n.toNat)
      let x := s1.core s1.me
      let x1 : Core := { x with eng := { x.eng with shr := x.eng.shr ++ [{ n := n.toNat, ids := x.eng.naming n.toNat }] } }
      s1.setCore s1.me x1.settleShrinks)

end Sys2Proof.Machine
end

