-- ==== Sys2Proof/Machine/Fp.lean ====
section
/-! DEFINITION. Numbers: floating, integer and block formats, rounding, and the helper functions of the arithmetic chapter (R194 to R205, R210, R211). -/

namespace Sys2Proof.Machine

/-! ## Exact values -/

/-- An exact value: NaN, an infinity, or (-1)^neg * m * 2^e; a zero keeps its sign (R196, R205). -/
inductive Val where
  | nan
  | inf (neg : Bool)
  | fin (neg : Bool) (m : Nat) (e : Int)
  deriving DecidableEq, Repr

/-- A floating format: exponent and fraction bits, and whether it is E4M3, which has no infinity (R194). -/
structure Fmt where
  eb : Nat
  fb : Nat
  e4 : Bool
  deriving DecidableEq, Repr

/-- FP32 (R194). -/
def fp32 : Fmt := ⟨8, 23, false⟩
/-- BF16 (R194). -/
def bf16 : Fmt := ⟨8, 7, false⟩
/-- FP16 (R194). -/
def fp16 : Fmt := ⟨5, 10, false⟩
/-- FP64 (R194). -/
def fp64 : Fmt := ⟨11, 52, false⟩
/-- FP8 E4M3 (R194). -/
def e4m3 : Fmt := ⟨4, 3, true⟩
/-- FP8 E5M2 (R194). -/
def e5m2 : Fmt := ⟨5, 2, false⟩

/-- Exponent bias (R194). -/
def Fmt.bias (f : Fmt) : Nat := 2 ^ (f.eb - 1) - 1

/-- The weight of the lowest fraction bit of a subnormal, as a power of two (R194). -/
def Fmt.qmin (f : Fmt) : Int := 1 - (f.bias : Int) - (f.fb : Int)

/-- The encoding of the largest finite magnitude (R194). -/
def Fmt.maxEnc (f : Fmt) : Nat := if f.e4 then 0x7E else (2 ^ f.eb - 1) * 2 ^ f.fb - 1

/-- The canonical NaN (R195). -/
def Fmt.nanEnc (f : Fmt) : Nat := if f.e4 then 0x7F else (2 ^ f.eb - 1) * 2 ^ f.fb + 2 ^ (f.fb - 1)

/-- The sign bit in place. -/
def Fmt.signEnc (f : Fmt) (neg : Bool) : Nat := if neg then 2 ^ (f.eb + f.fb) else 0

/-- decode (R205). -/
def Fmt.decode (f : Fmt) (x : Nat) : Val :=
  let neg := x.testBit (f.eb + f.fb)
  let e := (x / 2 ^ f.fb) % 2 ^ f.eb
  let m := x % 2 ^ f.fb
  if e = 2 ^ f.eb - 1 ∧ ((f.e4 = false) ∨ m = 2 ^ f.fb - 1) then
    if f.e4 = false ∧ m = 0 then .inf neg else .nan
  else if e = 0 then .fin neg m f.qmin
  else .fin neg (2 ^ f.fb + m) (f.qmin + (e : Int) - 1)

/-- Whether a magnitude whose kept part is `n`, with a remainder `r` of `2 ^ k`, rounds up in a mode (R201). -/
def roundUp (rm : Rm) (neg : Bool) (n r k : Nat) : Bool :=
  match rm with
  | .rne => decide (2 ^ k < 2 * r) || (decide (2 * r = 2 ^ k) && decide (n % 2 = 1))
  | .rz => false
  | .ru => !neg && decide (r ≠ 0)
  | .rd => neg && decide (r ≠ 0)

/-- m * 2^e as a multiple of 2^q, rounded in a mode. -/
def quantise (rm : Rm) (neg : Bool) (m : Nat) (e q : Int) : Nat :=
  if q ≤ e then m * 2 ^ (e - q).toNat
  else
    let k := (q - e).toNat
    let n := m / 2 ^ k
    n + b2n (roundUp rm neg n (m % 2 ^ k) k)

/-- What an overflow gives (R202). -/
def Fmt.overflow (f : Fmt) (rm : Rm) (neg : Bool) : Nat :=
  let big := match rm with
    | .rne => !f.e4
    | .rz => false
    | .ru => !neg && !f.e4
    | .rd => neg && !f.e4
  f.signEnc neg + (if big then f.maxEnc + 1 else f.maxEnc)

/-- `round_to` for a floating type (R202). -/
def Fmt.round (f : Fmt) (rm : Rm) (v : Val) : Nat :=
  match v with
  | .nan => f.nanEnc
  | .inf neg => if f.e4 then f.nanEnc else f.signEnc neg + (f.maxEnc + 1)
  | .fin neg m e =>
    if m = 0 then f.signEnc neg
    else
      let q := max (e + (Nat.log2 m : Int) - (f.fb : Int)) f.qmin
      let enc := (q - f.qmin).toNat * 2 ^ f.fb + quantise rm neg m e q
      if f.maxEnc < enc then f.overflow rm neg else f.signEnc neg + enc

/-! ## Arithmetic on exact values -/

namespace Val

/-- Whether a value is NaN. -/
def isNan : Val → Bool
  | .nan => true
  | _ => false

/-- Whether a value is neither NaN nor an infinity. -/
def isFinite : Val → Bool
  | .fin .. => true
  | _ => false

/-- Whether a value is a zero. -/
def isZero : Val → Bool
  | .fin _ m _ => m == 0
  | _ => false

/-- The sign of a value. -/
def neg? : Val → Bool
  | .nan => false
  | .inf n => n
  | .fin n _ _ => n

/-- -x. -/
def negate : Val → Val
  | .nan => .nan
  | .inf n => .inf !n
  | .fin n m e => .fin (!n) m e

/-- |x|. -/
def abs : Val → Val
  | .nan => .nan
  | .inf _ => .inf false
  | .fin _ m e => .fin false m e

/-- The signed integer of a finite value in units of 2^q, for q at most its exponent. -/
def scaled (neg : Bool) (m : Nat) (e q : Int) : Int :=
  let x : Int := ((m * 2 ^ (e - q).toNat : Nat) : Int)
  if neg then -x else x

/-- The exact sum, with the invalid case of R195 and the zero signs of R196. -/
def add (rm : Rm) : Val → Val → Val
  | .nan, _ => .nan
  | _, .nan => .nan
  | .inf a, .inf b => if a = b then .inf a else .nan
  | .inf a, .fin .. => .inf a
  | .fin .., .inf b => .inf b
  | .fin n1 m1 e1, .fin n2 m2 e2 =>
    let q := min e1 e2
    let x := scaled n1 m1 e1 q + scaled n2 m2 e2 q
    if x = 0 then .fin (if n1 = n2 then n1 else rm == .rd) 0 q
    else .fin (decide (x < 0)) x.natAbs q

/-- The exact product, with the invalid case of R195. -/
def mul : Val → Val → Val
  | .nan, _ => .nan
  | _, .nan => .nan
  | .inf a, .inf b => .inf (a != b)
  | .inf a, .fin b m _ => if m = 0 then .nan else .inf (a != b)
  | .fin a m _, .inf b => if m = 0 then .nan else .inf (a != b)
  | .fin n1 m1 e1, .fin n2 m2 e2 => .fin (n1 != n2) (m1 * m2) (e1 + e2)

/-- A quotient or root cut to a multiple of 2^e, with a low bit that says whether something was cut off. -/
def sticky (neg : Bool) (m : Nat) (e : Int) (exact : Bool) : Val :=
  if exact then .fin neg m e else .fin neg (2 * m + 1) (e - 1)

/-- a / b (R195, R218); the quotient of two finite values keeps more bits than any format and a sticky bit below them. -/
def div : Val → Val → Val
  | .nan, _ => .nan
  | _, .nan => .nan
  | .inf _, .inf _ => .nan
  | .inf a, .fin b _ _ => .inf (a != b)
  | .fin a _ _, .inf b => .fin (a != b) 0 0
  | .fin n1 m1 e1, .fin n2 m2 e2 =>
    if m2 = 0 then (if m1 = 0 then .nan else .inf (n1 != n2))
    else
      let k := 128 + Nat.log2 m2
      let x := m1 * 2 ^ k
      sticky (n1 != n2) (x / m2) (e1 - e2 - (k : Int)) (x % m2 == 0)

/-- The square root of a number below 4^k, from the root found so far. -/
def rootGo : Nat → Nat → Nat → Nat
  | 0, _, r => r
  | k + 1, n, r => if (r + 2 ^ k) * (r + 2 ^ k) ≤ n then rootGo k n (r + 2 ^ k) else rootGo k n r

/-- The integer square root. -/
def isqrt (n : Nat) : Nat := rootGo (Nat.log2 n / 2 + 1) n 0

/-- √x (R219). -/
def sqrt : Val → Val
  | .nan => .nan
  | .inf n => if n then .nan else .inf false
  | .fin n m e =>
    if m = 0 then .fin n 0 e
    else if n then .nan
    else
      let odd := e % 2
      let x := m * 2 ^ (256 + odd.toNat)
      let r := isqrt x
      sticky false r ((e - odd - 256) / 2) (r * r == x)

/-- 1/√x (R219). -/
def rsqrt : Val → Val
  | .nan => .nan
  | .inf n => if n then .nan else .fin false 0 0
  | .fin n m e =>
    if m = 0 then .inf n
    else if n then .nan
    else
      let odd := e % 2
      let y := m * 2 ^ odd.toNat
      let k := 128 + Nat.log2 y
      let r := isqrt (2 ^ (2 * k) / y)
      sticky false r (-((e - odd) / 2) - (k : Int)) (r * r * y == 2 ^ (2 * k))

/-- Whether a < b, for values that are not NaN. -/
def lt : Val → Val → Bool
  | .nan, _ => false
  | _, .nan => false
  | .inf a, .inf b => a && !b
  | .inf a, .fin .. => a
  | .fin .., .inf b => !b
  | .fin n1 m1 e1, .fin n2 m2 e2 =>
    let q := min e1 e2
    decide (scaled n1 m1 e1 q < scaled n2 m2 e2 q)

/-- Whether a = b as numbers: the zeros are equal, NaN equals nothing. -/
def eq (a b : Val) : Bool := !a.isNan && !b.isNan && !lt a b && !lt b a

/-- `fp_min` (R205). -/
def fmin (a b : Val) : Val :=
  if a.isNan || b.isNan then .nan
  else if lt a b then a
  else if lt b a then b
  else if a.neg? then a else b

/-- `fp_max` (R205). -/
def fmax (a b : Val) : Val :=
  if a.isNan || b.isNan then .nan
  else if lt a b then b
  else if lt b a then a
  else if a.neg? then b else a

/-- `fma` before its rounding (R205). -/
def fma (rm : Rm) (a b c : Val) : Val :=
  if a.isNan || b.isNan || c.isNan then .nan else add rm (mul a b) c

/-- An integer as a value. -/
def ofInt (i : Int) : Val := .fin (decide (i < 0)) i.natAbs 0

/-- x * 2^k. -/
def scale (k : Int) : Val → Val
  | .fin n m e => .fin n m (e + k)
  | v => v

/-- A finite value rounded to an integer in a mode. -/
def toInt (rm : Rm) : Val → Int
  | .fin n m e =>
    let x : Int := (quantise rm n m e 0 : Nat)
    if n then -x else x
  | _ => 0

/-- `round_to` an integer type of w bits (R202). -/
def roundInt (rm : Rm) (w : Nat) (v : Val) : Int :=
  let lo : Int := -(2 ^ (w - 1) : Nat)
  let hi : Int := (2 ^ (w - 1) : Nat) - 1
  match v with
  | .nan => 0
  | .inf n => if n then lo else hi
  | v => min (max (v.toInt rm) lo) hi

end Val

/-! ## Type codes (R200) -/

/-- The format of a floating type code. -/
def fmtOf (t : Nat) : Option Fmt :=
  match t with
  | 0x0 => some fp32 | 0x1 => some bf16 | 0x2 => some fp16 | 0x3 => some e4m3 | 0x4 => some e5m2 | 0x8 => some fp64
  | _ => none

/-- Element bits of a block type: 8, 6 or 4 (R197). -/
def mxBits (t : Nat) : Nat := match t with
  | 0x5 => 8
  | 0x6 => 6
  | _ => 4

/-- Whether a type code is a block type (R200). -/
def isMx (t : Nat) : Bool := t == 0x5 || t == 0x6 || t == 0x7

/-- An integer of w bits as two's complement. -/
def sInt (w x : Nat) : Int := if x % 2 ^ w < 2 ^ (w - 1) then (x % 2 ^ w : Nat) else (x % 2 ^ w : Nat) - (2 ^ w : Nat)

/-- The w-bit pattern of an integer. -/
def uPat (w : Nat) (i : Int) : Nat := (i % (2 ^ w : Nat)).toNat

/-- `decode` for a type code that is not a block type (R205). -/
def decodeT (t x : Nat) : Val :=
  match fmtOf t with
  | some f => f.decode x
  | none => Val.ofInt (sInt (if t = 0x9 then 32 else 8) x)

/-- `round_to` for a type code that is not a block type (R202). -/
def roundT (t : Nat) (rm : Rm) (v : Val) : Nat :=
  match fmtOf t with
  | some f => f.round rm v
  | none => let w := if t = 0x9 then 32 else 8
            uPat w (v.roundInt rm w)

/-! ## Block formats (R197 to R199, R204) -/

/-- The power of two of an element's fraction weight (R204). -/
def mxFrac (t : Nat) : Int := match t with
  | 0x5 => -6
  | 0x6 => -4
  | _ => -2

/-- `mx_unpack` (R204): the exact value of a raw element under a scale byte. -/
def mxUnpack (t raw scale : Nat) : Val :=
  if scale = 255 then .nan else (Val.ofInt (sInt (mxBits t) raw)).scale (mxFrac t + (scale : Int) - 127)

/-- floor(log2 |v|) of a nonzero finite value. -/
def floorLog (v : Val) : Option Int :=
  match v with
  | .fin _ m e => if m = 0 then none else some ((Nat.log2 m : Int) + e)
  | _ => none

/-- E of `mx_pack` (R204). -/
def mxExp (vs : List Val) : Int :=
  let e := vs.foldl (fun a v => match floorLog v with
    | some x => max a x
    | none => a) (-127)
  min e 127

/-- `mx_pack` (R204): the scale byte and the raw elements. -/
def mxPack (vs : List Val) (t : Nat) (rm : Rm) : Nat × List Nat :=
  if vs.any fun v => !v.isFinite then (255, vs.map fun _ => 0)
  else
    let e := mxExp vs
    let w := mxBits t
    let pack (v : Val) : Nat := uPat w ((v.scale (-e - mxFrac t)).roundInt rm w)
    ((e + 127).toNat, vs.map pack)

/-- Numbers of w bits packed from the lowest bit up. -/
def packBits (w : Nat) : List Nat → Nat
  | [] => 0
  | x :: t => x % 2 ^ w + 2 ^ w * packBits w t

/-- Number i of w bits from a packed number. -/
def bitsAt (w i n : Nat) : Nat := (n / 2 ^ (w * i)) % 2 ^ w

/-! ## Trees and scans -/

/-- One level of a reduction tree (R210). -/
def treeLevel {α : Type} (op : α → α → α) : List α → List α
  | a :: b :: t => op a b :: treeLevel op t
  | l => l

/-- `tree_reduce` over 2^n elements (R210). -/
def treeReduce {α : Type} (op : α → α → α) (d : α) : Nat → List α → α
  | 0, l => l.headD d
  | n + 1, l => treeReduce op d n (treeLevel op l)

/-- `scan_ordered` from the running value (R211). -/
def scanFrom {α : Type} (op : α → α → α) (y : α) : List α → List α
  | [] => []
  | x :: t => op y x :: scanFrom op (op y x) t

/-- `scan_ordered` (R211). -/
def scanOrdered {α : Type} (op : α → α → α) : List α → List α
  | [] => []
  | x :: t => x :: scanFrom op x t

/-! ## Rounded operations on encodings -/

/-- `add(a, b, T, RNE)` on encodings (R205). -/
def Fmt.add (f : Fmt) (a b : Nat) : Nat := f.round .rne ((f.decode a).add .rne (f.decode b))

/-- `mul(a, b, T, RNE)` on encodings (R205). -/
def Fmt.mul (f : Fmt) (a b : Nat) : Nat := f.round .rne ((f.decode a).mul (f.decode b))

/-- `fma(a, b, c, T, RNE)` on encodings (R205). -/
def Fmt.fma (f : Fmt) (a b c : Nat) : Nat := f.round .rne (Val.fma .rne (f.decode a) (f.decode b) (f.decode c))

/-- The negative of an encoding's value; NaN gives the canonical NaN. -/
def Fmt.neg (f : Fmt) (a : Nat) : Nat := f.round .rne (f.decode a).negate

end Sys2Proof.Machine

namespace Sys2Proof

/-- The format of a floating element type. -/
def FTy.fmt : FTy → Machine.Fmt
  | .f32 => Machine.fp32 | .bf16 => Machine.bf16 | .f16 => Machine.fp16 | .f64 => Machine.fp64

/-- Bytes of a floating element type. -/
def FTy.bytes : FTy → Nat
  | .f32 => 4 | .bf16 => 2 | .f16 => 2 | .f64 => 8

/-- A latency for the types up to 32 bits and one for FP64 (R216). -/
def FTy.lat (t : FTy) (short long : Nat) : Nat := if t = .f64 then long else short

end Sys2Proof
end

