-- ==== Sys2Proof/Machine/Transcend.lean ====
section
/-! DEFINITION. The transcendental functions of R219: exact results are given exactly; any other result is computed in fixed point with 320 bits below the point and marked as inexact below its last bit, and rounded once by the caller (DEDUCED, UNVERIFIED, log 11). -/

namespace Sys2Proof.Machine

namespace Val

/-- Bits below the point. -/
def tp : Nat := 320

/-- The sum of z^(2k+1) / (2k+1) over n terms, from the power `p` = z^(2k+1) and the odd number `o` = 2k+1, in fixed point. -/
def atanhSum : Nat → Nat → Nat → Nat → Nat
  | 0, _, _, _ => 0
  | n + 1, z2, p, o => p / o + atanhSum n z2 (p * z2 / 2 ^ tp) (o + 2)

/-- 2 atanh(z) = ln((1 + z) / (1 - z)) in fixed point, for z at most 1/3. -/
def lnOf (z : Nat) : Nat := 2 * atanhSum 104 (z * z / 2 ^ tp) z 1

/-- ln 2 in fixed point: 2 atanh(1/3). -/
def ln2 : Nat := lnOf (2 ^ tp / 3)

/-- The terms of exp(y) from term k on, where `t` is the term before. -/
def expSum : Nat → Nat → Nat → Nat → Nat
  | 0, _, _, _ => 0
  | n + 1, y, t, k =>
    let t1 := t * y / 2 ^ tp / k
    t1 + expSum n y t1 (k + 1)

/-- exp(y) in fixed point for 0 ≤ y < 1. -/
def expOf (y : Nat) : Nat := 2 ^ tp + expSum 80 y (2 ^ tp) 1

/-- 2^x for an exact x (R219). -/
def exp2 : Val → Val
  | .nan => .nan
  | .inf n => if n then .fin false 0 0 else .inf false
  | .fin neg m e =>
    if m = 0 then .fin false 1 0
    else if 12 < e + (Nat.log2 m : Int) then .fin false 1 (if neg then -5000 else 5000)
    else if e < -(tp : Int) then .fin false (if neg then 2 ^ tp - 1 else 2 ^ tp + 1) (-(tp : Int))
    else
      let x := scaled neg m e (-(tp : Int))
      let n := x / (2 ^ tp : Nat)
      let f := (x % (2 ^ tp : Nat)).toNat
      if f = 0 then .fin false 1 n
      else sticky false (expOf (f * ln2 / 2 ^ tp)) (n - (tp : Int)) false

/-- log2 x (R219). -/
def log2 : Val → Val
  | .nan => .nan
  | .inf n => if n then .nan else .inf false
  | .fin neg m e =>
    if m = 0 then .inf true
    else if neg then .nan
    else
      let l := Nat.log2 m
      let k : Int := e + (l : Int)
      if m = 2 ^ l then (if k = 0 then .fin false 0 0 else Val.ofInt k)
      else
        let z := (m - 2 ^ l) * 2 ^ tp / (m + 2 ^ l)
        let fr := lnOf z * 2 ^ tp / ln2
        let x : Int := k * (2 ^ tp : Nat) + (fr : Int)
        .fin (decide (x < 0)) (if x < 0 then 2 * x.natAbs - 1 else 2 * x.natAbs + 1) (-(tp : Int) - 1)

/-- tanh x (R219). -/
def tanh : Val → Val
  | .nan => .nan
  | .inf n => .fin n 1 0
  | .fin neg m e =>
    if m = 0 then .fin neg 0 e
    else
      let l := e + (Nat.log2 m : Int)
      if 6 < l then .fin neg (2 ^ tp - 1) (-(tp : Int))
      else if l < -100 then .fin neg (m * 2 ^ 200 - 1) (e - 200)
      else
        let y := (scaled false m (e + 1) (-(tp : Int))).toNat
        let n := y / ln2
        let x := expOf (y - n * ln2) * 2 ^ n
        sticky neg ((x - 2 ^ tp) * 2 ^ tp / (x + 2 ^ tp)) (-(tp : Int)) false

end Val

end Sys2Proof.Machine
end

