-- ==== Sys2Proof/Machine/Vector.lean ====
section
/-! DEFINITION. The vector engine: elements, predicates and latencies (R214 to R217), and the meaning of each instruction of the V queue (R218 to R237). -/

namespace Sys2Proof.Machine

/-! ## Issued entries -/

/-- Start an issued entry of a timed queue at the current TCLK cycle: its last cycle, and the writes that are already known, each with
its cycle (R154, R215). -/
def State.startRun (s : State) (q : Queue) (e : Entry) (last : Nat) (wr : List (Nat × WEff)) : State :=
  let x := s.eng s.me
  let r : Run :=
    { e := e, q := q, t := (s.coach (coachOf s.me)).tclk, k := 0, last := last, push := last, wr := wr, data := []
      data2 := [], tile := none, tile2 := none, src := none, snaps := [], seen := true, early := [] }
  s.setEng s.me { x with run := x.run ++ [r] }

/-- Change the last issued entry of the core whose instruction is being carried out, in its issue cycle. -/
def State.mapLast (s : State) (f : Run → Run) : State :=
  let x := s.eng s.me
  match x.run.reverse with
  | [] => s
  | r :: rest => s.setEng s.me { x with run := rest.reverse ++ [f r] }

/-- Enqueue a V instruction, or carry out its issue (R89, R215). -/
def State.vop (s : State) (ins : Instr) (k : Option Cont) (grids : List GridOp) (cap : List Word)
    (issue : Entry → State) : Host.Outcome State Fault Refusal :=
  match s.focus.cur with
  | none => .next (s.enqueue .v ins k grids (.ok (cap, s)) noOperand none)
  | some e => .next (issue e)

/-! ## Elements (R214) -/

/-- The first n elements of b bytes each. -/
def elemsOf (b : Nat) : Nat → List Byte → List Nat
  | 0, _ => []
  | n + 1, bs => natOfBytes (bs.take b) :: elemsOf b n (bs.drop b)

/-- The elements of b bytes of a grid line. -/
def lineElems (b : Nat) (d : Dat) (g : GridOp) : List Nat := elemsOf b (256 / b) (lineBytes (readLine d g))

/-- Elements of b bytes as cells. -/
def elemCells (b : Nat) (xs : List Nat) : List Cell32 :=
  cellsOf (xs.length * b / 4) (xs.flatMap fun x => bytesOf b x)

/-- The cells that an element mask enables: for 64-bit elements the low cell of a pair governs both (R214). -/
def cellMask (b : Nat) (m : Word) : Word :=
  if b = 8 then (m &&& 0x5555555555555555) ||| ((m &&& 0x5555555555555555) <<< (1 : Nat)) else m

/-- Whether element k of b bytes is enabled (R214). -/
def elemOn (b : Nat) (m : Word) (k : Nat) : Bool := m.getLsbD (k * b / 4)

/-- Bytes of an integer element type: `.i32` or `.i8` (R217). -/
def iBytes (t : Bool) : Nat := if t then 1 else 4

/-- The data of the core whose instruction is being carried out. -/
def State.mine (s : State) : Dat := s.dat s.me

/-- The predicate of an entry as it stands at its issue (R215). -/
def State.vmask (s : State) (k : Option Cont) : Word := predMask (s.ctl s.me) (predOf k)

/-- Write a line at t + L - 1: the enabled cells of elements of b bytes (R214, R215). -/
def State.vwrite (s : State) (e : Entry) (lat : Nat) (d : GridOp) (b : Nat) (mask : Word) (xs : List Nat) : State :=
  s.startRun .v e (lat - 1) [(lat - 1, .grid (lineWrites d (cellMask b mask) (elemCells b xs)))]

/-! ## Elementwise forms -/

/-- A unary floating instruction (R219). -/
def State.vun (s : State) (ins : Instr) (t : FTy) (d a : GridOp) (k : Option Cont) (lat : Nat) (op : Val → Val) :
    Host.Outcome State Fault Refusal :=
  s.vop ins k [d, a] [] fun e =>
    s.vwrite e lat d t.bytes (s.vmask k)
      ((lineElems t.bytes s.mine a).map fun x => t.fmt.round .rne (op (t.fmt.decode x)))

/-- A binary floating instruction (R218). -/
def State.vbin (s : State) (ins : Instr) (t : FTy) (d a b : GridOp) (k : Option Cont) (lat : Nat) (op : Val → Val → Val) :
    Host.Outcome State Fault Refusal :=
  s.vop ins k [d, a, b] [] fun e =>
    s.vwrite e lat d t.bytes (s.vmask k)
      (List.zipWith (fun x y => t.fmt.round .rne (op (t.fmt.decode x) (t.fmt.decode y)))
        (lineElems t.bytes s.mine a) (lineElems t.bytes s.mine b))

/-- A ternary floating instruction, its third operand in XG (R220, R221). -/
def State.vter (s : State) (ins : Instr) (t : FTy) (d a b : GridOp) (k : Cont) (op : Val → Val → Val → Val) :
    Host.Outcome State Fault Refusal :=
  s.vop ins (some k) [d, a, b, xgOp k] [] fun e =>
    let ab := (lineElems t.bytes s.mine a).zip (lineElems t.bytes s.mine b)
    s.vwrite e (t.lat 4 8) d t.bytes (s.vmask (some k))
      (List.zipWith (fun (p : Nat × Nat) z => t.fmt.round .rne (op (t.fmt.decode p.1) (t.fmt.decode p.2) (t.fmt.decode z))) ab
        (lineElems t.bytes s.mine (xgOp k)))

/-- An integer instruction on elements of 32 or 8 bits (R224). -/
def State.vint (s : State) (ins : Instr) (t : Bool) (d a b : GridOp) (k : Option Cont) (lat : Nat) (op : Nat → Nat → Nat → Nat) :
    Host.Outcome State Fault Refusal :=
  s.vop ins k [d, a, b] [] fun e =>
    s.vwrite e lat d (iBytes t) (s.vmask k)
      (List.zipWith (op (8 * iBytes t)) (lineElems (iBytes t) s.mine a) (lineElems (iBytes t) s.mine b))

/-- `vadd` (R218). -/
def execVadd (t : FTy) (d a b : GridOp) (k : Option Cont) (s : State) : Host.Outcome State Fault Refusal :=
  s.vbin (.vadd t d a b k) t d a b k (t.lat 4 8) (Val.add .rne)

/-- `vsub` (R218). -/
def execVsub (t : FTy) (d a b : GridOp) (k : Option Cont) (s : State) : Host.Outcome State Fault Refusal :=
  s.vbin (.vsub t d a b k) t d a b k (t.lat 4 8) fun x y => Val.add .rne x y.negate

/-- `vmul` (R218). -/
def execVmul (t : FTy) (d a b : GridOp) (k : Option Cont) (s : State) : Host.Outcome State Fault Refusal :=
  s.vbin (.vmul t d a b k) t d a b k (t.lat 4 8) Val.mul

/-- `vmin` (R218). -/
def execVmin (t : FTy) (d a b : GridOp) (k : Option Cont) (s : State) : Host.Outcome State Fault Refusal :=
  s.vbin (.vmin t d a b k) t d a b k (t.lat 4 8) Val.fmin

/-- `vmax` (R218). -/
def execVmax (t : FTy) (d a b : GridOp) (k : Option Cont) (s : State) : Host.Outcome State Fault Refusal :=
  s.vbin (.vmax t d a b k) t d a b k (t.lat 4 8) Val.fmax

/-- `vdiv` (R218). -/
def execVdiv (t : FTy) (d a b : GridOp) (k : Option Cont) (s : State) : Host.Outcome State Fault Refusal :=
  s.vbin (.vdiv t d a b k) t d a b k (t.lat 12 24) Val.div

/-- `vfma` (R220). -/
def execVfma (t : FTy) (d a b : GridOp) (k : Cont) (s : State) : Host.Outcome State Fault Refusal :=
  s.vter (.vfma t d a b k) t d a b k (Val.fma .rne)

/-- `vfnm` (R220). -/
def execVfnm (t : FTy) (d a b : GridOp) (k : Cont) (s : State) : Host.Outcome State Fault Refusal :=
  s.vter (.vfnm t d a b k) t d a b k fun x y z => Val.fma .rne x.negate y z

/-- `vclamp` (R221). -/
def execVclamp (t : FTy) (d a b : GridOp) (k : Cont) (s : State) : Host.Outcome State Fault Refusal :=
  s.vter (.vclamp t d a b k) t d a b k fun x y z => Val.fmin (Val.fmax x y) z

/-- `vabs` (R219). -/
def execVabs (t : FTy) (d a : GridOp) (k : Option Cont) (s : State) : Host.Outcome State Fault Refusal :=
  s.vun (.vabs t d a k) t d a k 2 Val.abs

/-- `vneg` (R219). -/
def execVneg (t : FTy) (d a : GridOp) (k : Option Cont) (s : State) : Host.Outcome State Fault Refusal :=
  s.vun (.vneg t d a k) t d a k 2 Val.negate

/-- `vsqrt` (R219). -/
def execVsqrt (t : FTy) (d a : GridOp) (k : Option Cont) (s : State) : Host.Outcome State Fault Refusal :=
  s.vun (.vsqrt t d a k) t d a k (t.lat 12 24) Val.sqrt

/-- `vrsqrt` (R219). -/
def execVrsqrt (t : FTy) (d a : GridOp) (k : Option Cont) (s : State) : Host.Outcome State Fault Refusal :=
  s.vun (.vrsqrt t d a k) t d a k (t.lat 12 24) Val.rsqrt

/-- `vrcp` (R219). -/
def execVrcp (t : FTy) (d a : GridOp) (k : Option Cont) (s : State) : Host.Outcome State Fault Refusal :=
  s.vun (.vrcp t d a k) t d a k (t.lat 12 24) (Val.div (.fin false 1 0))

/-- `vexp2` (R219); `.f64` never dispatches. -/
def execVexp2 (t : FTy) (d a : GridOp) (k : Option Cont) (s : State) : Host.Outcome State Fault Refusal :=
  s.vun (.vexp2 t d a k) t d a k (t.lat 12 24) Val.exp2

/-- `vlog2` (R219); `.f64` never dispatches. -/
def execVlog2 (t : FTy) (d a : GridOp) (k : Option Cont) (s : State) : Host.Outcome State Fault Refusal :=
  s.vun (.vlog2 t d a k) t d a k (t.lat 12 24) Val.log2

/-- `vtanh` (R219); `.f64` never dispatches. -/
def execVtanh (t : FTy) (d a : GridOp) (k : Option Cont) (s : State) : Host.Outcome State Fault Refusal :=
  s.vun (.vtanh t d a k) t d a k (t.lat 12 24) Val.tanh

/-! ## Compare and select -/

/-- A floating comparison by COND (R222). -/
def condFloat (c : Nat) (x y : Val) : Bool :=
  let un := x.isNan || y.isNan
  match c with
  | 0 => Val.eq x y
  | 1 => !Val.eq x y
  | 2 => Val.lt x y
  | 3 => !un && !Val.lt y x
  | 4 => Val.lt y x
  | 5 => !un && !Val.lt x y
  | _ => un

/-- A signed integer comparison by COND (R222). -/
def condInt (c : Nat) (x y : Int) : Bool :=
  match c with
  | 0 => decide (x = y)
  | 1 => decide (x ≠ y)
  | 2 => decide (x < y)
  | 3 => decide (x ≤ y)
  | 4 => decide (y < x)
  | _ => decide (y ≤ x)

/-- A word with bit i set when f i holds, for i below 64. -/
def bitWord (f : Nat → Bool) : Word := BitVec.ofNat 64 (packBits 1 ((List.range 64).map fun i => b2n (f i)))

/-- The predicate bits of a comparison: cell c takes the conjunction over its elements; a pair of FP64 cells its one element (R222). -/
def cmpBits (b : Nat) (rs : List Bool) : Word :=
  bitWord fun c =>
    if b = 8 then nthD false rs (c / 2) else (span (c * 4 / b) (4 / b)).all fun i => nthD false rs i

/-- Write predicate p at t + lat - 1 (R215, R222). -/
def predWrite (lat p : Nat) (mask val : Word) : Nat × WEff := (lat - 1, .pred p mask val)

/-- `vcmp` (R222). -/
def execVcmp (t : BitVec 2) (c : BitVec 3) (i : Bool) (p : BitVec 3) (a b : GridOp) (k : Option Cont) (s : State) :
    Host.Outcome State Fault Refusal :=
  s.vop (.vcmp t c i p a b k) k [a, b] [] fun e =>
    let ft := FTy.ofBits t
    let bytes := if i then iBytes (t.getLsbD 0) else ft.bytes
    let cmp (x y : Nat) : Bool :=
      if i then condInt c.toNat (sInt (8 * bytes) x) (sInt (8 * bytes) y)
      else condFloat c.toNat (ft.fmt.decode x) (ft.fmt.decode y)
    let rs := List.zipWith cmp (lineElems bytes s.mine a) (lineElems bytes s.mine b)
    s.startRun .v e 1 [predWrite 2 p.toNat (cellMask bytes (s.vmask k)) (cmpBits bytes rs)]

/-- `vsel` (R223): Q is the selector, every cell is written. -/
def execVsel (d a b : GridOp) (k : Cont) (s : State) : Host.Outcome State Fault Refusal :=
  s.vop (.vsel d a b k) (some k) [d, a, b] [] fun e =>
    let q := s.vmask (some k)
    let xs := lineElems 4 s.mine a
    let ys := lineElems 4 s.mine b
    s.vwrite e 2 d 4 (BitVec.allOnes 64)
      ((List.range 64).map fun i => if q.getLsbD i then nthD 0 xs i else nthD 0 ys i)

/-! ## Integers -/

/-- `viadd` (R224). -/
def execViadd (t : Bool) (d a b : GridOp) (k : Option Cont) (s : State) : Host.Outcome State Fault Refusal :=
  s.vint (.viadd t d a b k) t d a b k 2 fun w x y => (x + y) % 2 ^ w

/-- `visub` (R224). -/
def execVisub (t : Bool) (d a b : GridOp) (k : Option Cont) (s : State) : Host.Outcome State Fault Refusal :=
  s.vint (.visub t d a b k) t d a b k 2 fun w x y => (x + 2 ^ w - y) % 2 ^ w

/-- `vimul` (R224). -/
def execVimul (t : Bool) (d a b : GridOp) (k : Option Cont) (s : State) : Host.Outcome State Fault Refusal :=
  s.vint (.vimul t d a b k) t d a b k 4 fun w x y => (x * y) % 2 ^ w

/-- `viand` (R224). -/
def execViand (t : Bool) (d a b : GridOp) (k : Option Cont) (s : State) : Host.Outcome State Fault Refusal :=
  s.vint (.viand t d a b k) t d a b k 2 fun _ x y => x &&& y

/-- `vior` (R224). -/
def execVior (t : Bool) (d a b : GridOp) (k : Option Cont) (s : State) : Host.Outcome State Fault Refusal :=
  s.vint (.vior t d a b k) t d a b k 2 fun _ x y => x ||| y

/-- `vixor` (R224). -/
def execVixor (t : Bool) (d a b : GridOp) (k : Option Cont) (s : State) : Host.Outcome State Fault Refusal :=
  s.vint (.vixor t d a b k) t d a b k 2 fun _ x y => x ^^^ y

/-- `vishl` (R224). -/
def execVishl (t : Bool) (d a b : GridOp) (k : Option Cont) (s : State) : Host.Outcome State Fault Refusal :=
  s.vint (.vishl t d a b k) t d a b k 2 fun w x y => (x * 2 ^ (y % w)) % 2 ^ w

/-- `vishr` (R224). -/
def execVishr (t : Bool) (d a b : GridOp) (k : Option Cont) (s : State) : Host.Outcome State Fault Refusal :=
  s.vint (.vishr t d a b k) t d a b k 2 fun w x y => x / 2 ^ (y % w)

/-- `visra` (R224). -/
def execVisra (t : Bool) (d a b : GridOp) (k : Option Cont) (s : State) : Host.Outcome State Fault Refusal :=
  s.vint (.visra t d a b k) t d a b k 2 fun w x y => uPat w (sInt w x / (2 ^ (y % w) : Nat))

/-- `vimin` (R224). -/
def execVimin (t : Bool) (d a b : GridOp) (k : Option Cont) (s : State) : Host.Outcome State Fault Refusal :=
  s.vint (.vimin t d a b k) t d a b k 2 fun w x y => if sInt w y < sInt w x then y else x

/-- `vimax` (R224). -/
def execVimax (t : Bool) (d a b : GridOp) (k : Option Cont) (s : State) : Host.Outcome State Fault Refusal :=
  s.vint (.vimax t d a b k) t d a b k 2 fun w x y => if sInt w x < sInt w y then y else x

/-! ## Conversion and block packing -/

/-- `vcvt` (R225): the first N elements in the layout of DST; the others keep their values. -/
def execVcvt (r : Rm) (d a : GridOp) (dst src : BitVec 4) (k : Option Cont) (s : State) : Host.Outcome State Fault Refusal :=
  s.vop (.vcvt r d a dst src k) k [d, a] [] fun e =>
    let sb := typeBytes src.toNat
    let db := typeBytes dst.toNat
    let n := 256 / Nat.max sb db
    let xs := (elemsOf sb n (lineBytes (readLine s.mine a))).map fun x => roundT dst.toNat r (decodeT src.toNat x)
    let lat := if sb = 8 ∨ db = 8 then 8 else 4
    s.vwrite e lat d db (s.vmask k) xs

/-- The type code of an MX mod field (R226). -/
def mxType (m : BitVec 2) : Nat := 5 + m.toNat

/-- Blocks of an MX line by its mod field (R226). -/
def mxBlocks (m : BitVec 2) : Nat := 2 * mxLines m

/-- Read source line j of an issued vmxp (R226). -/
def mxpRead (d : Dat) (m : BitVec 2) (a : GridOp) (r : Run) : Run :=
  if r.k < mxLines m then { r with data := r.data ++ lineBytes (readLine d (gridNext a r.k)) } else r

/-- The packed line and scale bytes of the source lines read (R199, R226). -/
def mxpPack (m : BitVec 2) (data : List Byte) : List Byte × List Byte :=
  let t := mxType m
  let vals := (elemsOf 4 (64 * mxLines m) data).map fp32.decode
  let packs := (List.range (mxBlocks m)).map fun b => mxPack ((vals.drop (32 * b)).take 32) t .rne
  (bytesOf 256 (packBits (mxBits t) (packs.flatMap fun p => p.2)),
   (packs.map fun p => BitVec.ofNat 8 p.1) ++ List.replicate (16 - mxBlocks m) 0)

/-- The writes of an issued vmxp, known when its last source line has been read: d, and bytes 0 to 15 of b, at t + L + 2 (R226). -/
def mxpWrites (m : BitVec 2) (d b : GridOp) (r : Run) : Run :=
  if r.k + 1 = mxLines m then
    let p := mxpPack m r.data
    let all := BitVec.allOnes 64
    { r with wr := [(mxLines m + 2, .grid (lineWrites d all (cellsOf 64 p.1) ++ lineWrites b all (cellsOf 4 p.2)))] }
  else r

/-- `vmxp` (R226). -/
def execVmxp (m : BitVec 2) (d a b : GridOp) (k : Option Cont) (s : State) : Host.Outcome State Fault Refusal :=
  s.vop (.vmxp m d a b k) k (d :: b :: linesFrom a (mxLines m)) [] fun e =>
    (s.startRun .v e (mxLines m + 2) []).mapLast (mxpRead s.mine m a)

/-- `vmxu` (R227). -/
def execVmxu (m : BitVec 2) (d a b : GridOp) (k : Option Cont) (s : State) : Host.Outcome State Fault Refusal :=
  s.vop (.vmxu m d a b k) k (a :: b :: linesFrom d (mxLines m)) [] fun e =>
    let t := mxType m
    let n := natOfBytes (lineBytes (readLine s.mine a))
    let sc := lineBytes (readLine s.mine b)
    let line (j : Nat) : List Cell32 := (List.range 64).map fun c =>
      let i := 64 * j + c
      BitVec.ofNat 32 (fp32.round .rne (mxUnpack t (bitsAt (mxBits t) i n) (nthD 0 sc (i / 32)).toNat))
    s.startRun .v e (mxLines m + 1)
      ((List.range (mxLines m)).map fun j => (2 + j, .grid (lineWrites (gridNext d j) (BitVec.allOnes 64) (line j))))

/-! ## Movement -/

/-- `vmov` (R228). -/
def execVmov (d a : GridOp) (k : Option Cont) (s : State) : Host.Outcome State Fault Refusal :=
  s.vop (.vmov d a k) k [d, a] [] fun e => s.vwrite e 2 d 4 (s.vmask k) (lineElems 4 s.mine a)

/-- `vbc` (R228): every enabled element of d takes element n of a. -/
def execVbc (t : FTy) (d a : GridOp) (n : BitVec 7) (k : Option Cont) (s : State) : Host.Outcome State Fault Refusal :=
  s.vop (.vbc t d a n k) k [d, a] [] fun e =>
    let xs := lineElems t.bytes s.mine a
    s.vwrite e 2 d t.bytes (s.vmask k) (xs.map fun _ => nthD 0 xs n.toNat)

/-- `vperm` (R228). -/
def execVperm (d a b : GridOp) (k : Option Cont) (s : State) : Host.Outcome State Fault Refusal :=
  s.vop (.vperm d a b k) k [d, a, b] [] fun e =>
    let xs := lineElems 4 s.mine a
    s.vwrite e 2 d 4 (s.vmask k) ((lineElems 4 s.mine b).map fun j => nthD 0 xs j)

/-- `vrot` (R228). -/
def execVrot (d a : GridOp) (n : BitVec 6) (k : Option Cont) (s : State) : Host.Outcome State Fault Refusal :=
  s.vop (.vrot d a n k) k [d, a] [] fun e =>
    let xs := lineElems 4 s.mine a
    s.vwrite e 2 d 4 (s.vmask k) ((List.range 64).map fun i => nthD 0 xs ((i + n.toNat) % 64))

/-! ## Reductions, scan, histogram and selection -/

/-- The type of a reduction's floating sources and of its tree: 16-bit types widen to FP32 (R210). -/
def treeFmt (t : FTy) : Fmt := if t = .f64 then fp64 else fp32

/-- op of a floating reduction by OP, rounded to the tree's type (R229). -/
def redOp (f : Fmt) (o : Nat) (x y : Val) : Val :=
  match o with
  | 0 => f.decode (f.round .rne (Val.add .rne x y))
  | 1 => Val.fmin x y
  | _ => Val.fmax x y

/-- The identity of a floating op (R229). -/
def redId (o : Nat) : Val :=
  match o with
  | 0 => .fin true 0 0
  | 1 => .inf false
  | _ => .inf true

/-- op of an integer reduction by OP: wrapping INT32 (R210, R229). -/
def redOpI (o : Nat) (x y : Int) : Int :=
  match o with
  | 0 => sInt 32 (uPat 32 (x + y))
  | 1 => min x y
  | _ => max x y

/-- The identity of an integer op (R229). -/
def redIdI (o : Nat) : Int :=
  match o with
  | 0 => 0
  | 1 => 2147483647
  | _ => -2147483648

/-- Source elements of b bytes, with the identity in place of the elements that are not enabled (R229). -/
def sources {α : Type} (b : Nat) (m : Word) (ident : α) (f : Nat → α) (xs : List Nat) : List α :=
  ((List.range xs.length).zip xs).map fun p => if elemOn b m p.1 then f p.2 else ident

/-- `vred` (R229). -/
def execVred (t : BitVec 2) (d a : GridOp) (i : Bool) (o : BitVec 2) (k : Option Cont) (s : State) :
    Host.Outcome State Fault Refusal :=
  s.vop (.vred t d a i o k) k [d, a] [] fun e =>
    let ft := FTy.ofBits t
    let m := s.vmask k
    let all := BitVec.allOnes 64
    if i then
      let b := iBytes (t.getLsbD 0)
      let xs := sources b m (redIdI o.toNat) (sInt (8 * b)) (lineElems b s.mine a)
      let r := treeReduce (redOpI o.toNat) 0 (Nat.log2 xs.length) xs
      s.vwrite e 8 d 4 all (List.replicate 64 (uPat 32 r))
    else
      let f := treeFmt ft
      let xs := sources ft.bytes m (redId o.toNat) ft.fmt.decode (lineElems ft.bytes s.mine a)
      let r := f.round .rne (treeReduce (redOp f o.toNat) .nan (Nat.log2 xs.length) xs)
      let b := if ft = .f64 then 8 else 4
      s.vwrite e (ft.lat 8 12) d b all (List.replicate (256 / b) r)

/-- The scan with EX: the identity first, then the running values but the last (R230). -/
def exclusive {α : Type} (ex : Bool) (ident : α) (ys : List α) : List α := if ex then ident :: ys.dropLast else ys

/-- `vscan` (R230). -/
def execVscan (t : BitVec 2) (d a : GridOp) (i e : Bool) (o : BitVec 2) (k : Option Cont) (s : State) :
    Host.Outcome State Fault Refusal :=
  s.vop (.vscan t d a i e o k) k [d, a] [] fun en =>
    let ft := FTy.ofBits t
    let m := s.vmask k
    let all := BitVec.allOnes 64
    if i then
      let xs := sources 4 m (redIdI o.toNat) (sInt 32) (lineElems 4 s.mine a)
      let ys := exclusive e (redIdI o.toNat) (scanOrdered (redOpI o.toNat) xs)
      s.vwrite en 12 d 4 all (ys.map (uPat 32))
    else
      let f := treeFmt ft
      let xs := sources ft.bytes m (redId o.toNat) ft.fmt.decode (lineElems ft.bytes s.mine a)
      let ys := exclusive e (redId o.toNat) (scanOrdered (redOp f o.toNat) xs)
      s.vwrite en (ft.lat 12 20) d ft.bytes all (ys.map (f.round .rne))

/-- `vhist` (R231). -/
def execVhist (t : Bool) (d a b : GridOp) (k : Option Cont) (s : State) : Host.Outcome State Fault Refusal :=
  s.vop (.vhist t d a b k) k [d, a, b] [] fun e =>
    let w := iBytes t
    let m := s.vmask k
    let xs := lineElems w s.mine a
    let hits := ((List.range xs.length).zip xs).filterMap fun p => if elemOn w m p.1 then some p.2 else none
    let bs := lineElems 4 s.mine b
    s.vwrite e 6 d 4 (BitVec.allOnes 64)
      ((List.range 64).map fun j => (nthD 0 bs j + (hits.filter (· == j)).length) % 2 ^ 32)

/-- Whether candidate x ranks before y by value (R232). -/
def topBefore (t : Bool) (x y : Nat) : Bool :=
  if t then decide (sInt 32 y < sInt 32 x)
  else
    let a := fp32.decode x
    let b := fp32.decode y
    !a.isNan && (b.isNan || Val.lt b a)

/-- Put a candidate (cell, value) behind every earlier one that does not rank after it (R232). -/
def topInsert (t : Bool) (c : Nat × Nat) : List (Nat × Nat) → List (Nat × Nat)
  | [] => [c]
  | h :: rest => if topBefore t c.2 h.2 then c :: h :: rest else h :: topInsert t c rest

/-- `vtop` (R232). -/
def execVtop (t : Bool) (n : BitVec 5) (p : BitVec 3) (a x : GridOp) (k : Option Cont) (s : State) :
    Host.Outcome State Fault Refusal :=
  s.vop (.vtop t n p a x k) k [a, x] [] fun e =>
    let m := s.vmask k
    let cand := ((List.range 64).zip (lineElems 4 s.mine a)).filter fun c => m.getLsbD c.1
    let ranked := (cand.foldl (fun l c => topInsert t c l) []).take (n.toNat + 1)
    let idx := ranked.map (·.1)
    let all := BitVec.allOnes 64
    let cells : List Cell32 := (List.range 64).map fun j => BitVec.ofNat 32 (nthD 0xFFFFFFFF idx j)
    s.startRun .v e 11 [(11, .grid (lineWrites x all cells)), predWrite 12 p.toNat all (bitWord fun i => idx.contains i)]

/-! ## Model helpers -/

/-- Whether a value is NaN or +∞. -/
def nanOrTop (v : Val) : Bool := v.isNan || v == .inf false

/-- The factor 2^(m1 - m), 0 for m1 = -∞, rounded to FP32 (R233). -/
def mergeFactor (m1 m : Val) : Nat :=
  if m1 = .inf true then 0 else fp32.round .rne (Val.exp2 (Val.add .rne m1 m.negate))

/-- `vsmx.merge` (R233): the writes apply in the order of its pseudocode, s[1], then o, then s[0], where lines share a cell. -/
def execVsmxMerge (d a b : GridOp) (k : Cont) (s : State) : Host.Outcome State Fault Refusal :=
  s.vop (.vsmxMerge d a b k) (some k) [d, a, b, xgOp k] [] fun e =>
    let o := lineElems 4 s.mine d
    let sl := lineElems 4 s.mine a
    let p := lineElems 4 s.mine b
    let u := lineElems 4 s.mine (xgOp k)
    let m1 := fp32.decode (nthD 0 sl 0)
    let m2 := fp32.decode (nthD 0 u 0)
    let bad := nanOrTop m1 || nanOrTop m2
    let m := Val.fmax m1 m2
    let f1 := mergeFactor m1 m
    let f2 := mergeFactor m2 m
    let merge (x y : Nat) : Nat := if bad then fp32.nanEnc else fp32.fma y f2 (fp32.mul x f1)
    let ov := List.zipWith merge o p
    let s0 := if bad then fp32.nanEnc else fp32.round .rne m
    let s1 := merge (nthD 0 sl 1) (nthD 0 u 1)
    s.startRun .v e 15
      [(15, .grid (lineWrites a 2 (elemCells 4 [s0, s1]) ++ lineWrites d (s.vmask (some k)) (elemCells 4 ov) ++
        lineWrites a 1 (elemCells 4 [s0, s1])))]

/-- The hyperparameters of vadam: the low and high halves of VADP0 to VADP3 (R234). -/
def hyper (cap : List Word) (i : Nat) (high : Bool) : Nat := fld (nthD 0 cap i) (if high then 32 else 0) 32

/-- One cell of vadam: the new w, m and v, or none when the cell is left as it is and STEPF is set (R235). -/
def adamCell (cap : List Word) (w m v g : Nat) : Option (Nat × Nat × Nat) :=
  let beta1 := hyper cap 0 false
  let beta2 := hyper cap 0 true
  let corr1 := hyper cap 1 false
  let corr2 := hyper cap 1 true
  let alpha := hyper cap 2 false
  let eps := hyper cap 2 true
  let lambda := hyper cap 3 false
  if [g, w, m, v, beta1, beta2, corr1, corr2, alpha, eps, lambda].any fun x => (fp32.decode x).isNan then none
  else
    let one := 0x3F800000
    let mn := fp32.fma g (fp32.add one (fp32.neg beta1)) (fp32.mul beta1 m)
    let vn := fp32.fma (fp32.mul g g) (fp32.add one (fp32.neg beta2)) (fp32.mul beta2 v)
    let vh0 := fp32.mul vn corr2
    let vh := if Val.lt (fp32.decode vh0) (.fin false 0 0) then 0 else vh0
    let den := fp32.add (fp32.round .rne (Val.sqrt (fp32.decode vh))) eps
    let u := fp32.round .rne (Val.div (fp32.decode (fp32.mul mn corr1)) (fp32.decode den))
    let wn := fp32.fma (fp32.neg alpha) (fp32.fma lambda w u) w
    if [mn, vn, wn].all fun x => (fp32.decode x).isFinite then some (wn, mn, vn) else none

/-- The cells of vadam, one after another: cell index, old w, m, v and g. -/
def adamCells (cap : List Word) (mask : Word) (w m v g : List Nat) : List (Nat × Option (Nat × Nat × Nat)) :=
  ((List.range 64).filter fun i => mask.getLsbD i).map fun i =>
    (i, adamCell cap (nthD 0 w i) (nthD 0 m i) (nthD 0 v i) (nthD 0 g i))

/-- `vadam` (R235): the three lines and STEPF are written at t + 19. -/
def execVadam (d a b : GridOp) (k : Cont) (s : State) : Host.Outcome State Fault Refusal :=
  let c := s.ctl s.me
  s.vop (.vadam d a b k) (some k) [d, a, b, xgOp k] [c.sr.get 0x0C0, c.sr.get 0x0C1, c.sr.get 0x0C2, c.sr.get 0x0C3] fun e =>
    let rs := adamCells e.cap (s.vmask (some k)) (lineElems 4 s.mine d) (lineElems 4 s.mine a) (lineElems 4 s.mine b)
      (lineElems 4 s.mine (xgOp k))
    let cells := rs.flatMap fun r => match r.2 with
      | some (w, m, v) =>
        [(gridKey d r.1, BitVec.ofNat 32 w), (gridKey a r.1, BitVec.ofNat 32 m), (gridKey b r.1, BitVec.ofNat 32 v)]
      | none => []
    let nf : List (Nat × WEff) := if rs.any fun r => r.2.isNone then [(19, .nf)] else []
    s.startRun .v e 19 ((19, .grid cells) :: nf)

/-- `vchk` (R236). -/
def execVchk (t : FTy) (a : GridOp) (k : Option Cont) (s : State) : Host.Outcome State Fault Refusal :=
  s.vop (.vchk t a k) k [a] [] fun e =>
    let xs := lineElems t.bytes s.mine a
    let m := s.vmask k
    let bad := ((List.range xs.length).zip xs).any fun p => elemOn t.bytes m p.1 && !(t.fmt.decode p.2).isFinite
    s.startRun .v e 1 (if bad then [(1, .nf)] else [])

/-- `vamax` (R237). -/
def execVamax (t : FTy) (d a : GridOp) (k : Option Cont) (s : State) : Host.Outcome State Fault Refusal :=
  s.vop (.vamax t d a k) k [d, a] [] fun e =>
    let f := treeFmt t
    let b := if t = .f64 then 8 else 4
    let xs := sources t.bytes (s.vmask k) (.fin false 0 0) (fun x => (t.fmt.decode x).abs) (lineElems t.bytes s.mine a)
    let x := treeReduce Val.fmax .nan (Nat.log2 xs.length) xs
    s.vwrite e (t.lat 8 12) d b (BitVec.allOnes 64)
      ((lineElems b s.mine d).map fun y => f.round .rne (Val.fmax (f.decode y) x))

end Sys2Proof.Machine
end

