-- ==== Sys2Proof/Machine/Load.lean ====
section
/-! DEFINITION. Timed loads and stores, gathers and scatters, the stream stores, and the ring lanes (R153 to R160, R318, R319, R326): the checks at enqueue, the issue, and what an issued entry reads in each later cycle. -/

namespace Sys2Proof.Machine

/-! ## Reading and writing context addresses -/

/-- The storage that a dynamic read of a place sees: SRAM as it stood at the start of the CYC cycle (R149, R176). -/
def State.viewOf (s : State) (l : Loc) : Mem :=
  match l with
  | .sram _ _ => s.was
  | _ => s.mem

/-- The bytes of a part of an operand, each place as a given view shows it. -/
def State.partBytes (s : State) (view : Loc → Mem) (coach ver : Nat) (p : Nat × Nat × Option MapEntry) : List Byte :=
  match p.2.2 with
  | some e => (view (s.locIn coach e ver p.1)).read (s.locIn coach e ver p.1).key p.2.1
  | none => List.replicate p.2.1 0

/-- The bytes at a context address through a map and a version. -/
def State.ctxBytes (s : State) (coach map ver a n : Nat) : List Byte :=
  (s.parts coach map a n).flatMap (s.partBytes (fun _ => s.mem) coach ver)

/-- The bytes at a context address as a dynamic read returns them (R149, R176). -/
def State.ctxWas (s : State) (coach map ver a n : Nat) : List Byte :=
  (s.parts coach map a n).flatMap (s.partBytes s.viewOf coach ver)

/-- The storage cells of bytes written at a context address, part by part. -/
def State.ctxCells (s : State) (coach ver : Nat) : List (Nat × Nat × Option MapEntry) → List Byte → List Host.Cell
  | [], _ => []
  | (a, n, some e) :: rest, bs =>
    cellsAt (s.locIn coach e ver a).key (bs.take n) ++ s.ctxCells coach ver rest (bs.drop n)
  | (_, n, none) :: rest, bs => s.ctxCells coach ver rest (bs.drop n)

/-- The 64-byte units of the coach's SRAM that n bytes of storage touch, by offset / 64 (R148). -/
def Loc.units (l : Loc) (n : Nat) : List Nat :=
  match l with
  | .sram _ o => span (o / 64) ((o % 64 + n + 63) / 64)
  | _ => []

/-- The units that the parts of an operand touch (R148). -/
def State.partUnits (s : State) (coach ver : Nat) (ps : List (Nat × Nat × Option MapEntry)) : List Nat :=
  ps.flatMap fun p => match p.2.2 with
    | some e => (s.locIn coach e ver p.1).units p.2.1
    | none => []

/-- The units at a context address through a map and a version (R148). -/
def State.ctxUnits (s : State) (coach map ver a n : Nat) : List Nat := s.partUnits coach ver (s.parts coach map a n)

/-- The checks of a timed operand at enqueue: alignment, then R126 (R89, R153). -/
def State.memOperand (s : State) (c : Cls) (write : Bool) (a : Word) (n : Nat) (f : Fields) : Except Flt Fields :=
  if a.toNat % 64 ≠ 0 then .error (.at127 0x33 (a.toNat % 2 ^ 48))
  else orFault (s.checkOperand s.me (s.mapNow s.me) c write a n) f

/-- The operand mask held in an issued entry: the predicate as it stood at the issue (DEDUCED, log 12). -/
def Run.mask (r : Run) : Word := BitVec.ofNat 64 (natOfBytes (r.data.take 8))

/-- Hold the predicate mask of an entry, and further bytes, from its issue on. -/
def State.startMasked (s : State) (q : Queue) (e : Entry) (last : Nat) (k : Option Cont) (more : List Byte) : State :=
  let x := s.eng s.me
  let r : Run :=
    { e := e, q := q, t := (s.coach (coachOf s.me)).tclk, k := 0, last := last, push := last, wr := []
      data := bytesOf 8 (s.vmask k).toNat ++ more, data2 := [], tile := none, tile2 := none, src := none, snaps := [], seen := true, early := [] }
  s.setEng s.me { x with run := x.run ++ [r] }

/-! ## ld and ldt -/

/-- What an issued load of `l` lines does in its cycle k: it reads line k's four units and writes the line three cycles later
(R154). -/
def State.ldRow (s : State) (core : Nat) (l : Nat) (g : GridOp) (r : Run) : Run :=
  if r.k < l then
    let bs := s.ctxBytes (coachOf core) r.e.map r.e.ver (r.e.v0.toNat + 256 * r.k) 256
    { r with wr := r.wr ++ [(r.k + 3, .grid (lineWrites (gridNext g r.k) r.mask (cellsOf 64 bs)))] }
  else r

/-- A load of `l` lines: enqueued with its checks (R153), or issued (R154). -/
def State.loadForm (s : State) (ins : Instr) (l : Nat) (g : GridOp) (b : Reg) (o : Nat) (k : Option Cont) :
    Host.Outcome State Fault Refusal :=
  match s.focus.cur with
  | none =>
    let a := s.address b o
    .next (s.enqueue .l ins k (linesFrom g l) s.plain (fun _ => s.memOperand .timedLocal false a (256 * l) { v0 := a }) none)
  | some e => .next ((s.startMasked .l e (l + 2) k []).mapLast (s.ldRow s.me l g))

/-- `ld` (R153, R154). -/
def execLd (g : GridOp) (b : Reg) (o : BitVec 11) (k : Option Cont) (s : State) : Host.Outcome State Fault Refusal :=
  s.loadForm (.ld g b o k) 1 g b o.toNat k

/-- `ldt` (R153, R154). -/
def execLdt (m : BitVec 2) (g : GridOp) (b : Reg) (o : BitVec 11) (k : Option Cont) (s : State) :
    Host.Outcome State Fault Refusal :=
  s.loadForm (.ldt m g b o k) (tileLines m) g b o.toNat k

/-! ## Stores -/

/-- The remote homes of stores: windows and stripe sets (R318). -/
def isRemote (e : MapEntry) : Bool := e.home == 4 || e.home == 5

/-- The logical coach a remote part goes to (R122, R140). -/
def remoteCoach (g : Gang) (e : MapEntry) (a : Nat) : Nat :=
  if e.home = 4 then e.lcoach
  else ((e.die0 + (a / 4096 - e.baseg) % e.members) % g.ndie) * g.perDie + e.lco

/-- The WAL register that bounds writes to a logical coach (R319). -/
def walIndex (c : Ctl) (lc : Nat) : Nat :=
  ((span 1 15).find? fun k => flag (c.sr.get (0x070 + k)) 63 && fld (c.sr.get (0x070 + k)) 48 12 == lc).getD 0

/-- LIM of a WAL register: 0 stands for 1024 (R319). -/
def walLim (c : Ctl) (k : Nat) : Nat := if fld (c.sr.get (0x070 + k)) 0 10 = 0 then 1024 else fld (c.sr.get (0x070 + k)) 0 10

/-- The allowance register of every remote write that lines `lo` to `l - 1` at address `a` make: one write for each line and
part (R318, R319). A stripe granule never spans members within a line. -/
def State.walUse (s : State) (core map a lo l : Nat) : List Nat :=
  let g := s.gangOf (coachOf core)
  (span lo (l - lo)).flatMap fun k =>
    (s.parts (coachOf core) map (a + 256 * k) 256).filterMap fun p =>
      match p.2.2 with
      | some e => if isRemote e then some (walIndex (s.ctl core) (remoteCoach g e p.1)) else none
      | none => none

/-- How often a number stands in a list. -/
def countOf (n : Nat) (l : List Nat) : Nat := (l.filter (· == n)).length

/-- The first allowance register that a use exceeds, with the use: an operand fault at enqueue (R319). -/
def walOver (c : Ctl) (use : List Nat) : Option Nat :=
  match (span 0 16).find? fun k => decide (walLim c k < countOf k use) with
  | some k => some (countOf k use)
  | none => none

/-- The strongest ordering kind of an operand's parts: SO, RC, UO (R344). -/
def strongest (ps : List (Nat × Nat × Option MapEntry)) : Nat :=
  ps.foldl (fun m p => match p.2.2 with
    | some e => Nat.min m e.ord
    | none => m) 2

/-- The part of the mask that covers n bytes from byte o of a line: bit i for word i (R317). -/
def pieceMask (m : Word) (o n : Nat) : Nat := (m.toNat / 2 ^ (o / 4)) % 2 ^ (n / 4)

/-- The cells of the words of a piece that the mask enables. -/
def maskedCells (mask key : Nat) (bs : List Byte) : List Host.Cell :=
  (cellsAt key bs).filter fun c => mask.testBit ((c.1 - key) / 4)

/-- What a store writes of one line: local parts two cycles after the read, remote parts as remote writes in the cycle of the read
(R154, R318, R326). A part in a window goes out with `rel`, a part of a stripe set with `plain`, as the plain form would send it (R64). -/
def State.storePieces (s : State) (core ver stream k : Nat) (rel plain : Bool) (mask : Word) (base : Nat) (data : List Byte)
    (ps : List (Nat × Nat × Option MapEntry)) : List (Nat × WEff) :=
  ps.filterMap fun p =>
    match p.2.2 with
    | none => none
    | some e =>
      let o := p.1 - base
      let m := pieceMask mask o p.2.1
      let bs := (data.drop o).take p.2.1
      if isRemote e then some (k, .post p.1 m bs (if e.home = 5 then 0 else stream) (if e.home = 5 then plain else rel))
      else
        let l := s.locIn (coachOf core) e ver p.1
        some (k + 2, .mem (maskedCells m l.key bs) (l.units p.2.1))

/-- What an issued store of `l` lines does in its cycle k (R154, R318). -/
def State.stRow (s : State) (core : Nat) (l : Nat) (g : GridOp) (stream : Nat) (enc : Bool) (r : Run) : Run :=
  if r.k < l then
    let a := r.e.v0.toNat + 256 * r.k
    let ord := strongest (s.parts (coachOf core) r.e.map r.e.v0.toNat (256 * l))
    let data := lineBytes (readLine (s.dat core) (gridNext g r.k))
    let ws := s.storePieces core r.e.ver stream r.k (orderFlag ord enc) (orderFlag ord false) r.mask a data (s.parts (coachOf core) r.e.map a 256)
    { r with wr := r.wr ++ ws }
  else r

/-- Whether an operand has a part in a PSRAM window. -/
def hasWindow (ps : List (Nat × Nat × Option MapEntry)) : Bool :=
  ps.any fun p => match p.2.2 with
    | some e => e.home == 4
    | none => false

/-- FTC as it stands for the line: an entry of the fabric captures it (R312). -/
def State.ftc (s : State) : Word := (s.ctl s.me).sr.get 0x0F0

/-- A store of `l` lines on a stream: enqueued with its checks (R89, R153, R319, R64), or issued (R154). DESIGN CHOICE (log 105): no rule says
where R64's 0x02 (a stream or REL set and no part in a window) comes among the checks of the operand; here it comes last, after the alignment
and the checks of R126. -/
def State.storeForm (s : State) (ins : Instr) (l : Nat) (g : GridOp) (b : Reg) (o : Nat) (stream : Nat) (rel : Bool)
    (k : Option Cont) : Host.Outcome State Fault Refusal :=
  match s.focus.cur with
  | none =>
    let a := s.address b o
    let map := s.mapNow s.me
    let capture : Except Flt (List Word × State) :=
      match walOver (s.ctl s.me) (s.walUse s.me map (a.toNat % 2 ^ 48) 0 l) with
      | some n => .error (.at127 0x33 n)
      | none => .ok ([s.ftc], s)
    let operand (_ : List Word) : Except Flt Fields :=
      match s.memOperand .timedStore true a (256 * l) { v0 := a } with
      | .error f => .error f
      | .ok f =>
        if (stream ≠ 0 ∨ rel = true) ∧ hasWindow (s.parts (coachOf s.me) map a.toNat (256 * l)) = false then .error (.at52 0x02)
        else .ok f
    .next (s.enqueue .s ins k (linesFrom g l) capture operand none)
  | some e => .next ((s.startMasked .s e (l + 1) k []).mapLast (s.stRow s.me l g stream rel))

/-- `st` (R153, R154). -/
def execSt (g : GridOp) (b : Reg) (o : BitVec 11) (k : Option Cont) (s : State) : Host.Outcome State Fault Refusal :=
  s.storeForm (.st g b o k) 1 g b o.toNat 0 false k

/-- `stt` (R153, R154). -/
def execStt (m : BitVec 2) (g : GridOp) (b : Reg) (o : BitVec 11) (k : Option Cont) (s : State) :
    Host.Outcome State Fault Refusal :=
  s.storeForm (.stt m g b o k) (tileLines m) g b o.toNat 0 false k

/-- `st.str` (R64, R326). -/
def execStStr (g : GridOp) (b : Reg) (t : BitVec 4) (r : Bool) (o : BitVec 6) (k : Option Cont) (s : State) :
    Host.Outcome State Fault Refusal :=
  s.storeForm (.stStr g b t r o k) 1 g b o.toNat t.toNat r k

/-- `stt.str` (R64, R326). -/
def execSttStr (m : BitVec 2) (g : GridOp) (b : Reg) (t : BitVec 4) (r : Bool) (o : BitVec 6) (k : Option Cont) (s : State) :
    Host.Outcome State Fault Refusal :=
  s.storeForm (.sttStr m g b t r o k) (tileLines m) g b o.toNat t.toNat r k

/-! ## Gathers and scatters -/

/-- What a gather or scatter does with a row (R156). -/
inductive RowAct where
  | skip
  | off
  | go (a : Word)
  deriving DecidableEq, Repr

/-- Row k of a gather: skipped when its bitmap bit is set, off when its predicate bit is clear, else its address (R155, R156). -/
def gatherRow (bitmap mask base : Word) (x : List Byte) (sc k : Nat) : RowAct :=
  if bitmap.getLsbD k then .skip
  else if mask.getLsbD k then
    .go (base + BitVec.ofNat 64 (natOfBytes ((x.drop (4 * k)).take 4) * (64 <<< (2 * sc))))
  else .off

/-- The fault of a row's address: misaligned, or a failed check of R126; ADDR holds the row's address (R138, R156). -/
def State.rowFault (s : State) (core map : Nat) (store : Bool) (a : Word) : Option (Nat × Nat) :=
  if a.toNat % 64 ≠ 0 then some (0x33, a.toNat % 2 ^ 48)
  else
    (s.checkOperand core map (if store then .timedStore else .timedLocal) store a 256).map fun p => (p.1, a.toNat % 2 ^ 48)

/-- The row that an issued gather or scatter comes to in its cycle k. -/
def State.runRow (s : State) (core cb sc : Nat) (r : Run) : RowAct :=
  gatherRow ((s.ctl core).cbs.get (0x030 + cb)) r.mask r.e.v0 (r.data.drop 8) sc r.k

/-- What an issued ldg does in its cycle k (R156). -/
def State.ldgRow (s : State) (core sc : Nat) (g : GridOp) (cb n : Nat) (r : Run) : Run :=
  if r.k < n then
    match s.runRow core cb sc r with
    | .skip => r
    | .off => { r with wr := r.wr ++ [(r.k, .cb cb r.k)] }
    | .go a =>
      let bs := s.ctxBytes (coachOf core) r.e.map r.e.ver a.toNat 256
      let cells := lineWrites (gridNext g r.k) (BitVec.allOnes 64) (cellsOf 64 bs)
      { r with wr := r.wr ++ [(r.k + 3, .grid cells), (r.k + 3, .cb cb r.k)] }
  else r

/-- What an issued stg does in its cycle k (R156, R318). -/
def State.stgRow (s : State) (core sc : Nat) (g : GridOp) (cb n : Nat) (r : Run) : Run :=
  if r.k < n then
    match s.runRow core cb sc r with
    | .skip => r
    | .off => { r with wr := r.wr ++ [(r.k, .cb cb r.k)] }
    | .go a =>
      let ps := s.parts (coachOf core) r.e.map a.toNat 256
      let data := lineBytes (readLine (s.dat core) (gridNext g r.k))
      let rel := orderFlag (strongest ps) false
      let ws := s.storePieces core r.e.ver 0 r.k rel rel (BitVec.allOnes 64) a.toNat data ps
      { r with wr := r.wr ++ ws ++ [(r.k + 2, .cb cb r.k)] }
  else r

/-- The enqueue of a gather or scatter checks the grid lines, the stamp and bits 63:48 of the base register (R137). -/
def State.gatherEnqueue (s : State) (q : Queue) (ins : Instr) (g : GridOp) (b : Reg) (n : Nat) (k : Cont) :
    Host.Outcome State Fault Refusal :=
  let a := s.reg b
  let operand (_ : List Word) : Except Flt Fields :=
    if 2 ^ 48 ≤ a.toNat then .error (.at127 0x20 (a.toNat % 2 ^ 48)) else .ok { v0 := a }
  .next (s.enqueue q ins (some k) (linesFrom g n ++ [xgOp k]) (.ok (if q = .s then [s.ftc] else [], s)) operand none)

/-- `ldg` (R155 to R157). -/
def execLdg (sc : BitVec 2) (g : GridOp) (b : Reg) (cb : BitVec 3) (nr : BitVec 6) (k : Cont) (s : State) :
    Host.Outcome State Fault Refusal :=
  let n := nr.toNat + 1
  match s.focus.cur with
  | none => s.gatherEnqueue .l (.ldg sc g b cb nr k) g b n k
  | some e =>
    .next ((s.startMasked .l e (n + 2) (some k) (lineBytes (readLine s.mine (xgOp k)))).mapLast
      (s.ldgRow s.me sc.toNat g cb.toNat n))

/-- `stg` (R155 to R157). -/
def execStg (sc : BitVec 2) (g : GridOp) (b : Reg) (cb : BitVec 3) (nr : BitVec 6) (k : Cont) (s : State) :
    Host.Outcome State Fault Refusal :=
  let n := nr.toNat + 1
  match s.focus.cur with
  | none => s.gatherEnqueue .s (.stg sc g b cb nr k) g b n k
  | some e =>
    .next ((s.startMasked .s e (n + 1) (some k) (lineBytes (readLine s.mine (xgOp k)))).mapLast
      (s.stgRow s.me sc.toNat g cb.toNat n))

/-! ## Ring lanes -/

/-- The station that a beat at a station moves to in the next cycle (R158). -/
def ringNext (lane s : Nat) : Nat := if lane < 8 then (s + 1) % 16 else (s + 15) % 16

/-- The park buffer of a core and lane. -/
def Coach.parked (k : Coach) (core lane : Nat) : List (List Byte) := lookupD [] k.park (coreIx core * 16 + lane)

/-- `rput` (R159): an M equal to id.core is an illegal instruction at dispatch; the line is read at the issue, its four beats enter the
lane in the next four cycles. -/
def execRput (m : BitVec 3) (l : BitVec 4) (a : GridOp) (k : Option Cont) (s : State) : Host.Outcome State Fault Refusal :=
  match s.focus.cur with
  | none =>
    if m.toNat = idCore s.me then .next (s.fault52 0x02)
    else .next (s.enqueue .l (.rput m l a k) k [a] s.plain noOperand none)
  | some e => .next ((s.startRun .l e 4 []).mapLast fun r => { r with data := lineBytes (readLine s.mine a) })

/-- `rtake` (R160): takes the four oldest beats of the park buffer and writes the enabled cells of d, readable from the next cycle. -/
def execRtake (d : GridOp) (l : BitVec 4) (k : Option Cont) (s : State) : Host.Outcome State Fault Refusal :=
  match s.focus.cur with
  | none => .next (s.enqueue .l (.rtake d l k) k [d] s.plain noOperand none)
  | some e =>
    let kc := coachOf s.me
    let x := s.coach kc
    let beats := x.parked s.me l.toNat
    let bs := (beats.take 4).flatMap id
    let s1 := s.setCoach kc { x with park := putKey x.park (coreIx s.me * 16 + l.toNat) (beats.drop 4) }
    .next (s1.startRun .l e 0 [(0, .grid (lineWrites d (s.vmask k) (cellsOf 64 bs)))])

/-- Whether a lane position of a carriage holds a beat. -/
def laneBusy (beats : List Beat) (car lane pos : Nat) : Bool :=
  beats.any fun b => b.car == car && b.lane == lane && b.pos == pos

/-- The beats of a coach one cycle later, before new beats enter. -/
def moveBeats (beats : List Beat) : List Beat := beats.map fun b => { b with pos := ringNext b.lane b.pos }

/-- The beats that have reached their target station. -/
def arrived (beats : List Beat) : List Beat := beats.filter fun b => b.pos == b.target

/-- The core at a beat's target station. -/
def beatCore (coach : Nat) (b : Beat) : Nat := coach * 16 + b.car * 8 + (b.target - 1) / 2

/-- Park the arrived beats. A beat that meets a full buffer has raised its ring fault when the cycle opened (R158), and is lost with the
cycle. -/
def parkBeats (coach : Nat) : List Beat → Coach → Coach
  | [], k => k
  | b :: rest, k =>
    let key := coreIx (beatCore coach b) * 16 + b.lane
    let q := lookupD [] k.park key
    parkBeats coach rest (if q.length < 4 then { k with park := putKey k.park key (q ++ [b.data]) } else k)

/-- The rput beats of a core that enter their lanes in this cycle: lane, target station and data (R159). -/
def enteringBeats (x : Eng) : List (Nat × Nat × Nat × List Byte) :=
  x.run.filterMap fun r =>
    match r.e.ins with
    | .rput m l _ _ =>
      if 1 ≤ r.k ∧ r.k ≤ 4 ∧ r.data.length = (5 - r.k) * 64 then
        some (r.e.id, l.toNat, 2 * m.toNat + 1, r.data.take 64)
      else none
    | _ => none

/-- Enter the beats of a core, each where its lane position is free; the entry gives the beat up (R159). -/
def enterBeats (core : Nat) : List (Nat × Nat × Nat × List Byte) → Coach → Eng → Coach × Eng
  | [], k, x => (k, x)
  | (id, lane, target, data) :: rest, k, x =>
    let pos := 2 * idCore core + 1
    if laneBusy k.beats (carOf core) lane pos then enterBeats core rest k x
    else
      enterBeats core rest
        { k with beats := k.beats ++ [{ car := carOf core, lane := lane, pos := pos, target := target, data := data }] }
        { x with run := x.run.map fun r => if r.e.id == id then { r with data := r.data.drop 64 } else r }

/-- The beats of each core of a list enter, lowest core first. -/
def enterAll (coach : Nat) : List Nat → State → State
  | [], s => s
  | c :: rest, s =>
    let x := s.eng c
    match enteringBeats x with
    | [] => enterAll coach rest s
    | l =>
      let p := enterBeats c l (s.coach coach) x
      enterAll coach rest ((s.setCoach coach p.1).setEng c p.2)

/-- One TCLK cycle of a coach's ring lanes: every beat moves, the arrived ones park, new ones enter (R158, R159). -/
def State.ringCycle (s : State) (coach : Nat) : State :=
  let k := s.coach coach
  let moved := moveBeats k.beats
  let k1 := parkBeats coach (arrived moved) { k with beats := moved.filter fun b => b.pos != b.target }
  enterAll coach (coresOf coach) (s.setCoach coach k1)

end Sys2Proof.Machine
end

