-- ==== Sys2Proof/Machine/Bulk.lean ====
section
/-! DEFINITION. Work outside the timetable on carriage memory and the stack: operations that complete on an arrival word (R164), bulk copies (R162, R163), the stride-gather unit (R185, R186), and the tier unit (R187 to R190). -/

namespace Sys2Proof.Machine

/-! ## Operations that complete on an arrival word -/

/-- The arrival word an instruction registers on at its enqueue and completes on (R57, R118, R162, R164, R186). -/
def awOf (i : Instr) : Option Nat :=
  match i with
  | .cp _ _ _ w _ => some w.toNat
  | .ldx _ _ _ w _ => some w.toNat
  | .flLd _ _ _ _ _ u | .fcollSet _ _ _ u | .fred _ _ _ _ _ u => some u.aw.toNat
  | .fam _ _ _ _ _ _ u => some u.aw.toNat
  | .fbar u => some u.aw.toNat
  | .cph _ _ _ _ u => some u.aw.toNat
  | .spanOpen _ _ u | .spanApp _ _ u | .spanRt _ _ _ _ u | .kvWalk _ _ _ _ u | .kvPlan _ _ _ _ u | .kvFork _ _ _ _ u
  | .kvDrop _ u | .kvHint _ _ _ _ u => some u.aw.toNat
  | .qSig _ aw _ => some aw.toNat
  | _ => none

/-- The arrival word an entry completes on. -/
def Entry.aw (e : Entry) : Option Nat := awOf e.ins

/-- An operation that has issued and not completed. -/
def opOf (q : Queue) (e : Entry) (now due : Nat) : Op :=
  { id := e.id, q := q, e := e, at_ := now, pos := 0, done := false, val := 0, stat := 0, due := due, cells := [], bytes := []
    data := [], parts := [], grp := none }

/-- Start an operation of a core. -/
def State.startOp (s : State) (core : Nat) (o : Op) : State :=
  let x := s.eng core
  s.setEng core { x with ops := x.ops ++ [o] }

/-- An operation of a core by its identity. -/
def Eng.op? (x : Eng) (id : Nat) : Option Op := x.ops.find? fun o => o.id == id

/-- Replace an operation of a core. -/
def State.setOp (s : State) (core : Nat) (o : Op) : State :=
  let x := s.eng core
  s.setEng core { x with ops := x.ops.map fun p => if p.id == o.id then o else p }

/-- When an operation started, as R164 orders those that complete in one cycle: by its issue, then by its place in program order. -/
def Op.start (o : Op) : Nat := o.at_ * 2 ^ 64 + o.id

/-- Complete an operation: it leaves the core, its arrival word completes with its value and status, and the signals and shrinks that
waited for it follow (R118, R152, R164). -/
def State.finishOp (s : State) (core : Nat) (o : Op) (val stat : Nat) : State :=
  let x := s.eng core
  let s1 := s.setEng core { x with ops := x.ops.filter fun p => !(p.id == o.id) }
  let s2 := match o.e.aw with
    | some k => s1.awDone core k val stat o.start
    | none => s1
  let s3 := s2.settleSigs core
  s3.setCore core (s3.core core).settleShrinks

/-! ## Dynamic traffic (R146, R182) -/

/-- The pseudo-channel of a stack byte (R178). -/
def pcOf (o : Nat) : Nat := (o / 256) % 128

/-- Whether dynamic traffic is served on a pseudo-channel of a coach in cycle `now`: no segment runs, and none has ended in this very cycle;
the freeze line is asserted; or a window is open there (R181, R182, R184). -/
def Coach.pcServed (k : Coach) (now pc : Nat) : Bool :=
  (!k.tl.running && decide (k.tl.freeAt ≤ now)) || k.frozen ||
    decide (k.tclk < (lookupD PcState.reset k.tl.pcs pc).winEnd)

/-- Where the shift slot or the dynamic slot of the block of an SRAM byte stands among the slots (R145, R146). -/
def slotKey (dyn : Bool) (coach off : Nat) : Nat := (coach * 16 + off / 2 ^ 21) * 2 + b2n dyn

/-- Whether the shift slot or the dynamic slot of the block that holds a byte is free in the cycle; other storage has no such slot (R146). -/
def State.slotFree (s : State) (dyn : Bool) (l : Loc) : Bool :=
  match l with
  | .sram c o => decide (lookupD 0 s.slots (slotKey dyn c o) ≤ s.cyc)
  | _ => true

/-- Take the slot of the block that holds a byte for n units of 64 bytes, one a cycle, after what has taken it before (R146). -/
def State.takeSlot (s : State) (dyn : Bool) (l : Loc) (n : Nat) : State :=
  match l with
  | .sram c o => { s with slots := putKey s.slots (slotKey dyn c o) (Nat.max s.cyc (lookupD 0 s.slots (slotKey dyn c o)) + n) }
  | _ => s

/-- Whether dynamic traffic of n bytes at a place is served in the cycle: the slot of its block is free, or every pseudo-channel that the
bytes lie on is under dynamic control (R146, R182). A stretch of 32 KiB reaches every pseudo-channel. -/
def State.served (s : State) (dyn : Bool) (l : Loc) (n : Nat) : Bool :=
  match l with
  | .hbm c o => (span (o / 256) (Nat.min 128 ((o % 256 + n + 255) / 256))).all fun i => (s.coach c).pcServed s.cyc (i % 128)
  | l => s.slotFree dyn l

/-- Whether dynamic traffic is served for n bytes at a context address that lie in one region (R146, R182). -/
def State.ctxServed (s : State) (coach map ver a n : Nat) : Bool :=
  match s.locOf coach map ver a with
  | some l => s.served true l n
  | none => true

/-- Take the dynamic slot for n bytes at a context address (R146). -/
def State.takeCtx (s : State) (coach map ver a n : Nat) : State :=
  match s.locOf coach map ver a with
  | some l => s.takeSlot true l ((n + 63) / 64)
  | none => s

/-- The place of an SRAM byte, by its key. -/
def sramAt (key : Nat) : Option Loc := if (key >>> 64) % 8 = 0 then some (.sram (key >>> 67) (key % 2 ^ 64)) else none

/-- Whether the dynamic slot of the block that takes the bytes of a unit is free (R146). -/
def State.cellsServed (s : State) (cells : List Host.Cell) : Bool :=
  match cells.head?.bind fun c => sramAt c.1 with
  | some l => s.slotFree true l
  | none => true

/-- Take the dynamic slot of the block that takes the bytes of a unit (R146). -/
def State.takeCells (s : State) (cells : List Host.Cell) : State :=
  match cells.head?.bind fun c => sramAt c.1 with
  | some l => s.takeSlot true l 1
  | none => s

/-- The unit of 64 that a transfer comes to, once `pos` of its bytes have moved (R146). -/
def unitOf {α : Type} (pos : Nat) (l : List α) : List α := (l.drop pos).take 64

/-- How much of a result goes in one unit: the bytes up to the next multiple of 64 (R146). -/
def unitSize (cells : List Host.Cell) : Nat := 64 - (cells.headD (0, 0)).1 % 64

/-- How much of its result an operation comes to. -/
def Op.unitSize (o : Op) (cells : List Host.Cell) : Nat := Machine.unitSize (cells.drop o.pos)

/-- The unit of its result that an operation comes to (R146). -/
def Op.unit (o : Op) (cells : List Host.Cell) : List Host.Cell := (cells.drop o.pos).take (o.unitSize cells)

/-- Whether the result of an operation is there but for the unit it comes to. -/
def Op.lastUnit (o : Op) (cells : List Host.Cell) : Bool := decide (cells.length ≤ o.pos + o.unitSize cells)

/-- An operation writes the unit it comes to of its result, through the dynamic slot of its block (R146). -/
def State.landUnit (s : State) (core : Nat) (o : Op) (cells : List Host.Cell) : State :=
  (s.storeCells (coachOf core) core o.e.map (o.unit cells)).takeCells (o.unit cells)

/-- So much more of an operation's result is there. -/
def State.nextUnit (s : State) (core : Nat) (o : Op) (n : Nat) : State := s.setOp core { o with pos := o.pos + n }

/-! ## The tier unit (R187 to R190) -/

/-- The granules of a retired list on a coach (R387). -/
def badGranules (bad : List Word) (coach : Nat) : List Nat :=
  (bad.filter fun w => fld w 25 3 == coach % 8).map fun w => fld w 0 25

/-- The lowest granule from `g` on that is in neither list; the fuel is one more than the entries of both. -/
def firstFree (used : List Nat) : Nat → Nat → Nat
  | 0, g => g
  | f + 1, g => if used.contains g then firstFree used f (g + 1) else g

/-- The resident pages of a tenant in a coach's pool, as page number and page. -/
def Die.residents (d : Die) (tenant coach : Nat) : List (Nat × Page) :=
  (d.pages.filter fun p => p.1 / 2 ^ 32 == tenant && p.2.coach == some coach).map fun p => (p.1 % 2 ^ 32, p.2)

/-- Whether page a is evicted before page b: lower priority, then larger next-use, then lower offset (R189). -/
def evictBefore (a b : Nat × Page) : Bool :=
  if a.2.prio ≠ b.2.prio then decide (a.2.prio < b.2.prio)
  else if a.2.next ≠ b.2.next then decide (b.2.next < a.2.next)
  else decide (a.1 < b.1)

/-- The page that R189 would evict. -/
def evictChoice : List (Nat × Page) → Option (Nat × Page)
  | [] => none
  | p :: rest =>
    match evictChoice rest with
    | none => some p
    | some q => if evictBefore p q then some p else some q

/-- The granules of a coach's stack that no promotion of a tenant may take: those of every resident page and every move, of any tenant, and
those that were retired when the tenant's pools were laid out (R187, R189, R387). -/
def Die.takenSlots (d : Die) (tenant coach : Nat) : List Nat :=
  (d.pages.filter fun p => p.2.coach == some coach).map (·.2.slot) ++ (d.moves.filter fun m => m.coach == coach).map (·.slot) ++
    badGranules (lookupD [] d.laid tenant) coach

/-- The pages of a tenant that a promotion into a coach's pool may evict: resident there, in the pool as it is laid out, and in no move
(R189, R387). -/
def Die.evictable (d : Die) (tenant coach pool : Nat) : List (Nat × Page) :=
  (d.residents tenant coach).filter fun q =>
    decide (17315981 - pool ≤ q.2.slot) && !(badGranules (lookupD [] d.laid tenant) coach).contains q.2.slot &&
      !(d.moves.any fun m => m.tenant == tenant && m.page == q.1)

/-- Start the promotion of a page into a coach's pool, if R189 grants a slot: a free granule, else the granule of the page it evicts,
else none. A page lies in the tenant's allocation (R393). -/
def State.promote (s : State) (die tenant coach page : Nat) : State :=
  let d := s.die die
  let pool := s.poolSize die tenant
  let p := lookupD Page.reset d.pages (pageKey tenant page)
  if pool = 0 ∨ d.capSize tenant ≤ page ∨ p.coach.isSome ∨ (d.moves.any fun m => m.tenant == tenant && m.page == page) then s
  else
    let used := d.takenSlots tenant coach
    let g := firstFree used (used.length + 1) (17315981 - pool)
    let move (id : Nat) (pg : Nat) (up : Bool) (slot due : Nat) : TierMove :=
      { id := id, tenant := tenant, page := pg, promote := up, coach := coach, slot := slot, due := due }
    let d1 := s.delay 0xFFFFFFFF
    let due := s.cyc + 1 + d1.1
    if g < 17315981 then
      { (d1.2.setDie die { d with moves := d.moves ++ [move s.uid page true g due] }) with uid := s.uid + 1 }
    else
      match evictChoice (d.evictable tenant coach pool) with
      | none => s
      | some v =>
        if v.2.prio ≤ p.prio then
          { (d1.2.setDie die { d with moves := d.moves ++
              [move s.uid v.1 false v.2.slot due, move (s.uid + 1) page true v.2.slot due] }) with uid := s.uid + 2 }
        else s

/-- The pages of a CAP part. -/
def capPages (e : MapEntry) (a n : Nat) : List Nat :=
  let first := e.offg + (a / 4096 - e.baseg)
  span first ((a % 4096 + n + 4095) / 4096)

/-- Note a read of the CAP parts of an operand: its pages are promoted if they may (R188). -/
def State.readTier (s : State) (coach : Nat) (ps : List (Nat × Nat × Option MapEntry)) : State :=
  ps.foldl (fun s p => match p.2.2 with
    | some e =>
      if e.home = 3 then (capPages e p.1 p.2.1).foldl (fun s g => s.promote (dieOf coach) (s.gangOf coach).tenant coach g) s else s
    | none => s) s

/-- TIER_MOVE_COMPLETE (R189, R190): a promotion copies its page from the capacity tier into the pool and makes it resident; an
eviction writes the page back and frees the slot. Until then reads and writes go to the source (R190); a write to a resident page marks it, so
the eviction carries it (R189, R190). A promotion into the slot of an eviction comes after it. No page past the tenant's allocation is read or written
(R393). A lost die moves nothing (R391). -/
def execTierMoveComplete (die n : Nat) (s : State) : Host.Outcome State Fault Refusal :=
  let d := s.die die
  match d.moves.find? fun m => m.id == n with
  | none => .next s
  | some m =>
    let waits := m.promote && d.moves.any fun x => !x.promote && x.coach == m.coach && x.slot == m.slot
    let k := s.coach m.coach
    let served := (List.range 16).all fun i => k.pcServed s.cyc ((m.slot * 16 + i) % 128)
    if s.cyc < m.due ∨ waits = true ∨ served = false ∨ d.lost = true then .next s
    else
      let key := pageKey m.tenant m.page
      let p := lookupD Page.reset d.pages key
      let low := Loc.cap die (s.capBase die m.tenant * 4096 + m.page * 4096)
      let fast := Loc.hbm m.coach (m.slot * 4096)
      let moves := d.moves.filter fun x => !(x.id == n)
      let copy (src dst : Loc) : Mem := s.mem.write dst.key (s.mem.read src.key 4096)
      let held := decide (m.page < d.capSize m.tenant)
      if m.promote && !held then .next (s.setDie die { d with moves := moves })
      else if m.promote then
        let p1 : Page := { p with coach := some m.coach, slot := m.slot, dirty := false }
        .next { (s.setDie die { d with moves := moves, pages := putKey d.pages key p1 }) with mem := copy low fast }
      else
        let p1 : Page := { p with coach := none, dirty := false }
        .next { (s.setDie die { d with moves := moves, pages := putKey d.pages key p1 }) with
          mem := if p.dirty && held then copy fast low else s.mem }

/-! ## cp -/

/-- Whether a part of an operand lies in the capacity tier. -/
def hasCap (ps : List (Nat × Nat × Option MapEntry)) : Bool :=
  ps.any fun p => match p.2.2 with
    | some e => e.home == 3
    | none => false

/-- `cp` (R162): the checks of both ends at enqueue; with a capacity-tier end a tier lookup is sent (R188). At issue the copy starts. -/
def execCp (d a n : Reg) (w : BitVec 6) (k : Option Cont) (s : State) : Host.Outcome State Fault Refusal :=
  match s.focus.cur with
  | none =>
    let dst := s.reg d
    let src := s.reg a
    let len := s.reg n
    let c := s.me
    let map := s.mapNow c
    let value : Option Word :=
      [src, dst, len].find? fun v => decide (v.toNat % 64 ≠ 0)
    let cap := hasCap (s.parts (coachOf c) map src.toNat len.toNat ++ s.parts (coachOf c) map dst.toNat len.toNat)
    let lookup := s.delay 0xFFFFFFFF
    let operand (x : List Word) : Except Flt Fields :=
      match value with
      | some v => .error (.at127 0x33 (v.toNat % 2 ^ 48))
      | none =>
        if len.toNat = 0 ∨ 2 ^ 32 < len.toNat then .error (.at127 0x33 (len.toNat % 2 ^ 48))
        else
          match s.checkOperand c map .bulk false src len.toNat with
          | some (code, x) => .error (.at127 code (x % 2 ^ 48))
          | none =>
            orFault (s.checkOperand c map .bulk true dst len.toNat)
              { v0 := dst, v1 := src, v2 := len, rem := (nthD 0 x 0).toNat }
    let capture : Except Flt (List Word × State) :=
      if cap then .ok ([BitVec.ofNat 64 (s.cyc + 1 + lookup.1)], lookup.2) else s.plain
    .next (s.enqueue .l (.cp d a n w k) k [] capture operand (some w.toNat))
  | some e =>
    let t := s.delay 0xFFFFFFFF
    .next (t.2.startOp s.me (opOf .l e s.cyc (s.cyc + 1 + t.1)))

/-- A copy reads its next unit, as it stood at the start of the cycle, through the dynamic slot or an OPEN slot (R146, R149, R162). -/
def State.copyRead (s : State) (core : Nat) (o : Op) : State :=
  let kc := coachOf core
  let a := o.e.v1.toNat + o.pos
  (s.takeCtx kc o.e.map o.e.ver a 64).setOp core
    { o with bytes := cellsAt 0 (s.ctxWas kc o.e.map o.e.ver a 64), due := s.cyc + 1 }

/-- A copy writes the unit it has read; after its last unit it completes with value n and status OK (R162). Its capacity-tier source is then
promoted if it may be (R188). -/
def State.copyWrite (s : State) (core : Nat) (o : Op) : State :=
  let kc := coachOf core
  let a := o.e.v0.toNat + o.pos
  let cells := s.ctxCells kc o.e.ver (s.parts kc o.e.map a 64) (o.bytes.map (·.2))
  let s1 := (s.storeCells kc core o.e.map cells).takeCtx kc o.e.map o.e.ver a 64
  if o.e.v2.toNat ≤ o.pos + 64 then
    (s1.readTier kc (s.parts kc o.e.map o.e.v1.toNat o.e.v2.toNat)).finishOp core o o.e.v2.toNat 0
  else
    let t := s1.delay 0xFFFFFFFF
    t.2.setOp core { o with pos := o.pos + 64, bytes := [], due := s.cyc + 1 + t.1 }

/-- CP_COMPLETE (R162): a copy reads a unit or writes the unit it has read, in ascending order and at most one of the two in a cycle, when the
path of that end serves it; the write of its last unit completes it. -/
def execCpComplete (core n : Nat) (s : State) : Host.Outcome State Fault Refusal :=
  match (s.eng core).op? n with
  | none => .next s
  | some o =>
    match o.e.ins with
    | .cp .. =>
      let kc := coachOf core
      if s.cyc < o.due then .next s
      else if o.bytes.isEmpty then
        if s.ctxServed kc o.e.map o.e.ver (o.e.v1.toNat + o.pos) 64 then .next (s.copyRead core o) else .next s
      else if s.ctxServed kc o.e.map o.e.ver (o.e.v0.toNat + o.pos) 64 then .next (s.copyWrite core o) else .next s
    | _ => .next s

/-- Whether a head still waits for its tier lookup: `rem` of a cp entry with a capacity-tier end holds the cycle of the answer, 0 stands
for none or answered (R188). -/
def Entry.lookupWaits (e : Entry) : Bool :=
  match e.ins with
  | .cp .. => e.rem != 0
  | _ => false

/-- TIER_LOOKUP_ANSWER (R188): the lookups of a core's queued copies whose time has come are answered. -/
def execTierLookupAnswer (core : Nat) (s : State) : Host.Outcome State Fault Refusal :=
  let x := s.eng core
  let answer (e : Entry) : Entry := if e.lookupWaits && decide (e.rem ≤ s.cyc) then { e with rem := 0 } else e
  .next (s.setEng core { x with ql := x.ql.map answer })

/-! ## ldx -/

/-- A pattern fault at a byte (R192): ADDR holds bits 47:4 of its address and the pattern number. -/
def patFault (a p : Nat) : Flt := .at127 0x41 (a % 2 ^ 48 / 16 * 16 + p)

/-- The fields of a pattern: E, NR, NC and PITCH (R185). -/
def patFields (w : Word) : Nat × Nat × Nat × Nat := (2 ^ fld w 62 2, fld w 50 12 + 1, fld w 38 12 + 1, fld w 0 36)

/-- `ldx` (R186): the pattern faults and the checks of both ends at enqueue; at issue the gather starts. The first byte at fault of a pattern
fault is s when s or PITCH is no multiple of E, the first byte past the region when the footprint leaves it, and d when d or the size is no
multiple of 64 (DESIGN CHOICE, log 92, for PITCH and the size). -/
def execLdx (d a : Reg) (p : BitVec 4) (w : BitVec 6) (k : Option Cont) (s : State) : Host.Outcome State Fault Refusal :=
  match s.focus.cur with
  | none =>
    let c := s.me
    let map := s.mapNow c
    let dst := s.reg d
    let src := s.reg a
    let pat := (s.ctl c).sr.get (0x060 + p.toNat)
    let (e, nr, nc, pitch) := patFields pat
    let foot := (nr - 1) * pitch + nc * e
    let bytes := nr * nc * e
    let leaves : Option Nat :=
      match findEntry (s.gangOf (coachOf c)) (s.mapOf (coachOf c) map) src.toNat with
      | some r => if (r.baseg + r.leng) * 4096 < src.toNat + foot then some ((r.baseg + r.leng) * 4096) else none
      | none => none
    let operand (_ : List Word) : Except Flt Fields :=
      if src.toNat % e ≠ 0 ∨ pitch % e ≠ 0 then .error (patFault src.toNat p.toNat)
      else
        match leaves with
        | some x => .error (patFault x p.toNat)
        | none =>
          if dst.toNat % 64 ≠ 0 ∨ bytes % 64 ≠ 0 then .error (patFault dst.toNat p.toNat)
          else
            match s.checkOperand c map .ldxSrc false src foot with
            | some (code, x) => .error (.at127 code (x % 2 ^ 48))
            | none => orFault (s.checkOperand c map .ldxDst true dst bytes) { v0 := dst, v1 := src }
    .next (s.enqueue .l (.ldx d a p w k) k [] (.ok ([pat], s)) operand (some w.toNat))
  | some e =>
    let t := s.delay 0xFFFFFFFF
    .next (t.2.startOp s.me (opOf .l e s.cyc (s.cyc + 1 + t.1)))

/-- The context address of the element that byte `pos` of a stride gather's destination begins: column by column (R186). -/
def ldxSource (o : Op) (pos : Nat) : Nat :=
  let f := patFields (nthD 0 o.e.cap 0)
  let i := pos / f.1
  o.e.v1.toNat + i % f.2.1 * f.2.2.2 + i / f.2.1 * f.1

/-- The context addresses of the elements of the destination unit that a stride gather comes to (R186). -/
def ldxUnit (o : Op) : List Nat :=
  let e := (patFields (nthD 0 o.e.cap 0)).1
  (List.range (64 / e)).map fun i => ldxSource o (o.pos + i * e)

/-- The bytes that a stride gather writes in all (R186). -/
def ldxBytes (o : Op) : Nat :=
  let f := patFields (nthD 0 o.e.cap 0)
  f.2.1 * f.2.2.1 * f.1

/-- A stride gather reads the elements of its next destination unit through OPEN slots (R149, R186). -/
def State.gatherRead (s : State) (core : Nat) (o : Op) : State :=
  let e := (patFields (nthD 0 o.e.cap 0)).1
  s.setOp core { o with
    bytes := cellsAt 0 ((ldxUnit o).flatMap fun a => s.ctxWas (coachOf core) o.e.map o.e.ver a e), due := s.cyc + 1 }

/-- A stride gather writes the unit it has read through the dynamic slot; after its last unit it completes with value NR × NC × E and status
OK (R186). -/
def State.gatherWrite (s : State) (core : Nat) (o : Op) : State :=
  let kc := coachOf core
  let a := o.e.v0.toNat + o.pos
  let cells := s.ctxCells kc o.e.ver (s.parts kc o.e.map a 64) (o.bytes.map (·.2))
  let s1 := (s.storeCells kc core o.e.map cells).takeCtx kc o.e.map o.e.ver a 64
  if ldxBytes o ≤ o.pos + 64 then s1.finishOp core o (ldxBytes o) 0
  else
    let t := s1.delay 0xFFFFFFFF
    t.2.setOp core { o with pos := o.pos + 64, bytes := [], due := s.cyc + 1 + t.1 }

/-- LDX_COMPLETE (R186): a stride gather reads the elements of a unit or writes the unit, at most one of the two in a cycle, when the path of
that end serves it; the write of its last unit completes it. -/
def execLdxComplete (core n : Nat) (s : State) : Host.Outcome State Fault Refusal :=
  match (s.eng core).op? n with
  | none => .next s
  | some o =>
    match o.e.ins with
    | .ldx .. =>
      let kc := coachOf core
      if s.cyc < o.due then .next s
      else if o.bytes.isEmpty then
        let e := (patFields (nthD 0 o.e.cap 0)).1
        if (ldxUnit o).all fun a => s.ctxServed kc o.e.map o.e.ver a e then .next (s.gatherRead core o) else .next s
      else if s.ctxServed kc o.e.map o.e.ver (o.e.v0.toNat + o.pos) 64 then .next (s.gatherWrite core o) else .next s
    | _ => .next s

end Sys2Proof.Machine
end

