-- ==== Sys2Proof/Machine/Timeline.lean ====
section
/-! DEFINITION. HBM timelines: tl.run, the words of a running segment with the rules they are checked against, and landings (R16, R177 to R184, R192, R193). -/

namespace Sys2Proof.Machine

/-- The first byte of a stack's timeline area (R16). -/
def timelineArea : Nat := 0x1087_88D000

/-- Word i of the `.timeline` section of a coach (R16). -/
def State.tlWord (s : State) (coach i : Nat) : Word := s.mem.dword (.hbm coach (timelineArea + 8 * i))

/-- The number of segments in the directory of a coach (R16). -/
def State.tlCount (s : State) (coach : Nat) : Nat := (s.tlWord coach 0).toNat

/-- CMD of a timeline word: 0 END, 1 ACT, 2 RD, 3 WR, 4 PRE, 5 REF, 6 OPEN, 7 NOP (R177). -/
def tlCmd (w : Word) : Nat := fld w 44 3
/-- DELTA of a timeline word (R177). -/
def tlDelta (w : Word) : Nat := fld w 54 10
/-- PC of a timeline word (R177). -/
def tlPc (w : Word) : Nat := fld w 47 7
/-- BANK of a timeline word (R177). -/
def tlBank (w : Word) : Nat := fld w 40 4
/-- ROW of a timeline word (R177). -/
def tlRow (w : Word) : Nat := fld w 24 16
/-- Whether a REF refreshes one bank only (R177). -/
def tlPb (w : Word) : Bool := flag w 39

/-- The SRAM offset of a RD or WR (R177, R178). -/
def tlSram (w : Word) : Nat := fld w 19 1 * 2 ^ 24 + fld w 16 3 * 2 ^ 21 + fld w 1 15 * 64

/-- The stack byte offset of a RD or WR (R178). -/
def tlByte (w : Word) : Nat :=
  let p := tlRow w * 16384 + tlBank w * 1024 + fld w 20 4 * 64
  (p / 256 * 128 + tlPc w) * 256 + p % 256

/-- Whether the fields that a command does not use are zero, and a window is not empty (R177); an OPEN with N = 0, which R177 does not
allow, raises the same cause 7 (DESIGN CHOICE, log 92). -/
def tlUnusedOk (w : Word) : Bool :=
  match tlCmd w with
  | 0 => fld w 47 7 == 0 && fld w 0 44 == 0
  | 7 => fld w 47 7 == 0 && fld w 0 44 == 0
  | 1 => fld w 0 24 == 0
  | 2 => fld w 0 1 == 0
  | 3 => fld w 0 1 == 0
  | 4 => fld w 0 40 == 0
  | 5 => fld w 0 39 == 0 && (tlPb w || tlBank w == 0)
  | _ => fld w 0 24 == 0 && tlBank w == 0 && tlRow w != 0

/-- Whether a command was given to a bank less than `d` cycles before w; kinds: 0 ACT, 1 PRE, 2 RD, 3 WR, 4 REF of a bank. -/
def PcState.within (p : PcState) (kind bank w d : Nat) : Bool :=
  match lookup? p.last (kind * 16 + bank) with
  | some c => decide (w + 1 < c + d)
  | none => false

/-- Banks of the same bank group as a bank, four to a group (PRESUMED, log 13). -/
def sameGroup (a b : Nat) : Bool := a / 4 == b / 4

/-- Whether some bank of the pseudo-channel breaks a pair of short and long distances for a command kind (R180). -/
def PcState.near (p : PcState) (kind bank w short long : Nat) : Bool :=
  (List.range 16).any fun b => p.within kind b w (if sameGroup b bank then long else short)

/-- Whether an all-bank refresh was given less than tRFC before w, or one of the bank less than tRFCpb before. -/
def PcState.refreshing (p : PcState) (bank w : Nat) : Bool :=
  p.within 4 bank w 480 ||
    (match lookup? p.last 80 with
     | some c => decide (w + 1 < c + 1050)
     | none => false)

/-- Whether a command breaks a timing rule of R180. -/
def PcState.tooSoon (p : PcState) (x : Word) (w : Nat) : Bool :=
  let b := tlBank x
  match tlCmd x with
  | 1 => p.within 1 b w 45 || p.within 0 b w 144 || p.near 0 b w 6 12 || p.refreshing b w ||
      (match p.acts[3]? with
       | some c => decide (w < c + 48)
       | none => false)
  | 2 => p.within 0 b w 45 || p.near 2 b w 6 12 || p.near 3 b w 9 24
  | 3 => p.within 0 b w 45 || p.near 3 b w 6 12 || ((List.range 16).any fun i => p.within 2 i w 18)
  | 4 => p.within 0 b w 99 || p.within 2 b w 9 || p.within 3 b w 48
  | 5 => if tlPb x then p.refreshing b w else (List.range 16).any fun i => p.refreshing i w
  | _ => false

/-- Whether a command meets a bank in the wrong state (R180). -/
def PcState.wrongBank (p : PcState) (x : Word) : Bool :=
  match tlCmd x with
  | 1 => hasKey p.rows (tlBank x)
  | 2 => lookup? p.rows (tlBank x) != some (tlRow x)
  | 3 => lookup? p.rows (tlBank x) != some (tlRow x)
  | 4 => !hasKey p.rows (tlBank x)
  | 5 => !p.rows.isEmpty
  | 6 => !p.rows.isEmpty
  | _ => false

/-- A row command: ACT, PRE, REF (R180). -/
def isRowCmd (c : Nat) : Bool := c == 1 || c == 4 || c == 5

/-- A column command: RD, WR (R180). -/
def isColCmd (c : Nat) : Bool := c == 2 || c == 3

/-- The refresh debt in sixteenths at cycle w of a segment that started at `start` (R180). -/
def PcState.debt (p : PcState) (start w : Nat) : Int :=
  let windows := p.winSum - (p.winEnd - w)
  16 * (((w - start - windows) / 11700 : Nat) : Int) - (p.refs : Int)

/-- Whether a refresh debt in sixteenths leaves -8 to 8 (R180). -/
def debtOut (d : Int) : Bool := decide (128 < d) || decide (d < -128)

/-- The lowest pseudo-channel whose refresh debt leaves -8 to 8 (R180). -/
def Timeline.debtFault (t : Timeline) (w : Nat) : Option Nat :=
  (List.range 128).find? fun i => debtOut ((lookupD PcState.reset t.pcs i).debt t.start w)

/-- A command's entry in the history of its pseudo-channel. -/
def PcState.note (p : PcState) (x : Word) (w : Nat) : PcState :=
  let b := tlBank x
  let put (kind : Nat) (q : PcState) : PcState := { q with last := putKey q.last (kind * 16 + b) (w + 1) }
  match tlCmd x with
  | 1 => put 0 { p with rows := putKey p.rows b (tlRow x), acts := (w :: p.acts).take 4, rowAt := w + 1 }
  | 2 => put 2 { p with colAt := w + 1 }
  | 3 => put 3 { p with colAt := w + 1 }
  | 4 => put 1 { p with rows := dropKey p.rows b, rowAt := w + 1 }
  | 5 =>
    if tlPb x then put 4 { p with refs := p.refs + 1, rowAt := w + 1 }
    else { p with refs := p.refs + 16, rowAt := w + 1, last := putKey p.last 80 (w + 1) }
  | 6 => { p with winEnd := w + tlRow x, winSum := p.winSum + tlRow x }
  | _ => p

/-- The CAUSE of the fault that a word acting at cycle w raises, with the pseudo-channel (R181, R192). `pool` is the first byte that no
RD or WR may reach (R178). The refresh debt is judged as it stands before the word, and for a REF also as the word leaves it (R180). -/
def Timeline.cause (t : Timeline) (x : Word) (w pool : Nat) : Option (Nat × Nat) :=
  let c := tlCmd x
  let p := lookupD PcState.reset t.pcs (tlPc x)
  let cmds := if t.cmdsAt = w then t.cmds else 0
  let command := c != 0 && c != 7
  if !tlUnusedOk x then some (7, tlPc x)
  else if c ≠ 7 ∧ w < t.start + 1152 then some (6, tlPc x)
  else if command && decide (w < p.winEnd) then some (6, tlPc x)
  else if p.wrongBank x then some (2, tlPc x)
  else if isColCmd c && decide (pool ≤ tlByte x + 63) then some (3, tlPc x)
  else if (isRowCmd c && p.rowAt == w + 1) || (isColCmd c && p.colAt == w + 1) || (command && decide (32 ≤ cmds)) then
    some (4, tlPc x)
  else if p.tooSoon x w then some (0, tlPc x)
  else
    match t.debtFault w with
    | some i => some (5, i)
    | none => if c == 5 && debtOut ((p.note x w).debt t.start w) then some (5, tlPc x) else none

/-- FADDR of a timeline fault (R192). -/
def tlFaddr (cause pc word cycle : Nat) : Word :=
  mkFld 60 4 cause ||| mkFld 53 7 pc ||| mkFld 32 21 word ||| mkFld 0 32 cycle

/-- Stop the running segment in cycle `now`: data already read still lands (R192, R193); no word of it acts, and from the next cycle on every
pseudo-channel is under dynamic control (R181). -/
def Coach.stopSegment (k : Coach) (now : Nat) : Coach :=
  { k with tl := { k.tl with running := false, hold := false, at_ := 0, freeAt := if k.tl.running then now + 1 else k.tl.freeAt } }

/-- The first byte that no RD or WR of a coach may reach: the reserved area, or the fast pool directly below it (R178). -/
def State.poolByte (s : State) (coach : Nat) : Nat := 70926258176 - s.poolSize (dieOf coach) (s.gangOf coach).tenant * 4096

/-- The effect of a word that passes its checks (R179). -/
def State.tlAct (s : State) (coach : Nat) (x : Word) : State :=
  let k := s.coach coach
  let t := k.tl
  let w := t.at_
  let c := tlCmd x
  let command := c != 0 && c != 7
  let pcs := if command then putKey t.pcs (tlPc x) ((lookupD PcState.reset t.pcs (tlPc x)).note x w) else t.pcs
  let cmds := (if t.cmdsAt = w then t.cmds else 0) + b2n command
  let next := s.tlWord coach (t.base + t.word + 1)
  let sram := Loc.sram coach (tlSram x)
  let row := Loc.hbm coach (tlByte x)
  let land :=
    if c = 2 then t.land ++ [(w + 96, t.core, tlSram x, s.mem.read row.key 64)]
    else if c = 3 then t.land ++ [(w, t.core, tlSram x, [])]
    else t.land
  let t1 : Timeline :=
    { t with pcs := pcs, cmds := cmds, cmdsAt := w, land := land, word := t.word + 1
             at_ := if c = 0 then w + 1 else w + tlDelta next, running := c != 0
             freeAt := if c = 0 then s.cyc + 1 else t.freeAt }
  let s1 := s.setCoach coach { k with tl := t1 }
  if c = 3 then { s1 with mem := s1.mem.write row.key (s1.mem.read sram.key 64) } else s1

/-- The bytes of a landing, with the places they go to (R179). -/
def landCells (coach : Nat) (l : Nat × Nat × Nat × List Byte) : List Host.Cell := cellsAt (Loc.sram coach l.2.2.1).key l.2.2.2

/-- LANDING_WRITE (R179, R184): units read 96 cycles before are written to their SRAM blocks, last among the timed writes of their cycle; what
they write over is kept for the copies of the cycle (R149). -/
def execLandingWrite (coach : Nat) (s : State) : Host.Outcome State Fault Refusal :=
  let k := s.coach coach
  let cells := (k.tl.land.filter fun l => decide (l.1 < k.tclk)).flatMap (landCells coach)
  .next { (s.setCoach coach
      { k with landed := (cells.map fun c => (c.1, s.mem.byte c.1)) ++ k.landed
               tl := { k.tl with land := k.tl.land.filter fun l => !decide (l.1 < k.tclk) } }) with
    mem := s.mem.writeCells cells }

/-! ## tl.run -/

/-- Whether a segment runs, or its END acted in the current TCLK cycle (R181, R193). -/
def Coach.segmentBusy (k : Coach) : Bool := k.tl.running || k.tl.at_ == k.tclk + 1

/-- `tl.run` (R181): an operand fault at enqueue for a segment at or above the directory count; at issue the segment starts, its first
word acts at t + DELTA. A segment that runs already has raised its fault when the cycle opened. -/
def execTlRun (seg : BitVec 16) (k : Option Cont) (s : State) : Host.Outcome State Fault Refusal :=
  match s.focus.cur with
  | none =>
    let operand (_ : List Word) : Except Flt Fields :=
      if s.tlCount (coachOf s.me) ≤ seg.toNat then .error (.at127 0x33 seg.toNat) else .ok {}
    .next (s.enqueue .l (.tlRun seg k) k [] s.plain operand none)
  | some _ =>
    let kc := coachOf s.me
    let x := s.coach kc
    let base := (s.tlWord kc (1 + seg.toNat)).toNat
    let t : Timeline :=
      { x.tl with running := true, core := s.me, start := x.tclk, base := base, word := 0
                  at_ := x.tclk + tlDelta (s.tlWord kc base), pcs := [], cmds := 0, cmdsAt := x.tclk }
    .next (s.setCoach kc { x with tl := t })

/-- The first word that breaks a rule in the issue cycle of a tl.run already: its CAUSE, pseudo-channel and index. A word with nonzero unused
fields raises cause 7, and any other word but NOP acts in the handover, cause 6 (R181, R192). -/
def State.earlyWord (s : State) (coach : Nat) : Nat → Nat → Nat → Option (Nat × Nat × Nat)
  | 0, _, _ => none
  | f + 1, base, i =>
    let x := s.tlWord coach (base + i)
    if tlDelta x ≠ 0 then none
    else if tlUnusedOk x = false then some (7, tlPc x, i)
    else if tlCmd x ≠ 7 then some (6, tlPc x, i)
    else s.earlyWord coach f base (i + 1)

end Sys2Proof.Machine
end

