-- ==== Sys2Proof/Machine/Matrix.lean ====
section
/-! DEFINITION. The matrix engine: format words, operand streams, tiles, tile commands, the softmax stage, readouts, and how an array drains (R206 to R209, R241 to R263). -/

namespace Sys2Proof.Machine

/-! ## Types (R246) -/

/-- RB: bytes of a row of 64 elements (R246, R199). -/
def rowBytes (t : Nat) : Nat :=
  match t with
  | 0x6 => 48
  | 0x7 => 32
  | t => 64 * typeBytes t

/-- CPR as cycles and rows: so many cycles for so many rows (R246). -/
def cadence (t : Nat) : Nat × Nat :=
  match t with
  | 0x0 => (8, 1) | 0x2 => (2, 1) | 0x3 => (1, 4) | 0x4 => (1, 4) | 0x6 => (1, 2) | 0x7 => (1, 4) | 0x8 => (48, 1)
  | _ => (1, 1)

/-- D: cycles from a row's entry to its plane row's write (R246). -/
def depthOf (t : Nat) : Nat :=
  match t with
  | 0x0 => 160 | 0x2 => 136 | 0x8 => 320
  | _ => 132

/-- The slower of two cadences (R254). -/
def slower (a b : Nat × Nat) : Nat × Nat := if a.1 * b.2 < b.1 * a.2 then b else a

/-- e_r relative to the issue: ⌊r × CPR⌋ (R246). -/
def entryAt (c : Nat × Nat) (r : Nat) : Nat := r * c.1 / c.2

/-- The length of a feed span: ⌈R × CPR⌉ (R246). -/
def feedSpan (c : Nat × Nat) (n : Nat) : Nat := (n * c.1 + c.2 - 1) / c.2

/-- The rows whose entry falls x cycles after the issue, among n rows. -/
def rowsAt (c : Nat × Nat) (n x : Nat) : List Nat :=
  let lo := (x * c.2 + c.1 - 1) / c.1
  let hi := ((x + 1) * c.2 + c.1 - 1) / c.1
  (span lo (hi - lo)).filter fun r => decide (r < n)

/-- How many of n rows have entered before a cycle x after the issue. -/
def rowsBefore (c : Nat × Nat) (n x : Nat) : Nat := Nat.min n ((x * c.2 + c.1 - 1) / c.1)

/-! ## Format words (R242 to R245) -/

/-- ATYPE of a format word (R242). -/
def fwA (w : Word) : Nat := fld w 0 4
/-- BTYPE of a format word (R242). -/
def fwB (w : Word) : Nat := fld w 4 4
/-- ACC of a format word: 0 FP32, 1 exact, 2 FP64 (R242). -/
def fwAcc (w : Word) : Nat := fld w 8 2
/-- ASOFF of a format word in bytes (R242). -/
def fwAs (w : Word) : Nat := fld w 32 16 * 64
/-- BSOFF of a format word in bytes (R242). -/
def fwBs (w : Word) : Nat := fld w 48 16 * 64

/-- Whether a word may be pushed (R242). -/
def fwPushOk (w : Word) : Bool := fld w 10 22 == 0 && fwAcc w != 3 && decide (fwA w ≤ 8) && decide (fwB w ≤ 8)

/-- The types of the two FP8 formats (R207). -/
def isFp8 (t : Nat) : Bool := t == 3 || t == 4

/-- Whether a mode accepts a pair of types (R207). -/
def comboOk (a b acc : Nat) : Bool :=
  match acc with
  | 0 => decide (a ≤ 7) && (a == b || (isFp8 a && isFp8 b))
  | 1 => decide (3 ≤ a) && decide (a ≤ 7) && (a == b || (isFp8 a && isFp8 b))
  | _ => a == 8 && b == 8

/-- Whether a plane fits a mode (R245). -/
def planeOk (acc c : Nat) : Bool :=
  match acc with
  | 0 => true
  | 1 => c == 0 || c == 4
  | _ => c % 2 == 0

/-- The untaken words of an array. -/
def Dat.fifo (d : Dat) (y : Bool) : List Word := if y then d.fifo1 else d.fifo0

/-- The taken words of an array. -/
def Dat.held (d : Dat) (y : Bool) : List Word := if y then d.held1 else d.held0

/-- A format-word fault (R261). -/
def fwFault (w : Word) : Flt := .at127 0x51 (fld w 0 48)

/-- Take the oldest untaken word of an array, check it, and hold it (R243, R245). -/
def State.takeWord (s : State) (y : Bool) (ok : Word → Bool) : Except Flt (Word × State) :=
  let d := s.mine
  match d.fifo y with
  | [] => .error (.at127 0x50 (b2n y))
  | w :: rest =>
    if ok w then
      .ok (w, s.setDat s.me (if y then { d with fifo1 := rest, held1 := d.held1 ++ [w] }
        else { d with fifo0 := rest, held0 := d.held0 ++ [w] }))
    else .error (fwFault w)

/-- Take one word as the captured state of a command. -/
def State.takeOne (s : State) (y : Bool) (ok : Word → Bool) : Except Flt (List Word × State) :=
  match s.takeWord y ok with
  | .ok (w, s1) => .ok ([w], s1)
  | .error f => .error f

/-- BTYPE of the last mld enqueued on an array (R245). -/
def Dat.bty (d : Dat) (y : Bool) : Nat := if y then d.bty1 else d.bty0

/-- A taken word leaves its FIFO when its command issues (R243); a command that a drain rewrote has given it up at its first issue
(R260). -/
def Dat.release (d : Dat) (y : Bool) (e : Entry) : Dat :=
  if e.part then d
  else if y then { d with held1 := d.held1.drop 1 } else { d with held0 := d.held0.drop 1 }

/-- `fmt.push` (R244): a format-word fault for a word that may not be pushed; else the word joins its array's FIFO. A handler fault in the
handler (R168). -/
def execFmtPush (a : Reg) (y : Bool) (s : State) : Host.Outcome State Fault Refusal :=
  .next (s.notInHandler fun s =>
    let w := s.reg a
    if fwPushOk w then
      let d := s.mine
      s.setDat s.me (if y then { d with fifo1 := d.fifo1 ++ [w] } else { d with fifo0 := d.fifo0 ++ [w] })
    else s.take (fwFault w))

/-! ## Memory operands (R247) -/

/-- The checks of R126 for a timed-local operand that must lie in the core's W block or its E block (R247). -/
def State.checkSide (s : State) (core map : Nat) (east write : Bool) (a : Word) (n : Nat) : Option (Nat × Nat) :=
  if 2 ^ 48 ≤ a.toNat then some (0x20, a.toNat)
  else
    let ps := s.parts (coachOf core) map a.toNat n
    let side (e : MapEntry) : Bool := e.blk == (idCore core + b2n east) % 8
    match firstAbsent ps with
    | some x => some (0x20, x)
    | none =>
      match firstBad (fun e => homeOk core .timedLocal e && side e) ps with
      | some x => some (0x21, x)
      | none =>
        match firstBad (ownerOk core) ps with
        | some x => some (0x22, x)
        | none => (firstBad (fun e => !write || e.perm == 3) ps).map fun x => (0x23, x)

/-- Bytes of a stream of n rows, in whole 64-byte units (R247). -/
def streamBytes (t n : Nat) : Nat := (n * rowBytes t + 63) / 64 * 64

/-- The checks of a stream of n rows in the W block, and of its scale bytes for an MX type (R247). -/
def State.streamOperand (s : State) (t n asoff : Nat) (a : Word) (f : Fields) : Except Flt Fields :=
  if a.toNat % 64 ≠ 0 then .error (.at127 0x33 (a.toNat % 2 ^ 48))
  else
    match s.checkSide s.me (s.mapNow s.me) false false a (streamBytes t n) with
    | some (code, x) => .error (.at127 code (x % 2 ^ 48))
    | none =>
      let sc := a + BitVec.ofNat 64 asoff
      if isMx t then orFault (s.checkSide s.me (s.mapNow s.me) false false sc (n * 2)) { f with v0 := a, v1 := sc }
      else .ok { f with v0 := a }

/-! ## Values of rows and tiles -/

/-- The 64 elements of a row of a type, with the scale byte of each (R198, R199). -/
def rowVals (t : Nat) (bs : List Byte) (scale : Nat → Nat) : List Val :=
  if isMx t then
    let n := natOfBytes bs
    (List.range 64).map fun k => mxUnpack t (bitsAt (mxBits t) k n) (scale k)
  else (elemsOf (typeBytes t) 64 bs).map (decodeT t)

/-- A byte of a list as a number. -/
def byteAt (bs : List Byte) (i : Nat) : Nat := (nthD 0 bs i).toNat

/-- Row r of an A stream: its scales are bytes 2r and 2r + 1 (R247). -/
def streamRow (t : Nat) (bs sc : List Byte) (r : Nat) : List Val :=
  rowVals t ((bs.drop (r * rowBytes t)).take (rowBytes t)) fun k => byteAt sc (2 * r + k / 32)

/-- The rows of a tile: element (k, j) takes scale byte (k div 32) × 64 + j (R247). Missing bytes are +0 (R241). -/
def Tile.rows (t : Tile) : List (List Val) :=
  (List.range 64).map fun k =>
    let rb := rowBytes t.btype
    let bs := (t.bytes.drop (k * rb)).take rb
    rowVals t.btype (bs ++ List.replicate (rb - bs.length) 0) fun j => byteAt t.scales (k / 32 * 64 + j)

/-- The rounded products of one element of A with a row of B (R208). -/
def products (a : Val) (b : List Val) : List Nat := b.map fun y => fp32.round .rne (a.mul y)

/-- s of R208 for every column: the rounded products summed down the columns, each addition rounded. -/
def colSums (a : List Val) (b : List (List Val)) : List Nat :=
  match a.zip b with
  | [] => []
  | (x, r) :: rest => rest.foldl (fun acc p => List.zipWith fp32.add acc (products p.1 p.2)) (products x r)

/-- The FP64 chain of R209 for every column, from the cells' values. -/
def chain64 (a : List Val) (b : List (List Val)) (old : List Nat) : List Nat :=
  (a.zip b).foldl (fun acc p => List.zipWith (fun c y => fp64.round .rne (Val.fma .rne p.1 y (fp64.decode c))) acc p.2) old

/-- The bound at which exact cells saturate, 2^95 - 1 (R209). -/
def exactTop : Int := 2 ^ 95 - 1

/-- One step of exact mode: a NaN marks the cell, a saturated cell holds, else the product is added in units of 2^-48 (R209). -/
def exactStep (m : Int) (p : Val) : Int :=
  if m = -(2 ^ 95) ∨ p = .nan then -(2 ^ 95)
  else if m = exactTop ∨ m = -exactTop then m
  else
    match p with
    | .inf n => if n then -exactTop else exactTop
    | p => min (max (m + (p.scale 48).toInt .rne) (-exactTop)) exactTop

/-- The exact chain of R209 for every column, from the cells' values. -/
def chainExact (a : List Val) (b : List (List Val)) (old : List Int) : List Int :=
  (a.zip b).foldl (fun acc p => List.zipWith (fun m y => exactStep m (p.1.mul y)) acc p.2) old

/-! ## Planes -/

/-- The key of a plane cell. -/
def planeKey (p r j : Nat) : Nat := p * 4096 + r * 64 + j

/-- A row of a plane as numbers. -/
def Dat.planeRow (d : Dat) (p r : Nat) : List Nat := (List.range 64).map fun j => (d.plane.get (planeKey p r j)).toNat

/-- Write a row of a plane. -/
def Dat.setPlaneRow (d : Dat) (p r : Nat) (xs : List Nat) : Dat :=
  { d with plane := d.plane.puts (((List.range 64).zip xs).map fun x => (planeKey p r x.1, BitVec.ofNat 32 x.2)) }

/-- A row of an FP64 pair: the even plane holds bits 31:0 (R207). -/
def Dat.pairRow (d : Dat) (p r : Nat) : List Nat :=
  List.zipWith (fun lo hi => lo + 2 ^ 32 * hi) (d.planeRow p r) (d.planeRow (p + 1) r)

/-- Write a row of an FP64 pair. -/
def Dat.setPairRow (d : Dat) (p r : Nat) (xs : List Nat) : Dat :=
  (d.setPlaneRow p r (xs.map (· % 2 ^ 32))).setPlaneRow (p + 1) r (xs.map (· / 2 ^ 32))

/-- A row of an exact triple: M, two's complement of 96 bits (R209). -/
def Dat.exactRow (d : Dat) (p r : Nat) : List Int :=
  (List.zipWith (fun x hi => x + 2 ^ 64 * hi) (d.pairRow p r) (d.planeRow (p + 2) r)).map (sInt 96)

/-- Write a row of an exact triple. -/
def Dat.setExactRow (d : Dat) (p r : Nat) (ms : List Int) : Dat :=
  let us := ms.map (uPat 96)
  (d.setPairRow p r (us.map (· % 2 ^ 64))).setPlaneRow (p + 2) r (us.map (· / 2 ^ 64))

/-- rmx of a plane row: minus infinity stands as zero in the table (R241). -/
def Dat.rmx (d : Dat) (p : Nat) : Nat := (d.rmxX.get p ^^^ 0xFF800000).toNat

/-- Write rmx of a plane row. -/
def Dat.setRmx (d : Dat) (p x : Nat) : Dat := { d with rmxX := d.rmxX.put p (BitVec.ofNat 32 x ^^^ 0xFF800000) }

/-- rsm of a plane row. -/
def Dat.rsmAt (d : Dat) (p : Nat) : Nat := (d.rsm.get p).toNat

/-- Write rsm of a plane row. -/
def Dat.setRsm (d : Dat) (p x : Nat) : Dat := { d with rsm := d.rsm.put p (BitVec.ofNat 32 x) }

/-- Accumulate one row into a plane, a pair or a triple; `fresh` starts from -0, or M = 0 (R251). The old value is that of the start of
the cycle, after its clears (R258, R263). -/
def Dat.accumulate (start d : Dat) (acc plane row : Nat) (fresh : Bool) (a : List Val) (b : List (List Val)) : Dat :=
  match acc with
  | 0 =>
    let old := if fresh then List.replicate 64 0x80000000 else start.planeRow plane row
    d.setPlaneRow plane row (List.zipWith fp32.add old (colSums a b))
  | 1 =>
    let old := if fresh then List.replicate 64 0 else start.exactRow plane row
    d.setExactRow plane row (chainExact a b old)
  | _ =>
    let old := if fresh then List.replicate 64 (2 ^ 63) else start.pairRow plane row
    d.setPairRow plane row (chain64 a b old)

/-! ## Tiles (R248) -/

/-- Swap an array's tiles when a ready back tile has not been consumed (R248). A command that a drain rewrote goes on with the tile it
took (R260; DEDUCED, log 15). -/
def Dat.swap (d : Dat) (arr : Nat) (e : Entry) : Dat :=
  let front := nthD Tile.reset d.tiles (2 * arr)
  let back := nthD Tile.reset d.tiles (2 * arr + 1)
  if back.ready && !e.part then
    { d with tiles := setNth (setNth d.tiles (2 * arr) { back with ready := false }) (2 * arr + 1) { front with ready := false } }
  else d

/-- The front tile of an array. -/
def Dat.front (d : Dat) (arr : Nat) : Tile := nthD Tile.reset d.tiles (2 * arr)

/-- Start an issued M command with its tiles. -/
def State.startFeed (s : State) (e : Entry) (last : Nat) (tile tile2 : Option Tile) (src : Option (Nat × Nat)) : State :=
  (s.startRun .m e last []).mapLast fun r => { r with tile := tile, tile2 := tile2, src := src }

/-! ## mld (R250) -/

/-- TL of a load: the cycles of its reads (R250). -/
def loadCycles (t : Nat) : Nat := rowBytes t / 2 + b2n (isMx t)

/-- What an issued mld does in its cycle k: two units of the tile, then the scale units; the back tile is written in the cycle after the
last read (R248, R250). -/
def State.mldRow (s : State) (core : Nat) (y : Bool) (r : Run) : Run :=
  let t := fwB (nthD 0 r.e.cap 0)
  let rb := rowBytes t
  if r.k < rb / 2 then
    { r with data := r.data ++ s.ctxBytes (coachOf core) r.e.map r.e.ver (r.e.v0.toNat + 128 * r.k) 128 }
  else if r.k = rb / 2 ∧ isMx t = true then
    { r with data2 := s.ctxBytes (coachOf core) r.e.map r.e.ver r.e.v1.toNat 128 }
  else if r.k = loadCycles t then
    { r with wr := [(r.k, .tile (b2n y) { bytes := r.data, scales := r.data2, btype := t, ready := true })] }
  else r

/-- `mld` (R250). -/
def execMld (y : Bool) (b : Reg) (k : Option Cont) (s : State) : Host.Outcome State Fault Refusal :=
  match s.focus.cur with
  | none =>
    let a := s.reg b
    let operand (cap : List Word) : Except Flt Fields :=
      let w := nthD 0 cap 0
      let sc := a + BitVec.ofNat 64 (fwBs w)
      if a.toNat % 64 ≠ 0 then .error (.at127 0x33 (a.toNat % 2 ^ 48))
      else
        match s.checkSide s.me (s.mapNow s.me) true false a (64 * rowBytes (fwB w)) with
        | some (code, x) => .error (.at127 code (x % 2 ^ 48))
        | none =>
          if isMx (fwB w) then orFault (s.checkSide s.me (s.mapNow s.me) true false sc 128) { v0 := a, v1 := sc }
          else .ok { v0 := a }
    let capture : Except Flt (List Word × State) :=
      match s.takeOne y fun w => decide (fwB w ≤ 8) with
      | .ok (cap, s1) =>
        let d := s1.mine
        .ok (cap, s1.setDat s1.me (if y then { d with bty1 := fwB (nthD 0 cap 0) } else { d with bty0 := fwB (nthD 0 cap 0) }))
      | .error f => .error f
    .next (s.enqueue .m (.mld y b k) k [] capture operand none)
  | some e =>
    let tl := loadCycles (fwB (nthD 0 e.cap 0))
    let s1 := s.setDat s.me (s.mine.release y e)
    .next ((s1.startRun .m e tl []).mapLast fun r => s1.mldRow s.me y { r with push := tl - 1 })

/-! ## Tile commands (R251, R252) -/

/-- The units of an A stream of a type that are read in cycle k, as first and number: unit u at ⌊64u × CPR ÷ RB⌋ (R247). -/
def streamUnits (t n : Nat) (c : Nat × Nat) (k : Nat) : Nat × Nat :=
  let rb := rowBytes t
  let units := (n * rb + 63) / 64
  let first (x : Nat) : Nat := Nat.min units ((x * c.2 * rb + 64 * c.1 - 1) / (64 * c.1))
  (first k, first (k + 1) - first k)

/-- The scale units of an A stream that are read in cycle k: unit v at e_(32v) (R247). -/
def scaleUnits (n : Nat) (c : Nat × Nat) (k : Nat) : List Nat :=
  (List.range ((2 * n + 63) / 64)).filter fun v => entryAt c (32 * v) == k

/-- What reading an A stream of a type adds in cycle k (R247). -/
def State.streamRead (s : State) (core t n : Nat) (c : Nat × Nat) (mx : Bool) (r : Run) : Run :=
  let u := streamUnits t n c r.k
  let r1 : Run :=
    { r with data := r.data ++ s.ctxBytes (coachOf core) r.e.map r.e.ver (r.e.v0.toNat + 64 * u.1) (64 * u.2) }
  let more := (if mx then scaleUnits n c r.k else []).flatMap fun v =>
    s.ctxBytes (coachOf core) r.e.map r.e.ver (r.e.v1.toNat + 64 * v) (Nat.min 64 (2 * n - 64 * v))
  { r1 with data2 := r1.data2 ++ more }

/-- A follower takes the bytes its feeder has read so far (R252). -/
def State.followRead (s : State) (r : Run) : Run :=
  match r.src with
  | none => r
  | some (c, id) =>
    match (s.eng c).run.find? fun x => x.e.id == id with
    | some f => { r with data := f.data, data2 := f.data2 }
    | none => r

/-- The plane, mode and start flag of an accumulating command of the M queue that is not mattn. -/
def accTarget (e : Entry) : Option (Nat × Nat × Bool) :=
  let w := nthD 0 e.cap 0
  match e.ins with
  | .mmul z c _ _ _ _ => some (fwAcc w, c.toNat, z)
  | .mmulCh z c _ _ _ _ => some (fwAcc w, c.toNat, z)
  | .mmulCf _ z c _ _ _ => some (fwAcc w, c.toNat, z)
  | _ => none

/-- The plane rows that an issued tile command writes in its current cycle; `start` is the data at the start of the cycle, after
its clears (R251, R258, R263). -/
def accumRun (start d : Dat) (r : Run) : Dat :=
  match accTarget r.e with
  | none => d
  | some (acc, plane, z) =>
    let t := fwA (nthD 0 r.e.cap 0)
    if r.k < depthOf t then d
    else
      let b := (r.tile.getD Tile.reset).rows
      (rowsAt (cadence t) r.e.rem (r.k - depthOf t)).foldl (fun d i =>
        start.accumulate d acc plane ((r.e.p0 + i) % 64) (z && decide (i < r.e.zr)) (streamRow t r.data r.data2 i) b) d

/-- The last cycle of a tile command of n rows: the write of its last row (R251). -/
def tileLast (t n : Nat) : Nat := entryAt (cadence t) (n - 1) + depthOf t

/-- The condition on the format word of a tile command (R245). -/
def tileWordOk (d : Dat) (c : BitVec 3) (y : Bool) (w : Word) : Bool :=
  comboOk (fwA w) (fwB w) (fwAcc w) && fwB w == d.bty y && planeOk (fwAcc w) c.toNat

/-- Enqueue a tile command that reads a stream (R251). `chain` is whether it may not run here: mmul.ch on core 7 or in token mode
(R252). -/
def State.enqueueTile (s : State) (ins : Instr) (c : BitVec 3) (y : Bool) (a : Reg) (n : BitVec 10) (k : Option Cont) (chain : Bool) :
    State :=
  let rows := n.toNat + 1
  let operand (cap : List Word) : Except Flt Fields :=
    if chain then .error (.at127 0x33 0)
    else s.streamOperand (fwA (nthD 0 cap 0)) rows (fwAs (nthD 0 cap 0)) (s.reg a) { rem := rows, zr := 64 }
  s.enqueue .m ins k [] (s.takeOne y (tileWordOk s.mine c y)) operand none

/-- Issue a tile command that reads a stream: the tile is taken, the first units are read (R248, R251). -/
def State.issueTile (s : State) (e : Entry) (y : Bool) : State :=
  let t := fwA (nthD 0 e.cap 0)
  let d := (s.mine.release y e).swap (b2n y) e
  let s1 := s.setDat s.me d
  (s1.startFeed e (tileLast t e.rem) (some (d.front (b2n y))) none none).mapLast
    (s1.streamRead s.me t e.rem (cadence t) (isMx t))

/-- `mmul` (R251). -/
def execMmul (z : Bool) (c : BitVec 3) (y : Bool) (a : Reg) (n : BitVec 10) (k : Option Cont) (s : State) :
    Host.Outcome State Fault Refusal :=
  match s.focus.cur with
  | none => .next (s.enqueueTile (.mmul z c y a n k) c y a n k false)
  | some e => .next (s.issueTile e y)

/-- `mmul.ch` (R252): as mmul, forwarding its rows; an operand fault on core 7 and in token mode. -/
def execMmulCh (z : Bool) (c : BitVec 3) (y : Bool) (a : Reg) (n : BitVec 10) (k : Option Cont) (s : State) :
    Host.Outcome State Fault Refusal :=
  match s.focus.cur with
  | none =>
    .next (s.enqueueTile (.mmulCh z c y a n k) c y a n k (idCore s.me == 7 || s.tokenMode s.me))
  | some e => .next (s.issueTile e y)

/-- Whether a command forwards its rows (R252). -/
def forwards (e : Entry) : Bool :=
  match e.ins with
  | .mmulCh .. => true
  | .mmulCf f _ _ _ _ _ => f
  | _ => false

/-- The feeder of a follower that would issue now: the forwarding command that issued on the west core two cycles before, with the same
n and ATYPE (R252). -/
def State.feeder (s : State) (core : Nat) (e : Entry) : Option Run :=
  if idCore core = 0 then none
  else
    (s.eng (core - 1)).run.find? fun r =>
      r.q == .m && r.k == 2 && forwards r.e && r.e.rem == e.rem && fwA (nthD 0 r.e.cap 0) == fwA (nthD 0 e.cap 0)

/-- `mmul.cf` (R252): its rows come from the west neighbour; an operand fault on core 0, with .fwd on core 7, and in token mode. -/
def execMmulCf (f z : Bool) (c : BitVec 3) (y : Bool) (n : BitVec 10) (k : Option Cont) (s : State) :
    Host.Outcome State Fault Refusal :=
  match s.focus.cur with
  | none =>
    let operand (_ : List Word) : Except Flt Fields :=
      if idCore s.me = 0 ∨ (f = true ∧ idCore s.me = 7) ∨ s.tokenMode s.me = true then .error (.at127 0x33 0)
      else .ok { rem := n.toNat + 1, zr := 64 }
    .next (s.enqueue .m (.mmulCf f z c y n k) k [] (s.takeOne y (tileWordOk s.mine c y)) operand none)
  | some e =>
    let t := fwA (nthD 0 e.cap 0)
    let d := (s.mine.release y e).swap (b2n y) e
    let s1 := s.setDat s.me d
    let src := (s.feeder s.me e).map fun r => (s.me - 1, r.e.id)
    .next ((s1.startFeed e (tileLast t e.rem) (some (d.front (b2n y))) none src).mapLast s1.followRead)

/-! ## mclr (R253) -/

/-- The clear of a plane, triple or pair row: every cell +0, or M = 0 (R253). -/
def Dat.clearRows (d : Dat) (mode plane : Nat) (rows : List Nat) : Dat :=
  let planes := span plane (match mode with
    | 1 => 3
    | 2 => 2
    | _ => 1)
  { d with plane := d.plane.filter fun c => !(planes.contains (c.1 / 4096) && rows.contains (c.1 % 4096 / 64)) }

/-- rmx := -∞ of the rows below n (R253). -/
def Dat.clearRmx (d : Dat) (n : Nat) : Dat := { d with rmxX := d.rmxX.filter fun c => !decide (c.1 < n) }

/-- rsm := +0 of the rows below n (R253). -/
def Dat.clearRsm (d : Dat) (n : Nat) : Dat := { d with rsm := d.rsm.filter fun c => !decide (c.1 < n) }

/-- What an issued mclr clears, at t + 1 (R253). -/
def mclrRun (d : Dat) (r : Run) : Dat :=
  match r.e.ins with
  | .mclr m c _ n _ =>
    if r.k = 1 then
      if m = 3 then (d.clearRmx (n.toNat + 1)).clearRsm (n.toNat + 1)
      else d.clearRows m.toNat c.toNat (List.range (n.toNat + 1))
    else d
  | _ => d

/-- `mclr` (R253). -/
def execMclr (m : BitVec 2) (c : BitVec 3) (y : Bool) (n : BitVec 6) (k : Option Cont) (s : State) :
    Host.Outcome State Fault Refusal :=
  match s.focus.cur with
  | none => .next (s.enqueue .m (.mclr m c y n k) k [] s.plain noOperand none)
  | some e => .next (s.startRun .m e 1 [])

/-! ## mattn (R254) -/

/-- DL, DT and CPR of a mattn by its two format words (R254). -/
def attnShape (e : Entry) : Nat × Nat × (Nat × Nat) :=
  let a := fwA (nthD 0 e.cap 0)
  let b := fwA (nthD 0 e.cap 1)
  (depthOf a, depthOf b, slower (cadence a) (cadence b))

/-- Minus infinity in FP32. -/
def negInf32 : Nat := 0xFF800000

/-- The result of the softmax stage for one row: the new rmx and rsm, P, f, whether the row is bad, and whether mo was -∞ (R254). -/
structure Soft where
  mx : Nat
  sm : Nat
  p : List Nat
  f : Nat
  bad : Bool
  first : Bool
  deriving DecidableEq, Repr

/-- The softmax stage (R254): scores, old maximum, old sum, trail type. -/
def softStage (sc : List Nat) (mo lo tt : Nat) : Soft :=
  let m := fp32.round .rne (Val.fmax (fp32.decode mo) (treeReduce Val.fmax .nan 6 (sc.map fp32.decode)))
  let mv := fp32.decode m
  let first := mo == negInf32
  if nanOrTop mv then { mx := fp32.nanEnc, sm := fp32.nanEnc, p := sc.map fun _ => 0, f := 0, bad := true, first := first }
  else
    let p := if m = negInf32 then sc.map fun _ => 0
      else sc.map fun x =>
        if x = negInf32 then 0 else roundT tt .rne (Val.exp2 (fp32.decode (fp32.add x (fp32.neg m))))
    let f := if m = negInf32 then 0x3F800000
      else if first then 0 else fp32.round .rne (Val.exp2 (Val.add .rne (fp32.decode mo) mv.negate))
    let lo := if first then 0 else lo
    let sum := treeReduce fp32.add 0 6 (p.map fun x => fp32.round .rne (decodeT tt x))
    { mx := m, sm := fp32.fma lo f sum, p := p, f := f, bad := false, first := first }

/-- The scores of a row of mattn: column sums of the Q row, -∞ for the invalid keys (R254). -/
def attnScores (r : Run) (i : Nat) : List Nat :=
  let t := fwA (nthD 0 r.e.cap 0)
  let s := colSums (streamRow t (r.data.drop 8) r.data2 i) (r.tile.getD Tile.reset).rows
  ((List.range 64).zip s).map fun p => if r.mask.getLsbD p.1 then p.2 else negInf32

/-- The softmax-stage writes of an issued mattn in its current cycle, with the trail rows they lead to (R254). -/
def softRun (start d : Dat) (r : Run) : Dat × Run :=
  match r.e.ins with
  | .mattn z _ _ _ _ =>
    let (dl, dt, c) := attnShape r.e
    if r.k < dl + 12 then (d, r)
    else
      (rowsAt c r.e.rem (r.k - dl - 12)).foldl (fun (x : Dat × Run) i =>
        let p := (r.e.p0 + i) % 64
        let mo := if z && decide (i < r.e.zr) then negInf32 else start.rmx p
        let o := softStage (attnScores r i) mo (start.rsmAt p) (fwA (nthD 0 r.e.cap 1))
        let w : Nat × WEff := (r.k + dt, .trail p (o.p.map (BitVec.ofNat 32)) (BitVec.ofNat 32 o.f) o.bad o.first)
        ((x.1.setRmx p o.mx).setRsm p o.sm, { x.2 with wr := x.2.wr ++ [w] })) (d, r)
  | _ => (d, r)

/-- The trail writes of an issued mattn in its current cycle (R254). -/
def trailRun (start d : Dat) (r : Run) : Dat :=
  match r.e.ins with
  | .mattn _ c _ _ _ =>
    let plane := 4 + c.toNat
    let tt := fwA (nthD 0 r.e.cap 1)
    r.wr.foldl (fun d w =>
      match w with
      | (x, .trail p ps f bad first) =>
        if x ≠ r.k then d
        else if bad then d.setPlaneRow plane p (List.replicate 64 fp32.nanEnc)
        else
          let o := colSums (ps.map fun y => decodeT tt (y.toNat % 2 ^ (8 * typeBytes tt))) (r.tile2.getD Tile.reset).rows
          let old := if first then List.replicate 64 0 else start.planeRow plane p
          d.setPlaneRow plane p (List.zipWith (fun a b => fp32.fma a f.toNat b) old o)
      | _ => d) d
  | _ => d

/-- What an issued mattn reads in its cycle k: the Q stream, at the command's cadence (R247, R254). -/
def State.attnRead (s : State) (core : Nat) (r : Run) : Run :=
  let t := fwA (nthD 0 r.e.cap 0)
  let m := r.data.take 8
  let r1 := s.streamRead core t r.e.rem (attnShape r.e).2.2 (isMx t) { r with data := r.data.drop 8 }
  { r1 with data := m ++ r1.data }

/-- The condition on the lead word of mattn (R245). Like the trail word it need not give the type of the tile; the bytes of a tile are read in
the type that its mld gave them (DESIGN CHOICE, log 93). -/
def attnLeadOk (w : Word) : Bool := fwAcc w == 0 && comboOk (fwA w) (fwB w) 0
/-- The condition on the trail word of mattn (R245). -/
def attnTrailOk (w : Word) : Bool := fwAcc w == 0 && decide (fwA w ≤ 4) && comboOk (fwA w) (fwB w) 0

/-- The last cycle of a mattn of n rows (R254). -/
def attnLast (e : Entry) (n : Nat) : Nat :=
  let (dl, dt, c) := attnShape e
  entryAt c (n - 1) + dl + 12 + dt

/-- `mattn` (R254). -/
def execMattn (z : Bool) (c : BitVec 2) (a : Reg) (n : BitVec 6) (k : Option Cont) (s : State) :
    Host.Outcome State Fault Refusal :=
  match s.focus.cur with
  | none =>
    let rows := n.toNat + 1
    let capture : Except Flt (List Word × State) :=
      match s.takeWord false attnLeadOk with
      | .error f => .error f
      | .ok (w0, s1) =>
        match s1.takeWord true attnTrailOk with
        | .error f => .error f
        | .ok (w1, s2) => .ok ([w0, w1], s2)
    let operand (cap : List Word) : Except Flt Fields :=
      s.streamOperand (fwA (nthD 0 cap 0)) rows (fwAs (nthD 0 cap 0)) (s.reg a) { rem := rows, zr := 64 }
    .next (s.enqueue .m (.mattn z c a n k) k [] capture operand none)
  | some e =>
    let d := (((s.mine.release false e).release true e).swap 0 e).swap 1 e
    let s1 := s.setDat s.me d
    let mask := bytesOf 8 (s.vmask k).toNat
    .next ((s1.startFeed e (attnLast e e.rem) (some (d.front 0)) (some (d.front 1)) none).mapLast fun r =>
      s1.attnRead s.me { r with data := mask })

/-! ## mresc (R255) -/

/-- One row of mresc; `start` is the data at the start of the cycle, after its clears (R255, R258). -/
def Dat.rescale (start d : Dat) (plane p x : Nat) : Dat :=
  let mo := start.rmx p
  let mv := Val.fmax (fp32.decode mo) (fp32.decode x)
  let m := fp32.round .rne mv
  if nanOrTop mv then
    ((d.setRmx p fp32.nanEnc).setRsm p fp32.nanEnc).setPlaneRow plane p (List.replicate 64 fp32.nanEnc)
  else if m = negInf32 then d
  else if mo = negInf32 then ((d.setPlaneRow plane p (List.replicate 64 0)).setRsm p 0).setRmx p m
  else
    let f := fp32.round .rne (Val.exp2 (Val.add .rne (fp32.decode mo) mv.negate))
    ((d.setPlaneRow plane p ((start.planeRow plane p).map fun c => fp32.mul c f)).setRsm p (fp32.mul (start.rsmAt p) f)).setRmx p m

/-- The row that an issued mresc writes in its current cycle (R255). -/
def rescRun (start d : Dat) (r : Run) : Dat :=
  match r.e.ins with
  | .mresc c _ _ n _ =>
    if 5 ≤ r.k ∧ r.k - 5 ≤ n.toNat then
      start.rescale d c.toNat (r.k - 5) (natOfBytes ((r.data.drop (4 * (r.k - 5))).take 4))
    else d
  | _ => d

/-- `mresc` (R255). -/
def execMresc (c : BitVec 3) (y : Bool) (x : GridOp) (n : BitVec 6) (k : Option Cont) (s : State) :
    Host.Outcome State Fault Refusal :=
  match s.focus.cur with
  | none => .next (s.enqueue .m (.mresc c y x n k) k [x] s.plain noOperand none)
  | some e =>
    .next ((s.startRun .m e (5 + n.toNat) []).mapLast fun r => { r with data := lineBytes (readLine s.mine x) })

/-! ## Readout (R256 to R259) -/

/-- SRC of a readout descriptor. -/
def mrcSrc (w : Word) : Nat := fld w 28 4
/-- NRM1 of a readout descriptor. -/
def mrcRows (w : Word) : Nat := fld w 16 6 + 1
/-- OTYPE of a readout descriptor. -/
def mrcType (w : Word) : Nat := fld w 12 4
/-- DEST of a readout descriptor. -/
def mrcSram (w : Word) : Bool := flag w 9

/-- Whether a descriptor passes the checks at enqueue (R256, R257). -/
def mrcOk (w : Word) (g : BitVec 8) (b : Reg) (o : BitVec 11) : Bool :=
  fld w 32 32 == 0 && fld w 0 3 == 0 && decide (mrcType w ≤ 10) && !isMx (mrcType w) &&
    !(decide (14 ≤ mrcSrc w) && fld w 16 12 != 0) &&
    (if mrcSram w then g == 0 else b == 0 && o == 0)

/-- The value that a saturated exact cell reads as: beyond the largest finite value of every format, so that R202 decides (R209;
DEDUCED, log 14). -/
def beyond (neg : Bool) : Val := .fin neg 1 5000

/-- The value of an exact cell (R209). -/
def exactVal (m : Int) : Val :=
  if m = -(2 ^ 95) then .nan
  else if m = exactTop then beyond false
  else if m = -exactTop then beyond true
  else (Val.ofInt m).scale (-48)

/-- The row values of a readout source (R257). -/
def Dat.readRow (d : Dat) (src q : Nat) : List Val :=
  if src < 8 then (d.planeRow src q).map fp32.decode
  else if src < 10 then (d.exactRow (4 * (src - 8)) q).map exactVal
  else if src < 14 then (d.pairRow (2 * (src - 10)) q).map fp64.decode
  else if src = 14 then (List.range 64).map fun p => fp32.decode (d.rmx p)
  else (List.range 64).map fun p => fp32.decode (d.rsmAt p)

/-- The clear of CLR: of the row read as by mclr of its kind, or of all of rmx or rsm (R256). -/
def Dat.clearRead (d : Dat) (src q : Nat) : Dat :=
  if src < 8 then d.clearRows 0 src [q]
  else if src < 10 then d.clearRows 1 (4 * (src - 8)) [q]
  else if src < 14 then d.clearRows 2 (2 * (src - 10)) [q]
  else if src = 14 then d.clearRmx 64
  else d.clearRsm 64

/-- RC: cycles per row (R257). -/
def mrcStep (w : Word) : Nat := if mrcType w = 8 then 2 else 1

/-- OB: bytes of an output row (R257). -/
def mrcBytes (w : Word) : Nat := 64 * typeBytes (mrcType w)

/-- The completion cycle W of a readout relative to its issue (R257). -/
def mrdLast (w : Word) : Nat := 4 + mrcStep w * (mrcRows w - 1) + b2n (mrcSram w && mrcType w == 8)

/-- The row index that a readout reads in its cycle k, if any (R257). -/
def mrdRow? (w : Word) (k : Nat) : Option Nat :=
  if k % mrcStep w = 0 ∧ k / mrcStep w < mrcRows w then some (k / mrcStep w) else none

/-- The SRAM writes of output row i: its units at t + 4 + RC × i, the second four of FP64 a cycle later (R257). -/
def State.mrdSram (s : State) (core : Nat) (r : Run) (w : Word) (i : Nat) (out : List Byte) : List (Nat × WEff) :=
  let piece (at_ o n : Nat) : Nat × WEff :=
    let a := r.e.v0.toNat + i * mrcBytes w + o
    let ps := s.parts (coachOf core) r.e.map a n
    let cells := s.ctxCells (coachOf core) r.e.ver ps ((out.drop o).take n)
    let keep := ((List.range n).zip cells).filterMap fun p =>
      if r.mask.getLsbD ((i * mrcBytes w + o + p.1) % 256 / 4) then some p.2 else none
    (at_, .mem keep (s.partUnits (coachOf core) r.e.ver ps))
  if mrcType w = 8 then [piece (r.k + 4) 0 256, piece (r.k + 5) 256 256] else [piece (r.k + 4) 0 (mrcBytes w)]

/-- The grid writes of the lines whose last row is output row i (R257). -/
def mrdGrid (r : Run) (w : Word) (g : GridOp) (i : Nat) (image : List Byte) : List (Nat × WEff) :=
  let ob := mrcBytes w
  let done := if i + 1 = mrcRows w then ((i + 1) * ob + 255) / 256 else (i + 1) * ob / 256
  let before := i * ob / 256
  (span before (done - before)).map fun l =>
    let bs := (image.drop (256 * l)).take 256
    (r.k + 4, .grid (lineWrites (gridNext g l) r.mask (cellsOf (bs.length / 4) bs)))

/-- The running maximum of magnitudes over the enabled cells of a row (R259). -/
def amaxRow (w mask : Word) (i : Nat) (vs : List Val) (a : Val) : Val :=
  ((List.range 64).zip vs).foldl (fun a p =>
    if mask.getLsbD ((i * mrcBytes w + p.1 * typeBytes (mrcType w)) % 256 / 4) then
      Val.fmax a (fp32.decode (fp32.round .rne p.2)).abs
    else a) a

/-- What an issued readout does in its cycle k: it reads a row and forms the writes of its output (R257, R259). `data` holds the mask and
the image, `data2` the running maximum. -/
def State.mrdRead (s : State) (core : Nat) (g : GridOp) (r : Run) : Run :=
  let w := nthD 0 r.e.cap 0
  match mrdRow? w r.k with
  | none => r
  | some i =>
    let vs := (s.dat core).readRow (mrcSrc w) ((fld w 22 6 + i) % 64)
    let out := vs.flatMap fun v => bytesOf (typeBytes (mrcType w)) (roundT (mrcType w) (Rm.ofBits (BitVec.ofNat 2 (fld w 10 2))) v)
    let image := r.data.drop 8 ++ out
    let a := amaxRow w r.mask i vs (if i = 0 then .fin false 0 0 else fp32.decode (natOfBytes r.data2))
    let ws := if mrcSram w then s.mrdSram core r w i out else mrdGrid r w g i image
    let am : List (Nat × WEff) :=
      if flag w 7 && i + 1 == mrcRows w then
        [(mrdLast w, .amax (fld w 3 3) (BitVec.ofNat 32 (fp32.round .rne a)) (flag w 6))]
      else []
    { r with data := r.data ++ out, data2 := bytesOf 4 (fp32.round .rne a), wr := r.wr ++ ws ++ am }

/-- The row that an issued readout with CLR clears in its current cycle (R256, R258). -/
def mrdClear (d : Dat) (r : Run) : Dat :=
  match r.e.ins with
  | .mrd .. =>
    let w := nthD 0 r.e.cap 0
    match mrdRow? w r.k with
    | some i => if flag w 8 then d.clearRead (mrcSrc w) ((fld w 22 6 + i) % 64) else d
    | none => d
  | _ => d

/-- `mrd` (R256, R257): the descriptor is captured and checked at enqueue, then the SRAM address. -/
def execMrd (c : BitVec 2) (g : BitVec 8) (b : Reg) (o : BitVec 11) (k : Option Cont) (s : State) :
    Host.Outcome State Fault Refusal :=
  match s.focus.cur with
  | none =>
    let w := (s.ctl s.me).sr.get (0x0D0 + c.toNat)
    let a := s.address b o.toNat
    let capture : Except Flt (List Word × State) :=
      if mrcOk w g b o then .ok ([w], s) else .error (.at127 0x33 (fld w 0 48))
    let operand (_ : List Word) : Except Flt Fields :=
      if mrcSram w then s.memOperand .timedLocal true a (mrcRows w * mrcBytes w) { v0 := a } else .ok {}
    .next (s.enqueue .m (.mrd c g b o k) k (mrdLines w (GridOp.ofBits g)) capture operand none)
  | some e =>
    .next ((s.startMasked .m e (mrdLast (nthD 0 e.cap 0)) k []).mapLast (s.mrdRead s.me (GridOp.ofBits g)))

end Sys2Proof.Machine
end

