-- ==== Sys2Proof/Machine/Spline.lean ====
section
/-! DEFINITION. Spline mode: knot grids, the basis stage, the coefficient store, and the spline instructions (R264 to R278). -/

namespace Sys2Proof.Machine

/-! ## Knot grids (R264, R265) -/

/-- A knot grid as captured: KGA and KGB. -/
structure Knots where
  ka : Word
  kb : Word
  deriving DecidableEq, Repr

/-- X0 of a grid (R264). -/
def Knots.x0 (g : Knots) : Val := fp32.decode (fld g.ka 0 32)
/-- H of a grid (R264). -/
def Knots.h (g : Knots) : Val := fp32.decode (fld g.ka 32 32)
/-- G of a grid (R264). -/
def Knots.g (g : Knots) : Nat := fld g.kb 0 5
/-- The degree of a grid: 1 or 3 (R264). -/
def Knots.deg (g : Knots) : Nat := if flag g.kb 8 then 3 else 1
/-- OOG of a grid: 0 CLAMP, 1 ZERO, 2 EXTEND (R264). -/
def Knots.oog (g : Knots) : Nat := fld g.kb 12 2

/-- The number of an architected knot grid's fault address (R279). -/
def knotFault (n : Nat) : Flt := .at127 0x53 n

/-- Whether kg.set takes a pair of values (R265). -/
def knotsOk (a b : Word) : Bool :=
  (fp32.decode (fld a 0 32)).isFinite && decide (1 ≤ fld a 55 8) && decide (fld a 55 8 ≤ 254) && !flag a 63 &&
    decide (1 ≤ fld b 0 5) && decide (fld b 0 5 ≤ 16) && fld b 12 2 != 3 && fld b 5 3 == 0 && fld b 9 3 == 0 && fld b 14 50 == 0

/-- `kg.set` (R265): a knot fault for values that it refuses; else both registers take the values at the end of the line. A handler fault
in the handler (R168). -/
def execKgSet (n a b : Reg) (s : State) : Host.Outcome State Fault Refusal :=
  .next (s.notInHandler fun s =>
    if knotsOk (s.reg a) (s.reg b) then (s.deferSr (0x0E0 + n.toNat) (s.reg a)).deferSr (0x0E4 + n.toNat) (s.reg b)
    else s.take (knotFault n.toNat))

/-! ## The basis stage (R266, R267) -/

/-- What the basis stage makes of an activation: NaN, no contribution, or an interval, a local coordinate, and whether the derivatives
are taken to be 0. -/
inductive Basis where
  | nan
  | none
  | on (m : Nat) (u : Val) (flat : Bool)
  deriving DecidableEq, Repr

/-- A zero as +0. -/
def plusZero (v : Val) : Val := if v.isZero then .fin false 0 0 else v

/-- A small integer as a value. -/
def small (i : Int) : Val := Val.ofInt i

/-- An exact difference; a zero is +0. -/
def diff (a b : Val) : Val := plusZero (Val.add .rne a b.negate)

/-- The basis stage for an exact activation (R266, R267). -/
def basis (k : Knots) (x : Val) : Basis :=
  let z := fp32.decode (fp32.round .rne (Val.div (diff x k.x0) k.h))
  if x.isNan then .nan
  else if Val.lt z (small 0) then
    match k.oog with
    | 0 => .on 0 (small 0) true
    | 1 => .none
    | _ => if Val.lt z (small (-8)) then .on 0 (small (-8)) true else .on 0 z false
  else if Val.lt z (small k.g) then
    let m := (z.toInt .rz).toNat
    .on m (diff z (small m)) false
  else
    match k.oog with
    | 0 => .on (k.g - 1) (small 1) true
    | 1 => .none
    | _ =>
      let u := fp32.decode (fp32.round .rne (diff z (small (k.g - 1 : Nat))))
      if Val.lt (small 9) u then .on (k.g - 1) (small 9) true else .on (k.g - 1) u false

/-- An exact polynomial in u, its coefficients from the highest power down. -/
def poly (u : Val) : List Int → Val
  | [] => small 0
  | cs => plusZero (cs.foldl (fun acc c => plusZero (Val.add .rne (Val.mul acc u) (small c))) (small 0))

/-- β_0 to β_deg as FP32 encodings (R267). -/
def betas (deg : Nat) (u : Val) : List Nat :=
  (if deg = 3 then [[-1, 3, -3, 1], [3, -6, 0, 4], [-3, 3, 3, 1], [1, 0, 0, 0]] else [[-1, 1], [1, 0]]).map fun c =>
    fp32.round .rne (poly u c)

/-- β′_0 to β′_deg as FP32 encodings (R267). -/
def betas' (deg : Nat) (u : Val) : List Nat :=
  (if deg = 3 then [[-3, 6, -3], [9, -12, 0], [-9, 6, 3], [3, 0, 0]] else [[-1], [1]]).map fun c => fp32.round .rne (poly u c)

/-! ## The coefficient store (R268) -/

/-- The key of a slot of a cell. -/
def coefKey (slot i j : Nat) : Nat := slot * 4096 + i * 64 + j

/-- A coefficient decoded by BTYPE: the whole slot, or its low byte (R268). -/
def coefVal (bt : Nat) (x : BitVec 16) : Val := if bt = 1 then bf16.decode x.toNat else decodeT bt (x.toNat % 256)

/-- c_s of row i for every column, as FP32 encodings; widening is exact. -/
def coefRow (c : Bits 16) (bt slot i : Nat) : List Nat :=
  (List.range 64).map fun j => fp32.round .rne (coefVal bt (c.get (coefKey slot i j)))

/-- Σ_k c[m+k]·b_k of row i for every column: a product, then fused steps (R272, R273). -/
def evalRow (c : Bits 16) (bt m i : Nat) (bs : List Nat) : List Nat :=
  match bs with
  | [] => []
  | b0 :: rest =>
    ((List.range rest.length).zip rest).foldl
      (fun acc p => List.zipWith (fun t x => fp32.fma x p.2 t) acc (coefRow c bt (m + 1 + p.1) i))
      ((coefRow c bt m i).map fun x => fp32.mul x b0)

/-! ## Shapes (R269, R270) -/

/-- What a spline feed needs: its grid, the word, and whether it is ev, dx or gs. -/
structure Spl where
  k : Knots
  w : Word
  deriving DecidableEq, Repr

/-- The captured state of a spline entry: KGA, KGB and the format word. -/
def Entry.spl (e : Entry) : Spl := ⟨⟨nthD 0 e.cap 0, nthD 0 e.cap 1⟩, nthD 0 e.cap 2⟩

/-- CPR of a spline feed (R270). -/
def splCadence (e : Entry) : Nat × Nat :=
  match e.ins with
  | .msplGs .. => (e.spl.k.deg + 1, 1)
  | _ => if fwB e.spl.w = 1 then (4, 1) else (1, 1)

/-- D of a spline feed (R270). -/
def splDepth (e : Entry) : Nat :=
  match e.ins with
  | .msplGs .. => 140
  | .msplDx .. => if fwB e.spl.w = 1 then 168 else 156
  | _ => if fwB e.spl.w = 1 then 160 else 148

/-- ATYPE is FP32 or BF16, ACC is 0 (R269). -/
def splAOk (w : Word) : Bool := decide (fwA w ≤ 1) && fwAcc w == 0
/-- BTYPE is BF16, E4M3 or E5M2 (R269). -/
def splBOk (w : Word) : Bool := fwB w == 1 || fwB w == 3 || fwB w == 4

/-- Capture a knot grid and a lead format word (R269). -/
def State.captureSpl (s : State) (j : BitVec 2) (ok : Word → Bool) : Except Flt (List Word × State) :=
  let c := s.ctl s.me
  let ka := c.sr.get (0x0E0 + j.toNat)
  let kb := c.sr.get (0x0E4 + j.toNat)
  if fld kb 0 5 = 0 then .error (knotFault j.toNat)
  else
    match s.takeWord false ok with
    | .ok (w, s1) => .ok ([ka, kb, w], s1)
    | .error f => .error f

/-- The check of one stream of n rows, in the W or E block (R270). -/
def State.splStream (s : State) (t n : Nat) (east : Bool) (a : Word) : Option Flt :=
  if a.toNat % 64 ≠ 0 then some (.at127 0x33 (a.toNat % 2 ^ 48))
  else (s.checkSide s.me (s.mapNow s.me) east false a (n * rowBytes t)).map fun p => .at127 p.1 (p.2 % 2 ^ 48)

/-- The operands of a spline feed: the activation stream, and a gradient stream when there is one (R270). -/
def State.splOperand (s : State) (n zr : Nat) (a : Word) (d : Option Word) (cap : List Word) : Except Flt Fields :=
  let t := fwA (nthD 0 cap 2)
  match s.splStream t n false a with
  | some f => .error f
  | none =>
    match d with
    | none => .ok { v0 := a, rem := n, zr := zr }
    | some x =>
      match s.splStream t n true x with
      | some f => .error f
      | none => .ok { v0 := a, v1 := x, rem := n, zr := zr }

/-- What an issued spline feed reads in its cycle k: both streams at the cadence of R270, and the coefficient store for a row that
enters. -/
def State.splRead (s : State) (core : Nat) (r : Run) : Run :=
  let t := fwA r.e.spl.w
  let c := splCadence r.e
  let r1 := s.streamRead core t r.e.rem c false r
  let two := match r.e.ins with
    | .msplEv .. => false
    | _ => true
  let r2 := if two then
      let m := s.streamRead core t r.e.rem c false { r with e := { r.e with v0 := r.e.v1 }, data := r.data2 }
      { r1 with data2 := m.data }
    else r1
  { r2 with snaps := (rowsAt c r.e.rem r.k).foldl (fun l i => putKey l i (s.dat core).coef) r.snaps }

/-- Start an issued spline feed. -/
def State.issueSpl (s : State) (e : Entry) : State :=
  let s1 := s.setDat s.me (s.mine.release false e)
  (s1.startRun .m e (entryAt (splCadence e) (e.rem - 1) + splDepth e) []).mapLast (s1.splRead s.me)

/-! ## The feeds (R272 to R274) -/

/-- s of mspl.ev for every column (R272). -/
def evSums (c : Bits 16) (p : Spl) (xs : List Val) : List Nat :=
  ((List.range 64).zip xs).foldl (fun acc q =>
    match basis p.k q.2 with
    | .nan => acc.map fun _ => fp32.nanEnc
    | .none => acc
    | .on m u _ => List.zipWith fp32.add acc (evalRow c (fwB p.w) m q.1 (betas p.k.deg u))) (List.replicate 64 0x80000000)

/-- g of mspl.dx for every array row (R273). -/
def dxSums (c : Bits 16) (p : Spl) (xs : List Val) (ds : List Nat) : List Nat :=
  ((List.range 64).zip xs).map fun q =>
    match basis p.k q.2 with
    | .nan => fp32.nanEnc
    | .none => fp32.round .rne (Val.div (fp32.decode 0x80000000) p.k.h)
    | .on m u flat =>
      let s := if flat then 0x80000000
        else (List.zip ds (evalRow c (fwB p.w) m q.1 (betas' p.k.deg u))).foldl (fun s x => fp32.fma x.1 x.2 s) 0x80000000
      fp32.round .rne (Val.div (fp32.decode s) p.k.h)

/-- One row of mspl.gs into the planes of its window; `old` are the planes at the start of the cycle, or +0 after a clear (R274,
R277). -/
def gsRow (d : Dat) (old : Nat → Nat → List Nat) (p : Spl) (w : Nat) (xs : List Val) (ds : List Nat) : Dat :=
  ((List.range 64).zip xs).foldl (fun d q =>
    match basis p.k q.2 with
    | .none => d
    | .nan => (List.range 8).foldl (fun d pl => d.setPlaneRow pl q.1 (List.replicate 64 fp32.nanEnc)) d
    | .on m u _ =>
      ((List.range (p.k.deg + 1)).zip (betas p.k.deg u)).foldl (fun d b =>
        let s := m + b.1
        if 8 * w ≤ s ∧ s < 8 * w + 8 then
          d.setPlaneRow (s - 8 * w) q.1 (List.zipWith (fun dl o => fp32.fma dl b.2 o) ds (old (s - 8 * w) q.1))
        else d) d) d

/-- The elements of a row of a gradient stream as FP32 encodings (R203). -/
def deltaRow (t : Nat) (bs : List Byte) (r : Nat) : List Nat := (streamRow t bs [] r).map (fp32.round .rne)

/-- The plane writes of an issued spline feed in its current cycle; `start` is the data at the start of the cycle (R277). -/
def splineRun (start : Dat) (d : Dat) (r : Run) : Dat :=
  let p := r.e.spl
  let t := fwA p.w
  if r.k < splDepth r.e then d
  else
    let rows := rowsAt (splCadence r.e) r.e.rem (r.k - splDepth r.e)
    let store (i : Nat) : Bits 16 := lookupD [] r.snaps i
    let add (z : Bool) (plane i : Nat) (d : Dat) (sums : List Nat) : Dat :=
      let q := (r.e.p0 + i) % 64
      let old := if z && decide (i < r.e.zr) then List.replicate 64 0x80000000 else start.planeRow plane q
      d.setPlaneRow plane q (List.zipWith fp32.add old sums)
    match r.e.ins with
    | .msplEv _ z c _ _ _ =>
      rows.foldl (fun d i => add z c.toNat i d (evSums (store i) p (streamRow t r.data [] i))) d
    | .msplDx _ z c _ _ _ _ =>
      rows.foldl (fun d i => add z c.toNat i d (dxSums (store i) p (streamRow t r.data [] i) (deltaRow t r.data2 i))) d
    | .msplGs _ z w _ _ _ _ =>
      rows.foldl (fun d i =>
        let clear := z && decide (i < r.e.zr)
        let d1 := if clear then { d with plane := [] } else d
        gsRow d1 (fun pl row => if clear then List.replicate 64 0 else start.planeRow pl row) p w.toNat
          (streamRow t r.data [] i) (deltaRow t r.data2 i)) d
    | _ => d

/-- `mspl.ev` (R272). -/
def execMsplEv (j : BitVec 2) (z : Bool) (c : BitVec 2) (a : Reg) (n : BitVec 10) (k : Option Cont) (s : State) :
    Host.Outcome State Fault Refusal :=
  match s.focus.cur with
  | none =>
    .next (s.enqueue .m (.msplEv j z c a n k) k [] (s.captureSpl j fun w => splAOk w && splBOk w)
      (s.splOperand (n.toNat + 1) 64 (s.reg a) none) none)
  | some e => .next (s.issueSpl e)

/-- `mspl.dx` (R273). -/
def execMsplDx (j : BitVec 2) (z : Bool) (c : BitVec 2) (a d : Reg) (n : BitVec 10) (k : Option Cont) (s : State) :
    Host.Outcome State Fault Refusal :=
  match s.focus.cur with
  | none =>
    .next (s.enqueue .m (.msplDx j z c a d n k) k [] (s.captureSpl j fun w => splAOk w && splBOk w)
      (s.splOperand (n.toNat + 1) 64 (s.reg a) (some (s.reg d))) none)
  | some e => .next (s.issueSpl e)

/-- `mspl.gs` (R274). -/
def execMsplGs (j : BitVec 2) (z : Bool) (w : BitVec 2) (a d : Reg) (n : BitVec 10) (k : Option Cont) (s : State) :
    Host.Outcome State Fault Refusal :=
  match s.focus.cur with
  | none =>
    .next (s.enqueue .m (.msplGs j z w a d n k) k [] (s.captureSpl j splAOk)
      (s.splOperand (n.toNat + 1) 1 (s.reg a) (some (s.reg d))) none)
  | some e => .next (s.issueSpl e)

/-! ## Loads, readouts and refinement of the coefficient store -/

/-- The cells of one slot from its 8192 bytes: cell (i, j) at byte 128i + 2j (R268). -/
def slotCells (slot : Nat) (bs : List Byte) : List (Nat × BitVec 16) :=
  ((List.range 4096).zip (elemsOf 2 4096 bs)).map fun p => (slot * 4096 + p.1, BitVec.ofNat 16 p.2)

/-- What an issued mspl.ld does in its cycle k: two units; a slot is complete after 64 cycles (R271). -/
def State.splLoad (s : State) (core : Nat) (n s0 : Nat) (r : Run) : Run :=
  if r.k < 64 * n then
    let bs := r.data ++ s.ctxBytes (coachOf core) r.e.map r.e.ver (r.e.v0.toNat + 128 * r.k) 128
    if r.k % 64 = 63 then { r with data := [], wr := [(r.k, .coef (slotCells (s0 + r.k / 64) bs))] } else { r with data := bs }
  else r

/-- `mspl.ld` (R271). -/
def execMsplLd (b : Reg) (n : BitVec 5) (s0 : BitVec 5) (k : Option Cont) (s : State) : Host.Outcome State Fault Refusal :=
  let ns := n.toNat + 1
  match s.focus.cur with
  | none =>
    let a := s.reg b
    let operand (_ : List Word) : Except Flt Fields :=
      if a.toNat % 64 ≠ 0 then .error (.at127 0x33 (a.toNat % 2 ^ 48))
      else orFault (s.checkSide s.me (s.mapNow s.me) true false a (ns * 8192)) { v0 := a }
    .next (s.enqueue .m (.msplLd b n s0 k) k [] s.plain operand none)
  | some e => .next ((s.startRun .m e (64 * ns - 1) []).mapLast (s.splLoad s.me ns s0.toNat))

/-- The bytes of slots of a store (R268). -/
def slotBytes (c : Bits 16) (s0 n : Nat) : List Byte := (span (s0 * 4096) (n * 4096)).flatMap fun i => bytesOf 2 (c.get i).toNat

/-- What an issued mspl.rd writes: in each cycle from the first on, two units (R276). -/
def State.splStore (s : State) (core n : Nat) (r : Run) : Run :=
  if r.k < 64 * n then
    let a := r.e.v0.toNat + 128 * r.k
    let ps := s.parts (coachOf core) r.e.map a 128
    let cells := s.ctxCells (coachOf core) r.e.ver ps ((r.data.drop (128 * r.k)).take 128)
    { r with wr := r.wr ++ [(r.k + 1, .mem cells (s.partUnits (coachOf core) r.e.ver ps))] }
  else r

/-- `mspl.rd` (R276). -/
def execMsplRd (n : BitVec 3) (s0 : BitVec 5) (b : Reg) (o : BitVec 11) (k : Option Cont) (s : State) :
    Host.Outcome State Fault Refusal :=
  let ns := n.toNat + 1
  match s.focus.cur with
  | none =>
    let a := s.address b o.toNat
    let operand (_ : List Word) : Except Flt Fields :=
      if a.toNat % 64 ≠ 0 then .error (.at127 0x33 (a.toNat % 2 ^ 48))
      else orFault (s.checkSide s.me (s.mapNow s.me) true true a (ns * 8192)) { v0 := a }
    .next (s.enqueue .m (.msplRd n s0 b o k) k [] s.plain operand none)
  | some e =>
    .next ((s.startRun .m e (64 * ns) []).mapLast fun r => s.splStore s.me ns { r with data := slotBytes s.mine.coef s0.toNat ns })

/-- d_s of a refinement from the coefficients c of one cell (R275). -/
def refined (deg s : Nat) (c : Nat → Val) : Val :=
  let m := s / 2
  let sum (a b : Val) : Val := Val.add .rne a b
  if deg = 3 then
    if s % 2 = 0 then (sum (c m) (c (m + 1))).scale (-1)
    else (sum (sum (c m) (Val.mul (small 6) (c (m + 1)))) (c (m + 2))).scale (-3)
  else if s % 2 = 0 then c m
  else (sum (c m) (c (m + 1))).scale (-1)

/-- The refined slots of every cell (R275). -/
def refineCells (st : Bits 16) (p : Spl) : List (Nat × BitVec 16) :=
  let bt := fwB p.w
  (List.range (2 * p.k.g + p.k.deg)).flatMap fun s =>
    (List.range 4096).map fun ij =>
      (s * 4096 + ij, BitVec.ofNat 16 (roundT bt .rne (refined p.k.deg s fun q => coefVal bt (st.get (q * 4096 + ij)))))

/-- `mspl.rf` (R275): a spline-capacity fault when the refined grid would not fit; else the grid takes 2G and h / 2 at the end of the
line, and the slots are refined at t + 63. -/
def execMsplRf (j : BitVec 2) (k : Option Cont) (s : State) : Host.Outcome State Fault Refusal :=
  match s.focus.cur with
  | none =>
    let kn : Knots := ⟨(s.ctl s.me).sr.get (0x0E0 + j.toNat), (s.ctl s.me).sr.get (0x0E4 + j.toNat)⟩
    let big := decide (16 < 2 * kn.g) || decide (20 < 2 * kn.g + kn.deg) || decide (fld kn.ka 55 8 < 2)
    let operand (_ : List Word) : Except Flt Fields :=
      if big then .error (.at127 0x54 (kn.g + 256 * b2n (flag kn.kb 8))) else .ok {}
    let capture : Except Flt (List Word × State) :=
      match s.captureSpl j fun w => splBOk w && fwAcc w == 0 with
      | .error f => .error f
      | .ok (cap, s1) =>
        .ok (cap, (s1.deferSr (0x0E0 + j.toNat) (setFld kn.ka 55 8 (fld kn.ka 55 8 - 1))).deferSr (0x0E4 + j.toNat)
          (setFld kn.kb 0 5 (2 * kn.g)))
    .next (s.enqueue .m (.msplRf j k) k [] capture operand none)
  | some e =>
    let s1 := s.setDat s.me (s.mine.release false e)
    .next (s1.startRun .m e 63 [(63, .coef (refineCells s.mine.coef e.spl))])

end Sys2Proof.Machine
end

