-- ==== Sys2Proof/Machine/Drain.lean ====
section
/-! DEFINITION. What keeps an array busy (R249), and how the arrays of a coach drain when its M queues stop (R260, R278). -/

namespace Sys2Proof.Machine

/-! ## Token counters (R92) -/

/-- The bits of an instruction's continuation word, 0 without one (R56). -/
def contBits (i : Instr) : Nat :=
  match encode i with
  | some w => (w.cont.getD 0).toNat
  | none => 0

/-- The counters that an entry pops, by their place in TKN: LM 0, ML 1, MV 2, VM 3, VS 4, SV 5 (R92, R106). -/
def popsOf (q : Queue) (i : Instr) : List Nat :=
  let w := (contBits i).testBit 15
  let e := (contBits i).testBit 14
  match q with
  | .l => if e then [1] else []
  | .m => (if w then [0] else []) ++ (if e then [3] else [])
  | .v => (if w then [2] else []) ++ (if e then [5] else [])
  | .s => if w then [4] else []
  | _ => []

/-- The counters that an entry pushes (R92). -/
def pushesOf (q : Queue) (i : Instr) : List Nat :=
  let w := (contBits i).testBit 13
  let e := (contBits i).testBit 12
  match q with
  | .l => if e then [0] else []
  | .m => (if w then [1] else []) ++ (if e then [2] else [])
  | .v => (if w then [3] else []) ++ (if e then [4] else [])
  | .s => if w then [5] else []
  | _ => []

/-- A token counter. -/
def Ctl.token (c : Ctl) (i : Nat) : Nat := fld (c.sr.get 0x009) (4 * i) 4

/-- Set a token counter. -/
def Ctl.setToken (c : Ctl) (i v : Nat) : Ctl := c.setSr 0x009 (setFld (c.sr.get 0x009) (4 * i) 4 v)

/-- Pop counters. -/
def Ctl.pops (c : Ctl) (l : List Nat) : Ctl := l.foldl (fun c i => c.setToken i (c.token i - 1)) c

/-- Push counters; one that holds 15 stays at 15 (R92). -/
def Ctl.pushes (c : Ctl) (l : List Nat) : Ctl := l.foldl (fun c i => c.setToken i (Nat.min 15 (c.token i + 1))) c

/-! ## Feeds and loads (R249) -/

/-- The arrays an entry feeds, with the cycles of each feed span relative to its issue: first, and one past the last (R246, R254, R255,
R270, R275). -/
def feedSpans (e : Entry) : List (Nat × Nat × Nat) :=
  let tile (y : Bool) : List (Nat × Nat × Nat) := [(b2n y, 0, feedSpan (cadence (fwA (nthD 0 e.cap 0))) e.rem)]
  match e.ins with
  | .mmul _ _ y _ _ _ => tile y
  | .mmulCh _ _ y _ _ _ => tile y
  | .mmulCf _ _ _ y _ _ => tile y
  | .mattn .. =>
    let (dl, _, c) := attnShape e
    let n := feedSpan c e.rem
    [(0, 0, n), (1, dl + 12, dl + 12 + n)]
  | .mresc _ y _ n _ => [(b2n y, 0, n.toNat + 1)]
  | .msplEv .. | .msplDx .. => [(0, 0, feedSpan (splCadence e) e.rem)]
  | .msplGs .. =>
    let n := feedSpan (splCadence e) e.rem
    [(0, 0, n), (1, 0, n)]
  | .msplRf .. => [(0, 0, 64)]
  | _ => []

/-- Whether a feed of an array covers the current cycle. -/
def Run.feeds (r : Run) (arr : Nat) : Bool :=
  (feedSpans r.e).any fun f => f.1 == arr && decide (f.2.1 ≤ r.k) && decide (r.k < f.2.2)

/-- The array an entry loads, with the cycles of its reads (R250, R271). -/
def loadSpan (e : Entry) : Option (Nat × Nat) :=
  match e.ins with
  | .mld y _ _ => some (b2n y, loadCycles (fwB (nthD 0 e.cap 0)))
  | .msplLd _ n _ _ => some (0, 64 * (n.toNat + 1))
  | _ => none

/-- Whether a load still reads for an array. -/
def Run.loads (r : Run) (arr : Nat) : Bool :=
  match loadSpan r.e with
  | some (a, n) => a == arr && decide (r.k < n)
  | none => false

/-- The CAUSE for which an entry may not issue now: 0 a feed, 1 a load (R249, R261). -/
def Eng.arrayBusy (x : Eng) (e : Entry) : Option Nat :=
  if (feedSpans e).any fun f => x.run.any fun r => r.q == .m && r.feeds f.1 then some 0
  else
    match loadSpan e with
    | some (a, _) => if x.run.any fun r => r.q == .m && r.loads a then some 1 else none
    | none => none

/-! ## Draining (R260, R278) -/

/-- The cadence of a feed that a drain cuts by rows. -/
def cutCadence (e : Entry) : Option (Nat × Nat) :=
  match e.ins with
  | .mmul .. | .mmulCh .. | .mmulCf .. => some (cadence (fwA (nthD 0 e.cap 0)))
  | .mattn .. => some (attnShape e).2.2
  | .msplEv .. | .msplDx .. | .msplGs .. => some (splCadence e)
  | _ => none

/-- The rows of a running command that have entered; a chained follower has those of the head of its chain (R260). The fuel is the
length of the longest chain. -/
def State.entered (s : State) : Nat → Run → Nat
  | 0, r => r.e.rem
  | f + 1, r =>
    match cutCadence r.e with
    | none => r.e.rem
    | some c =>
      match r.src with
      | none => rowsBefore c r.e.rem r.k
      | some (core, id) =>
        match (s.eng core).run.find? fun x => x.e.id == id with
        | some h => s.entered f h
        | none => r.e.rem

/-- The last cycle of a command of n rows. -/
def lastOf (e : Entry) (n : Nat) : Nat :=
  match e.ins with
  | .mattn .. => attnLast e n
  | .msplEv .. | .msplDx .. | .msplGs .. => entryAt (splCadence e) (n - 1) + splDepth e
  | _ => tileLast (fwA (nthD 0 e.cap 0)) n

/-- The entry of a command after c of its rows: the locations that it holds advance, an A scale location only for an MX stream; a follower holds
none, and mspl.gs keeps P0 (R260, R278, R395). -/
def Entry.rewrite (e : Entry) (c : Nat) : Entry :=
  let adv (a : Word) (n : Nat) : Word := a + BitVec.ofNat 64 n
  let spl := c * rowBytes (fwA e.spl.w)
  let t := fwA (nthD 0 e.cap 0)
  let r : Entry := { e with rem := e.rem - c, p0 := (e.p0 + c) % 64, zr := e.zr - c, part := true }
  match e.ins with
  | .msplEv .. => { r with v0 := adv e.v0 spl }
  | .msplDx .. => { r with v0 := adv e.v0 spl, v1 := adv e.v1 spl }
  | .msplGs .. => { r with v0 := adv e.v0 spl, v1 := adv e.v1 spl, p0 := e.p0 }
  | .mmulCf .. => r
  | _ => { r with v0 := adv e.v0 (c * rowBytes t), v1 := if isMx t then adv e.v1 (2 * c) else e.v1 }

/-- What a drain makes of an issued M entry: the run that completes, if any, the entry that is saved again, if any, and the rows consumed
by each array whose feed was stopped. -/
structure CutRun where
  run  : Option Run
  back : Option Entry
  lead : Option Nat
  tr   : Option Nat
  deriving DecidableEq, Repr

/-- The arrays whose progress MPROG records (R260, R278): mspl.gs counts on the lead array only. -/
def progArrays (e : Entry) : Bool × Bool :=
  match e.ins with
  | .mmul _ _ y _ _ _ => (!y, y)
  | .mmulCh _ _ y _ _ _ => (!y, y)
  | .mmulCf _ _ _ y _ _ => (!y, y)
  | .mattn .. => (true, true)
  | _ => (true, false)

/-- Whether the stop falls into a feed of an issued entry (R249, R260). -/
def Run.feeding (r : Run) : Bool := r.feeds 0 || r.feeds 1

/-- Cut one issued entry at the stop cycle (R260, R278): a load starts again whole; a feed keeps the rows that have entered and is saved with
the others, as it stood when none has entered, and not at all when all have; MPROG records the rows. -/
def State.cutRun (s : State) (r : Run) : CutRun :=
  match loadSpan r.e with
  | some (_, n) =>
    if r.k < n then ⟨none, some { r.e with part := true }, none, none⟩ else ⟨some r, none, none, none⟩
  | none =>
    match cutCadence r.e with
    | none => ⟨some r, none, none, none⟩
    | some _ =>
      let c := s.entered 16 r
      let p := progArrays r.e
      let lead := if p.1 then some c else none
      let tr := if p.2 then some c else none
      if r.e.rem ≤ c then (if r.feeding then ⟨some r, none, lead, tr⟩ else ⟨some r, none, none, none⟩)
      else if c = 0 then ⟨none, some r.e, lead, tr⟩
      else
        let l := lastOf r.e c
        ⟨some { r with e := { r.e with rem := c }, last := l, push := l + 1 }, some (r.e.rewrite c), lead, tr⟩

/-- The format words that an M entry has taken of the two FIFOs: a spline feed has the lead word after its knot grid (R243, R269). -/
def takenWords (e : Entry) : List Word × List Word :=
  match e.ins with
  | .msplEv .. | .msplDx .. | .msplGs .. => ([e.spl.w], [])
  | .mattn .. => ([nthD 0 e.cap 0], [nthD 0 e.cap 1])
  | _ => if (progArrays e).2 then ([], [nthD 0 e.cap 0]) else ([nthD 0 e.cap 0], [])

/-- What the issue of a command has taken and its saved entry, left as it stood, takes again: its counters and its format words (R92, R243,
R260, R278). -/
def Core.unissue (x : Core) (e : Entry) : Core :=
  if e.part then x
  else
    let w := takenWords e
    let d := x.dat
    { x with ctl := x.ctl.pushes (popsOf .m e.ins), dat := { d with held0 := w.1 ++ d.held0, held1 := w.2 ++ d.held1 } }

/-! ### Followers that have not issued -/

/-- Whether two commands stand next to each other in a chain: the west one forwards, and n and ATYPE agree (R252). -/
def chained (w e : Entry) : Bool := forwards w && w.rem == e.rem && fwA (nthD 0 w.cap 0) == fwA (nthD 0 e.cap 0)

/-- Whether an entry is mmul.cf. -/
def Entry.follows (e : Entry) : Bool :=
  match e.ins with
  | .mmulCf .. => true
  | _ => false

/-- The rows that a queued follower takes in the drain: those that have entered the array of the head of its chain, whose commands issue two
cycles apart (R252, R260). The fuel is the length of the longest chain. -/
def State.followerRows (s : State) : Nat → Nat → Entry → Option Nat
  | 0, _, _ => none
  | f + 1, core, e =>
    if idCore core = 0 ∨ e.follows = false then none
    else
      let west := s.eng (core - 1)
      match west.run.find? fun r => r.q == .m && decide (r.t + 2 = e.n) && chained r.e e with
      | some r => some (s.entered 16 r)
      | none =>
        match west.qm.find? fun w => decide (w.n + 2 = e.n) && chained w e with
        | some w => s.followerRows f (core - 1) w
        | none => none

/-- The part of a queued follower that issues in the drain, for the c rows that are forwarded to it; `cut` marks it. -/
def Entry.drainPart (e : Entry) (c : Nat) : Entry := { e with rem := c, cut := true }

/-- Whether an entry at the head of the M queue is the part of a follower that issues in the drain. -/
def Entry.inDrain (e : Entry) : Bool := e.cut && e.follows

/-- The M queue of a core with its followers split: the parts for the drain first, the rest of each at its place, rewritten with the rows of
the head of its chain (R260). -/
def State.splitFollowers (s : State) (core : Nat) (l : List Entry) : List Entry :=
  let rows (e : Entry) : Nat := (s.followerRows 8 core e).getD 0
  let takes (e : Entry) : Bool := decide (0 < rows e)
  ((l.filter takes).map fun e => e.drainPart (rows e)) ++
    (l.map fun e => if takes e then e.rewrite (rows e) else e).filter fun e => e.rem != 0 || !e.follows

/-- MPROG from the rows consumed by each array (R260). -/
def mprog (lead tr : Option Nat) : Word :=
  (match tr with
   | some c => mkFld 31 1 1 ||| mkFld 16 11 c
   | none => 0) |||
  (match lead with
   | some c => mkFld 15 1 1 ||| mkFld 0 11 c
   | none => 0)

/-- How much a cut command counts for an array in MPROG: one that the stop has cut before one that runs to its end, and of these one whose feed of the
array was stopped first (R260; DEDUCED, log 102). -/
def CutRun.rank (c : CutRun) (r : Run) (arr : Nat) : Nat := 2 * b2n c.back.isSome + b2n (r.feeds arr)

/-- The rows of the command that counts most, by rank. -/
def bestRows (l : List (Nat × Nat)) : Option Nat :=
  (l.foldl (fun (a : Option (Nat × Nat)) p => match a with
    | none => some p
    | some q => if q.1 < p.1 then some p else some q) none).map (·.2)

/-- The rows that MPROG records for an array: of the issued commands, and of the followers that still take rows (R260). -/
def State.progRows (s : State) (core arr : Nat) (cuts : List (Run × CutRun)) : Option Nat :=
  let issued := cuts.filterMap fun p => (if arr = 0 then p.2.lead else p.2.tr).map fun c => (p.2.rank p.1 arr, c)
  let queued := (s.eng core).qm.filterMap fun e =>
    let on := if arr = 0 then (progArrays e).1 else (progArrays e).2
    if on then ((s.followerRows 8 core e).filter fun c => decide (0 < c)).map fun c => (2, c) else none
  bestRows (issued ++ queued)

/-- Cut the arrays of a core: every issued entry is cut against the state at the stop cycle, saved entries go back to the head of the M
queue in issue order, followers that wait for rows are split, MPROG records the rows. -/
def State.cutCore (s0 : State) (s : State) (core : Nat) : State :=
  let x := s.core core
  let cuts := x.eng.run.map fun r => (r, if r.q == .m then s0.cutRun r else ⟨some r, none, none, none⟩)
  let run := cuts.filterMap (·.2.run)
  let back := cuts.filterMap (·.2.back)
  let whole := back.filter fun e => x.eng.run.any fun r => r.e == e && (cutCadence e).isSome
  let parts := s0.splitFollowers core x.eng.qm
  let eng : Eng := { x.eng with run := run, qm := (parts.filter Entry.inDrain) ++ back ++ parts.filter fun e => !e.inDrain }
  let prog := mprog (s0.progRows core 0 cuts) (s0.progRows core 1 cuts)
  s.setCore core (whole.foldr (fun e y => y.unissue e) { x with eng := eng, ctl := x.ctl.setSr 0x058 prog })

/-- A coach reaches its stop cycle: TSTOP is the current TCLK cycle, no entry issues from it on, its running segment stops, and its
arrays drain (R193, R260, R361). -/
def State.beginDrain (s : State) (coach : Nat) : State :=
  let k := s.coach coach
  let k1 := k.stopSegment s.cyc
  let s1 := s.setCoach coach { k1 with stand := .draining, tstop := k.tclk, frozen := false }
  (coresOf coach).foldl (fun x c => s1.cutCore x c) s1

/-- The followers of a draining coach whose part issues in the TCLK cycle, by core * 8 + queue tag (R260). -/
def State.drainDues (s : State) (coach : Nat) : List Nat :=
  (coresOf coach).filterMap fun c =>
    match (s.eng c).qm with
    | e :: _ => if e.inDrain && e.n == (s.coach coach).tclk then some (c * 8 + Queue.m.tag) else none
    | [] => none

/-- Whether a draining coach has performed every write: no issued entry, no follower that still takes rows, no beat and no landing is left
(R260, R361). -/
def State.drainedNow (s : State) (coach : Nat) : Bool :=
  let k := s.coach coach
  k.beats.isEmpty && k.tl.land.isEmpty &&
    ((coresOf coach).all fun c => (s.eng c).run.isEmpty && !((s.eng c).qm.any Entry.inDrain))

end Sys2Proof.Machine
end

