-- ==== Sys2Proof/Machine/Phase.lean ====
section
/-! DEFINITION. Phases (R128 to R136, R144): the shift set, its granule writes, ph.prep and ph.adv, and what an entry still in flight holds (R131, R138). -/

namespace Sys2Proof.Machine

/-! ## What an entry names (R131, R138) -/

/-- The context ranges that an entry reads (false) or writes (true), by address and length. A gather names none here: it holds every
SRAM region of its map (R138). -/
def Entry.operands (e : Entry) : List (Bool × Nat × Nat) :=
  let a := e.v0.toNat
  let b := e.v1.toNat
  let tile : List (Bool × Nat × Nat) :=
    let t := fwA (nthD 0 e.cap 0)
    (false, a, streamBytes t e.rem) :: (if isMx t then [(false, b, 2 * e.rem)] else [])
  match e.ins with
  | .ld .. => [(false, a, 256)]
  | .ldt m _ _ _ _ => [(false, a, 256 * tileLines m)]
  | .cp .. => [(true, a, e.v2.toNat), (false, b, e.v2.toNat)]
  | .ldx .. =>
    let (n, nr, nc, pitch) := patFields (nthD 0 e.cap 0)
    [(true, a, nr * nc * n), (false, b, (nr - 1) * pitch + nc * n)]
  | .st .. => [(true, a, 256)]
  | .stStr .. => [(true, a, 256)]
  | .stt m _ _ _ _ => [(true, a, 256 * tileLines m)]
  | .sttStr m _ _ _ _ _ _ => [(true, a, 256 * tileLines m)]
  | .mld .. =>
    let t := fwB (nthD 0 e.cap 0)
    (false, a, 64 * rowBytes t) :: (if isMx t then [(false, b, 128)] else [])
  | .mmul .. => tile
  | .mmulCh .. => tile
  | .mattn .. => tile
  | .mrd .. =>
    let w := nthD 0 e.cap 0
    if mrcSram w then [(true, a, mrcRows w * mrcBytes w)] else []
  | .msplLd _ n _ _ => [(false, a, (n.toNat + 1) * 8192)]
  | .msplRd n _ _ _ _ => [(true, a, (n.toNat + 1) * 8192)]
  | .msplEv .. => [(false, a, e.rem * rowBytes (fwA e.spl.w))]
  | .msplDx .. => [(false, a, e.rem * rowBytes (fwA e.spl.w)), (false, b, e.rem * rowBytes (fwA e.spl.w))]
  | .msplGs .. => [(false, a, e.rem * rowBytes (fwA e.spl.w)), (false, b, e.rem * rowBytes (fwA e.spl.w))]
  | .cph m _ _ _ _ => [(m.toNat == 0, a, e.v2.toNat)]
  | .flLd z _ _ _ _ _ => [(true, a, flBytes z), (false, b, flBytes z)]
  | .fam _ _ z _ _ _ _ => [(true, a, 8), (true, b, if z then 8 else 4)]
  | .fcollSet .. => [(false, a, 32)]
  | .kvWalk m _ _ _ _ => if m = 0 then [] else [(true, b, 512)]
  | .kvPlan .. => [(true, a, 37056)]
  | _ => []

/-- Whether a gather or scatter, and whether it writes. -/
def Entry.gathers (e : Entry) : Option Bool :=
  match e.ins with
  | .ldg .. => some false
  | .stg .. => some true
  | _ => none

/-- The home of a granule of a region in a version, before any tier move: the capacity tier stands for itself (R122). -/
def State.homeLoc (s : State) (coach : Nat) (e : MapEntry) (ver addr : Nat) : Loc :=
  if e.home = 3 then
    .cap (dieOf coach) (s.capBase (dieOf coach) (s.gangOf coach).tenant * 4096 + (e.offg + addr / 4096 - e.baseg) * 4096 + addr % 4096)
  else s.locIn coach e ver addr

/-- The home granules of a range of context bytes. -/
def State.rangeGranules (s : State) (coach map ver a n : Nat) : List Nat :=
  (s.parts coach map a n).flatMap fun p =>
    match p.2.2 with
    | none => []
    | some e =>
      let lo := p.1 / 4096
      (span lo ((p.1 + p.2.1 + 4095) / 4096 - lo)).map fun g => (s.homeLoc coach e ver (g * 4096)).key / 4096

/-- The SRAM granules that a map of a coach homes, every version (R138). -/
def State.sramGranules (s : State) (coach map : Nat) : List Nat :=
  (s.mapOf coach map).flatMap fun e =>
    if e.home = 1 then
      (span e.baseg e.leng).flatMap fun g =>
        (List.range (1 + b2n e.shadow)).map fun v => (s.homeLoc coach e v (g * 4096)).key / 4096
    else []

/-- The home granules whose counters an entry holds; `onlyWrites` keeps the write counters (R131, R138). -/
def State.heldBy (s : State) (coach : Nat) (onlyWrites : Bool) (e : Entry) : List Nat :=
  match e.gathers with
  | some w => if w || !onlyWrites then s.sramGranules coach e.map else []
  | none =>
    (e.operands.filter fun o => o.1 || !onlyWrites).flatMap fun o => s.rangeGranules coach e.map e.ver o.2.1 o.2.2

/-- The entries of a core that are queued or in flight. -/
def Eng.inFlight (x : Eng) : List Entry :=
  x.ql ++ x.qm ++ x.qv ++ x.qs ++ x.qf ++ x.qk ++ x.run.map (·.e) ++ x.ops.map (·.e)

/-- The home granules whose write counters the outstanding remote writes of a core hold, parity members among them (R131, R318). -/
def State.postedGranules (s : State) (core : Nat) : List Nat :=
  ((s.coach (coachOf core)).fab.out.filter fun w => w.core == core).flatMap fun w =>
    w.loc.key / 4096 :: (w.par.toList.map fun p => p.key / 4096)

/-- The home granules whose counters a core holds: those of its entries, scalar accesses, outstanding remote writes, and stores whose mirror has
not performed yet (R131, R132, R173). -/
def State.heldGranules (s : State) (core : Nat) (onlyWrites : Bool) : List Nat :=
  (s.eng core).inFlight.flatMap (s.heldBy (coachOf core) onlyWrites) ++
    (((s.ctl core).acc.filter fun a => !onlyWrites || a.kind != .load).map fun a => a.loc.key / 4096) ++ s.postedGranules core ++
    ((s.coach (coachOf core)).ph.mirrors.filter fun m => m.core == core).map fun m => m.src.key / 4096

/-- Whether the counters of a storage granule of a coach are zero: no entry, access or write of its cores names it (R131). -/
def State.countersZero (s : State) (coach : Nat) (l : Loc) : Bool :=
  !((coresOf coach).any fun c => (s.heldGranules c false).contains (l.key / 4096))

/-! ## The shift set (R129) -/

/-- The versions of a region. -/
def MapEntry.versions (e : MapEntry) : List Nat := List.range (1 + b2n e.shadow)

/-- The current version of a coach's SHADOW regions: 1 − CV while a step is open, else CV (R129, R370). -/
def Coach.version (k : Coach) : Nat := if flag k.stepf 2 then 1 - b2n (flag k.stepf 3) else b2n (flag k.stepf 3)

/-- The writes of the shift set for one context granule that the target map covers (R129): destination and source by version. -/
def State.granuleWrites (s : State) (coach : Nat) (c : List MapEntry) (e : MapEntry) (g : Nat) : List (Loc × Option Loc) :=
  let home (r : MapEntry) (v : Nat) : Loc := s.homeLoc coach r v (g * 4096)
  let zero : List (Loc × Option Loc) := e.versions.map fun v => (home e v, none)
  match e.carry with
  | 0 =>
    match findEntry (s.gangOf coach) c (g * 4096) with
    | none => zero
    | some r =>
      if isRemote r then zero
      else
        let source (v : Nat) : Loc :=
          if r.shadow then (if e.shadow then home r v else home r (s.coach coach).version) else home r 0
        (e.versions.filter fun v => home e v != source v).map fun v => (home e v, some (source v))
  | 1 => zero
  | _ => []

/-- The home granules of every context granule of a map, every version, windows and stripe sets among them (R130). -/
def State.mapHomes (s : State) (coach : Nat) (m : List MapEntry) : List Nat :=
  m.flatMap fun e =>
    if e.present (s.gangOf coach) = false then []
    else (span e.baseg e.leng).flatMap fun g => e.versions.map fun v => (s.homeLoc coach e v (g * 4096)).key / 4096

/-- Put an entry at its place by base address. -/
def insertEntry (e : MapEntry) : List MapEntry → List MapEntry
  | [] => [e]
  | f :: t => if e.baseg < f.baseg then e :: f :: t else f :: insertEntry e t

/-- The entries of a map by rising address. -/
def byAddress : List MapEntry → List MapEntry
  | [] => []
  | e :: t => insertEntry e (byAddress t)

/-- The shift set from one map to another, by rising context address (R129, R130). -/
def State.shiftSet (s : State) (coach fromMap toMap : Nat) : List ShiftWrite :=
  let c := s.mapOf coach fromMap
  let homes := s.mapHomes coach c
  (byAddress (s.mapOf coach toMap)).flatMap fun e =>
    if e.present (s.gangOf coach) then
      (span e.baseg e.leng).flatMap fun g =>
        (s.granuleWrites coach c e g).map fun w =>
          { dst := w.1, src := w.2, wait := homes.contains (w.1.key / 4096) }
    else []

/-- The homes in the current map of LIVE granules whose home changes (R134). -/
def State.movedHomes (s : State) (coach fromMap toMap : Nat) : List Nat :=
  let c := s.mapOf coach fromMap
  (s.mapOf coach toMap).flatMap fun e =>
    if e.carry = 0 && e.present (s.gangOf coach) then
      (span e.baseg e.leng).flatMap fun g =>
        match findEntry (s.gangOf coach) c (g * 4096) with
        | none => []
        | some r =>
          (r.versions.filter fun v => !(e.versions.any fun u => s.homeLoc coach e u (g * 4096) == s.homeLoc coach r v (g * 4096))).map
            fun v => (s.homeLoc coach r v (g * 4096)).key / 4096
    else []

/-! ## The engine (R130) -/

/-- Whether a storage granule is read or written now by the shift engine: through the shift slot of its block, or the OPEN slots (R130, R146,
R182). -/
def State.granuleServed (s : State) (coach : Nat) (l : Loc) : Bool := s.served false (s.homeNow coach l) 4096

/-- Whether the source of a write is served now; a zeroing has none. -/
def State.sourceServed (s : State) (coach : Nat) (w : ShiftWrite) : Bool :=
  match w.src with
  | some l => s.granuleServed coach l
  | none => true

/-- Whether a write of the shift set may be performed now: one that waits, once every core has reached ph.adv; each, once its storage is
released, so no access still in flight names it (R130, R131, R135, R138). -/
def State.writeReady (s : State) (coach : Nat) (w : ShiftWrite) : Bool :=
  (!w.wait || decide ((s.coach coach).ph.reach.length = 16)) && s.countersZero coach w.dst && s.granuleServed coach w.dst &&
    s.sourceServed coach w

/-- The next write of the shift set: those that need not wait come first, each kind by rising address (R130; the order of the two kinds is
DEDUCED, log 16). -/
def State.nextWrite (s : State) (coach : Nat) : Option ShiftWrite :=
  let l := (s.coach coach).ph.work
  let first := match l.find? fun w => !w.wait with
    | some w => some w
    | none => l.head?
  first.filter (s.writeReady coach)

/-- Perform one granule write: copy the source as it stands in `m`, or write zeros (R129, R130). The slots of its blocks are taken for the
granule's 64 units, and a resident tier page has been written (R146, R189). -/
def State.doWrite (s : State) (m : Mem) (coach : Nat) (w : ShiftWrite) : State :=
  let dst := s.homeNow coach w.dst
  let s1 := (match w.src with
    | some l => { s with mem := s.mem.write dst.key (m.read (s.homeNow coach l).key 4096) }
    | none => { s with mem := s.mem.clear dst.key 4096 } : State)
  let s2 := (s1.takeSlot false dst 64).notePages [dst.key / 4096]
  match w.src with
  | some l => s2.takeSlot false (s.homeNow coach l) 64
  | none => s2

/-- The next write of a step copy: it waits until the counters of its destination are zero, as in a shift, and for the epoch of a
shift (R371). -/
def State.nextCopy (s : State) (coach : Nat) : Option ShiftWrite :=
  (s.coach coach).ph.stepWork.head?.filter fun w =>
    s.countersZero coach w.dst && s.granuleServed coach w.dst && s.sourceServed coach w

/-- Perform a write of the step copy of a coach: it reads the source as it stood at the start of the cycle (R149). -/
def State.copyStep (s : State) (coach : Nat) (w : ShiftWrite) : State :=
  let d := (s.doWrite s.was coach w).delay 0xFFFFFFFF
  let k := d.2.coach coach
  d.2.setCoach coach { k with ph := { k.ph with stepWork := k.ph.stepWork.filter (fun x => x != w), due := s.cyc + 1 + d.1 } }

/-- Perform a write of the shift set of a coach. The granule is read with the stores of the cycle in it: the copy of what stood at its start and
the mirrors of those stores come to the same; what landings of the cycle have written over is read as it stood (R130, R132, R144, R149). -/
def State.copyShift (s : State) (coach : Nat) (w : ShiftWrite) : State :=
  let d := (s.doWrite (s.mem.writeCells (s.coach coach).landed) coach w).delay 0xFFFFFFFF
  let k := d.2.coach coach
  let copied := match w.src with
    | some l => k.ph.copied ++ [(l, w.dst)]
    | none => k.ph.copied
  d.2.setCoach coach
    { k with ph := { k.ph with work := k.ph.work.filter (fun x => x != w), copied := copied, due := s.cyc + 1 + d.1 } }

/-- The places of a mirror's bytes at the new home of its granule (R132). -/
def State.mirrorAt (s : State) (coach : Nat) (m : Mirror) : List Host.Cell :=
  m.cells.map fun c => ((s.homeNow coach (m.dst.add c.1)).key, c.2)

/-- Whether a mirror is performed now, through the OPEN slots of its bytes (R132, R182). -/
def State.mirrorServed (s : State) (coach : Nat) (m : Mirror) : Bool :=
  m.cells.all fun c => s.served false (s.homeNow coach (m.dst.add c.1)) 1

/-- The mirrors that wait, oldest first, perform up to the first that no window serves (R132). -/
def State.flushMirrors (s : State) (coach : Nat) : State :=
  let k := s.coach coach
  match k.ph.mirrors with
  | [] => s
  | l =>
    let cells := (l.takeWhile (s.mirrorServed coach)).flatMap (s.mirrorAt coach)
    let s1 := { (s.setCoach coach { k with ph := { k.ph with mirrors := l.dropWhile (s.mirrorServed coach) } }) with
      mem := s.mem.writeCells cells }
    s1.notePages (cells.map fun c => c.1 / 4096).eraseDups

/-- SHIFT_GRANULE_WRITE (R130, R132, R371): the phase-shift engine of a coach performs the mirrors that wait, and one write of its shift set, or,
with no shift under way, of its step copy. -/
def execShiftGranuleWrite (coach : Nat) (s : State) : Host.Outcome State Fault Refusal :=
  if (s.coach coach).stand ≠ .running then .next s
  else
    let s1 := s.flushMirrors coach
    let k := s1.coach coach
    if s.cyc < k.ph.due then .next s1
    else if k.ph.prep then
      match s1.nextWrite coach with
      | none => .next s1
      | some w => .next (s1.copyShift coach w)
    else
      match s1.nextCopy coach with
      | none => .next s1
      | some w => .next (s1.copyStep coach w)

/-! ## ph.prep and ph.adv -/

/-- A phase fault with its CAUSE (R127, R133, R134). -/
def State.phaseFault (s : State) (cause : Nat) : State := s.raise s.me 0x25 (s.place52 ||| mkFld 16 4 cause)

/-- The map number that an instruction names: (sa[3:0] + imm16[3:0]) mod 16 (R133). -/
def State.mapNumber (s : State) (a : Reg) (n : BitVec 4) : Nat := (fld (s.reg a) 0 4 + n.toNat) % 16

/-- Whether a core is exited: it counts as arrived from then on (R128, R377). -/
def Ctl.hasExited (c : Ctl) : Bool := c.stand == .exited

/-- The exited cores of a coach. -/
def State.exitedCores (s : State) (coach : Nat) : List Nat := (coresOf coach).filter fun c => (s.ctl c).hasExited

/-- `ph.prep` (R133): the first one starts the shift; a handler fault in the handler (R168). -/
def execPhPrep (a : Reg) (n : BitVec 4) (s : State) : Host.Outcome State Fault Refusal :=
  .next (s.notInHandler fun s =>
    let kc := coachOf s.me
    let k := s.coach kc
    let m := s.mapNumber a n
    if k.phases.length ≤ m then s.phaseFault 0
    else if k.ph.prep then (if m = k.ph.pht then s else s.phaseFault 1)
    else
      let out := s.exitedCores kc
      let now := s.mapNow s.me
      let d := s.delay 0xFFFFFFFF
      d.2.setCoach kc
        { k with ph := { k.ph with pht := m, prep := true, from_ := now, reach := out, ndone := out.length,
                                   work := s.shiftSet kc now m, copied := [], due := s.cyc + 1 + d.1 } })

/-- `ph.adv` (R134): the core has reached, and is blocked until the map is true; a handler fault in the handler (R168). -/
def execPhAdv (a : Reg) (n : BitVec 4) (s : State) : Host.Outcome State Fault Refusal :=
  .next (s.notInHandler fun s =>
    let kc := coachOf s.me
    let k := s.coach kc
    let m := s.mapNumber a n
    if k.ph.prep = false ∨ m ≠ k.ph.pht then s.phaseFault 2
    else if k.ph.reach.contains s.me then s.phaseFault 3
    else (s.setCoach kc { k with ph := { k.ph with reach := k.ph.reach ++ [s.me] } }).setBlock .phAdv)

/-- The epoch completes when sixteen cores are done (R135). Where every core has exited with writes of the shift set still pending, they are
dropped with it and PEND is 0 (DESIGN CHOICE, log 91). -/
def Phase.settle (p : Phase) : Phase :=
  if p.prep && decide (16 ≤ p.ndone) then { p with prep := false, reach := [], ndone := 0, copied := [], work := [] } else p

/-- A core counts as reached and done, if it does not yet (R128, R144). -/
def Phase.countExit (p : Phase) (core : Nat) : Phase :=
  if p.prep && !p.reach.contains core then Phase.settle { p with reach := p.reach ++ [core], ndone := p.ndone + 1 } else p

/-- Whether a core's ph.adv may complete (R134): its coach runs, for a core that has stopped stays where it stands (R144, R361). -/
def State.advReady (s : State) (core : Nat) : Bool :=
  let kc := coachOf core
  let k := s.coach kc
  k.stand == .running && (s.ctl core).blocks.contains .phAdv && k.ph.prep && k.ph.work.isEmpty &&
    !((s.heldGranules core true).any fun g => (s.movedHomes kc k.ph.from_ k.ph.pht).contains g)

/-- PH_ADV_COMPLETE (R134, R135): the core stands on the target map; the sixteenth completes the epoch. -/
def execPhAdvComplete (core : Nat) (s : State) : Host.Outcome State Fault Refusal :=
  if s.advReady core then
    let kc := coachOf core
    let k := s.coach kc
    let s1 := s.setCtl core (((s.ctl core).setSr 0x020 (mkFld 0 4 k.ph.pht)).unblock fun b => b == .phAdv)
    .next (s1.setCoach kc { k with ph := Phase.settle { k.ph with ndone := k.ph.ndone + 1 } })
  else .next s

end Sys2Proof.Machine
end

