-- ==== Sys2Proof/Machine/Kv.lean ====
section
/-! DEFINITION. The context engine: sequence pools, nodes and paths (R285 to R293), and the K queue (R294 to R305). -/

namespace Sys2Proof.Machine

/-! ## Pools (R285, R286) -/

/-- KVPA of a pool of a tenant: BASEG. -/
def Die.kvBase (d : Die) (tenant p : Nat) : Nat := fld (d.regs.get (tenant * 65536 + 0x200 + 16 * p)) 0 30

/-- KVPB of a pool of a tenant. -/
def Die.kvpb (d : Die) (tenant p : Nat) : Word := d.regs.get (tenant * 65536 + 0x208 + 16 * p)

/-- Granules of a page group: layers times granules of a page (R285, R286). -/
def kvGroupGranules (b : Word) : Nat := (fld b 48 8 + 1) * 2 ^ fld b 40 4

/-- The key of a pool of a tenant. -/
def poolKey (tenant p : Nat) : Nat := tenant * 4 + p

/-- A sequence value names a pool and an id when its bits 63:18 are zero (R287). -/
def seqOf (v : Nat) : Option (Nat × Nat) := if v < 2 ^ 18 then some (v / 2 ^ 16, v % 2 ^ 16) else none

/-! ## Nodes and paths (R287, R288) -/

/-- The groups that hold tokens a to b - 1 of a node. -/
def Node.slice (n : Node) (a b : Nat) : List Nat :=
  (n.groups.drop ((n.off + a) / 16)).take ((n.off + b - 1) / 16 - (n.off + a) / 16 + 1)

/-- Tokens a to b - 1 of a node, as a node (R291). -/
def Node.cut (n : Node) (a b : Nat) : Node :=
  { n with spos := n.spos + a, len := b - a, off := (n.off + a) % 16, groups := n.slice a b }

/-- A node of a pool. -/
def Pool.node (p : Pool) (i : Nat) : Option Node := lookup? p.nodes i

/-- The live entries of a sequence with their nodes and first effective positions, in path order (R288). -/
def Pool.liveEntries (p : Pool) (q : Seq) : List (PathEntry × Node × Nat) :=
  q.path.filterMap fun e =>
    match p.node e.node with
    | some n => if e.ret then none else some (e, n, ((n.spos : Int) + e.delta).toNat)
    | none => none

/-- Whether some node holds a slot of a group: its LIVE mask is not 0 (R287). -/
def Pool.groupLive (p : Pool) (g : Nat) : Bool := p.nodes.any fun n => n.2.groups.contains g

/-- Free groups that no node holds and no walk holds; they join the tail of the free list (R289, R291). -/
def Pool.freeGroups (p : Pool) : List Nat → Pool
  | [] => p
  | g :: rest =>
    let out := !p.groupLive g && lookupD 0 p.holds g == 0 && !p.free.contains g
    Pool.freeGroups (if out then { p with free := p.free ++ [g], fill := dropKey p.fill g } else p) rest

/-- Lower a node's REF; at 0 the node is freed (R291). -/
def Pool.unref (p : Pool) (i : Nat) : Pool :=
  match p.node i with
  | none => p
  | some n =>
    if n.ref ≤ 1 then Pool.freeGroups { p with nodes := dropKey p.nodes i } n.groups
    else { p with nodes := putKey p.nodes i { n with ref := n.ref - 1 } }

/-- Replace a node by its pieces at the bounds a and b in every path that names it; the piece that begins at a (R291). -/
def Pool.split (p : Pool) (i a b : Nat) : Pool × Nat :=
  match p.node i with
  | none => (p, i)
  | some n =>
    let cuts := [(0, a), (a, b), (b, n.len)].filter fun c => decide (c.1 < c.2)
    if cuts.length ≤ 1 then (p, i)
    else
      let ids := span p.fresh cuts.length
      let pieces := ids.zip cuts
      let nodes := pieces.foldl (fun t x => putKey t x.1 (n.cut x.2.1 x.2.2)) (dropKey p.nodes i)
      let entry (e : PathEntry) : List PathEntry := if e.node = i then ids.map fun j => { e with node := j } else [e]
      let mid := match pieces.find? fun x => x.2.1 == a with
        | some x => x.1
        | none => i
      ({ p with nodes := nodes, fresh := p.fresh + cuts.length,
                seqs := p.seqs.map fun s => (s.1, { s.2 with path := s.2.path.flatMap entry }) }, mid)

/-- Mark the entry of a node as retired and, when positions close, lower the DELTA of every later entry (R291, R292). -/
def retirePath (i len : Nat) (close : Bool) : List PathEntry → List PathEntry
  | [] => []
  | e :: rest =>
    if e.node = i ∧ e.ret = false then
      { e with ret := true } :: (if close then rest.map fun x => { x with delta := x.delta - (len : Int) } else rest)
    else e :: retirePath i len close rest

/-- Retire tokens a to b - 1 of a live entry's node in a sequence (R291, R292). -/
def Pool.retire (p : Pool) (id i a b : Nat) (close : Bool) : Pool :=
  let (p1, mid) := p.split i a b
  match lookup? p1.seqs id with
  | none => p
  | some q =>
    let p2 := { p1 with seqs := putKey p1.seqs id { q with path := retirePath mid (b - a) close q.path } }
    p2.unref mid

/-- Whether every path has at most 1024 entries and the die at most 2^20 nodes (R287). -/
def Pool.fits (p : Pool) (others : Nat) : Bool :=
  (p.seqs.all fun s => decide (s.2.path.length ≤ 1024)) && decide (p.nodes.length + others ≤ 2 ^ 20)

/-! ## Appending (R289) -/

/-- Take the first free group that no walk holds. -/
def Pool.take (p : Pool) : Option (Nat × Pool) :=
  match p.free.find? fun g => lookupD 0 p.holds g == 0 with
  | none => none
  | some g => some (g, { p with free := p.free.filter fun x => x != g })

/-- Whether a slot of a group has never been used: a slot freed in a group that is still live is not used again (R289). -/
def Pool.slotNew (p : Pool) (g slot : Nat) : Bool := decide (lookupD 0 p.fill g ≤ slot)

/-- Append one token to a sequence (R289). A node whose next slot has been used, or that holds 2^31 tokens, is not extended: the token starts a new
node, in a new group where the slot has been used (R287, R289; DEDUCED, log 56). -/
def Pool.place (p : Pool) (id others : Nat) : Option Pool :=
  match lookup? p.seqs id with
  | none => none
  | some q =>
    let last : Option (PathEntry × Node) :=
      match q.path.getLast? with
      | none => none
      | some e => (p.node e.node).map fun n => (e, n)
    let put (p : Pool) (path : List PathEntry) (g slot : Nat) : Pool :=
      { p with seqs := putKey p.seqs id { q with path := path, next := q.next + 1 }, fill := putKey p.fill g (slot + 1) }
    let fresh (p : Pool) (off : Nat) (g : Nat) : Option Pool :=
      let n : Node := { spos := q.next, len := 1, tag := q.tag, num := q.num, off := off, groups := [g], ref := 1 }
      let p1 := put { p with nodes := putKey p.nodes p.fresh n, fresh := p.fresh + 1 }
        (q.path ++ [{ node := p.fresh, delta := 0, ret := false }]) g off
      if p1.fits others then some p1 else none
    let alone : Option Pool :=
      match p.take with
      | none => none
      | some (g, p1) => fresh p1 0 g
    match last with
    | none => alone
    | some (e, n) =>
      let slot := (n.off + n.len) % 16
      let grown (p : Pool) (groups : List Nat) (g : Nat) : Option Pool :=
        some (put { p with nodes := putKey p.nodes e.node { n with len := n.len + 1, groups := groups } } q.path g slot)
      let extends_ := !e.ret && n.ref == 1 && n.num == q.num && q.next == n.spos + n.len && decide (n.len < 2 ^ 31)
      match n.groups.getLast? with
      | some g =>
        if slot = 0 then
          if extends_ then
            match p.take with
            | none => none
            | some (h, p1) => grown p1 (n.groups ++ [h]) h
          else alone
        else if n.ref = 1 ∧ p.slotNew g slot = true then (if extends_ then grown p n.groups g else fresh p slot g)
        else alone
      | none => alone

/-- Append n tokens, or none of them (R298). -/
def Pool.append (p : Pool) (id others : Nat) : Nat → Option Pool
  | 0 => some p
  | n + 1 =>
    match p.place id others with
    | none => none
    | some p1 => p1.append id others n

/-! ## Ranges (R299) -/

/-- The range of a range value: 0 is every position; none when P1 ≤ P0 (R299). -/
def rangeOf (v : Word) : Option (Nat × Nat) :=
  if v = 0 then some (0, 2 ^ 64)
  else
    let a := fld v 0 32
    let b := fld v 32 32
    if b ≤ a then none else some (a, b)

/-- The tokens of a live entry whose effective positions lie in a range: first, and one past the last. -/
def cutRange (first len a b : Nat) : Nat × Nat :=
  (Nat.max a first - first, Nat.min b (first + len) - first)

/-- The runs of a sequence's live entries in a range, in path order: node, first token, one past the last. -/
def Pool.runs (p : Pool) (q : Seq) (ok : Node → Bool) (a b : Nat) : List (Nat × Nat × Nat) :=
  (p.liveEntries q).filterMap fun x =>
    let c := cutRange x.2.2 x.2.1.len a b
    if ok x.2.1 && decide (c.1 < c.2) then some (x.1.node, c.1, c.2) else none

/-- Retire runs in path order. -/
def Pool.retireAll (p : Pool) (id : Nat) (close : Bool) (runs : List (Nat × Nat × Nat)) : Pool :=
  runs.foldl (fun p r => p.retire id r.1 r.2.1 r.2.2 close) p

/-- The tokens of a list of runs. -/
def runTokens (runs : List (Nat × Nat × Nat)) : Nat := runs.foldl (fun n r => n + (r.2.2 - r.2.1)) 0

/-! ## Operations on a pool: the new pool, the value and the status -/

/-- BADARG, with no effect (R296). -/
def badArg (p : Pool) : Pool × Nat × Nat := (p, 0, 7)

/-- NOSPACE, with no effect (R296). -/
def noSpace (p : Pool) : Pool × Nat × Nat := (p, 0, 6)

/-- span.open (R297). -/
def Pool.open_ (p : Pool) (id tag : Nat) : Pool × Nat × Nat :=
  match lookup? p.seqs id with
  | none => badArg p
  | some q => ({ p with seqs := putKey p.seqs id { q with tag := tag, num := q.num + 1 } }, q.num + 1, 0)

/-- span.app (R298). -/
def Pool.app (p : Pool) (id n others : Nat) : Pool × Nat × Nat :=
  match lookup? p.seqs id with
  | none => badArg p
  | some q =>
    if q.num = 0 ∨ n = 0 ∨ 4096 < n then badArg p
    else
      match p.append id others n with
      | none => noSpace p
      | some p1 => (p1, q.next, 0)

/-- span.rt (R299). -/
def Pool.rt (p : Pool) (id tag : Nat) (close : Bool) (range : Word) (others : Nat) : Pool × Nat × Nat :=
  match lookup? p.seqs id, rangeOf range with
  | some q, some (a, b) =>
    let runs := p.runs q (fun n => n.tag == tag) a b
    let p1 := p.retireAll id close runs
    let l := runTokens runs
    let p2 := match lookup? p1.seqs id with
      | some q1 => if close then { p1 with seqs := putKey p1.seqs id { q1 with next := q1.next - l } } else p1
      | none => p1
    if p2.fits others then (p2, l, 0) else noSpace p
  | _, _ => badArg p

/-- kv.fork.new (R302). -/
def Pool.forkNew (p : Pool) (id : Nat) : Pool × Nat × Nat :=
  if hasKey p.seqs id then badArg p
  else ({ p with seqs := putKey p.seqs id { path := [], next := 0, tag := 0, num := 0 } }, 0, 0)

/-- kv.fork (R302). -/
def Pool.fork (p : Pool) (dst src : Nat) (pos : Nat) (others : Nat) : Pool × Nat × Nat :=
  match lookup? p.seqs src with
  | none => badArg p
  | some q =>
    if hasKey p.seqs dst then badArg p
    else
      let live := p.liveEntries q
      let liveEnd := match live.getLast? with
        | some x => x.2.2 + x.2.1.len
        | none => 0
      let runs := p.runs q (fun _ => true) 0 pos
      let p1 := runs.foldl (fun p r => (p.split r.1 r.2.1 r.2.2).1) p
      match lookup? p1.seqs src with
      | none => badArg p
      | some q1 =>
        let keep := (p1.liveEntries q1).filter fun x => decide (x.2.2 < pos)
        let nodes := keep.foldl (fun t x => putKey t x.1.node { x.2.1 with ref := x.2.1.ref + 1 }) p1.nodes
        let q2 : Seq := { path := keep.map (·.1), next := Nat.min pos liveEnd, tag := 0, num := 0 }
        let p2 := { p1 with nodes := nodes, seqs := putKey p1.seqs dst q2 }
        if p2.fits others then (p2, runTokens runs, 0) else noSpace p

/-- kv.drop (R303). -/
def Pool.drop (p : Pool) (id : Nat) : Pool × Nat × Nat :=
  match lookup? p.seqs id with
  | none => badArg p
  | some q =>
    let runs := p.runs q (fun _ => true) 0 (2 ^ 64)
    let groups := ((p.liveEntries q).flatMap fun x => x.2.1.groups).eraseDups
    let p1 := p.retireAll id false runs
    let p2 := { p1 with seqs := dropKey p1.seqs id }
    (p2, (groups.filter fun g => !p2.groupLive g).length, 0)

/-- The token at an effective position of a sequence: its group and slot word, the ROT, and the group (R288, R300). -/
def Pool.resolve (p : Pool) (q : Seq) (pos : Nat) : Option (Nat × Int × Nat) :=
  match (p.liveEntries q).find? fun x => decide (x.2.2 ≤ pos) && decide (pos < x.2.2 + x.2.1.len) with
  | none => none
  | some x =>
    let s := x.2.1.off + (pos - x.2.2)
    let g := nthD 0 x.2.1.groups (s / 16)
    some (g * 16 + s % 16, -x.1.delta, g)

/-- The groups that hold the live positions of a range (R304). -/
def Pool.hinted (p : Pool) (q : Seq) (a b : Nat) : List Nat :=
  ((p.liveEntries q).flatMap fun x =>
    let c := cutRange x.2.2 x.2.1.len a b
    if c.1 < c.2 then x.2.1.slice c.1 c.2 else []).eraseDups

/-! ## Plans (R301) -/

/-- The stretches of contiguous live effective positions of a sequence: first position and length. -/
def joinRuns : List (Nat × Nat) → List (Nat × Nat)
  | [] => []
  | r :: rest =>
    match joinRuns rest with
    | [] => [r]
    | x :: t => if r.1 + r.2 = x.1 then (r.1, r.2 + x.2) :: t else r :: x :: t

/-- The stretches of a sequence, ascending. -/
def Pool.stretches (p : Pool) (q : Seq) : List (Nat × Nat) := joinRuns ((p.liveEntries q).map fun x => (x.2.2, x.2.1.len))

/-- A segment of a plan: sequence value, first position, count, block, offset within the block. -/
structure Segment where
  seq   : Nat
  pos   : Nat
  count : Nat
  blk   : Nat
  off   : Nat
  deriving DecidableEq, Repr

/-- Cut a stretch that starts at token `o` of the batch into the segments of its blocks of `b` tokens. The fuel is one more than the
blocks. -/
def cutStretch (b seq : Nat) : Nat → Nat → Nat → Nat → List Segment
  | 0, _, _, _ => []
  | f + 1, o, pos, len =>
    if len = 0 then []
    else
      let n := Nat.min len (b - o % b)
      { seq := seq, pos := pos, count := n, blk := o / b, off := o % b } :: cutStretch b seq f (o + n) (pos + n) (len - n)

/-- The segments of the stretches of a batch. -/
def cutAll (b nb : Nat) : Nat → List (Nat × Nat × Nat) → List Segment
  | _, [] => []
  | o, (seq, pos, len) :: rest => cutStretch b seq (nb + 1) o pos len ++ cutAll b nb (o + len) rest

/-- Little-endian bytes of a doubleword of two halves. -/
def pair32 (lo hi : Nat) : List Byte := bytesOf 4 lo ++ bytesOf 4 hi

/-- The pieces of a plan table: offset and bytes (R301). -/
def planTable (b nc nb : Nat) (segs : List Segment) : List (Nat × List Byte) :=
  let first (c : Nat) : Nat := c * nb / nc
  let head := pair32 nb segs.length ++ bytesOf 8 (b + nc * 65536) ++ List.replicate 48 0
  let cores := (List.range 16).flatMap fun c => if c < nc then pair32 (first c) (first (c + 1) - first c) else List.replicate 8 0
  let blocks := (List.range nb).flatMap fun i =>
    let before := (segs.filter fun g => decide (g.blk < i)).length
    let n := (segs.filter fun g => g.blk == i).length
    bytesOf 4 (before + n * 65536)
  let recs := segs.flatMap fun g => pair32 g.seq g.pos ++ bytesOf 8 (g.count + g.off * 65536 + g.blk * 2 ^ 32)
  [(0, head ++ cores), (192, blocks), (4288, recs)]

/-! ## Application -/

/-- Nodes of the pools of a die other than one (R287). -/
def Die.otherNodes (d : Die) (key : Nat) : Nat :=
  (d.pools.filter fun p => p.1 != key).foldl (fun n p => n + p.2.nodes.length) 0

/-- A pool of a tenant. -/
def Die.pool (d : Die) (key : Nat) : Pool := lookupD Pool.reset d.pools key

/-- Reset the hints of the pages of groups that have been freed (R305). -/
def Die.dropHints (d : Die) (tenant p : Nat) (groups : List Nat) : Die :=
  let b := d.kvpb tenant p
  let n := kvGroupGranules b
  let one (d : Die) (i : Nat) : Die :=
    let key := pageKey tenant i
    if hasKey d.pages key then
      { d with pages := putKey d.pages key { lookupD Page.reset d.pages key with prio := 0, next := 0xFFFFFFFF } }
    else d
  groups.foldl (fun d g => (span (d.kvBase tenant p + g * n) n).foldl one d) d

/-- Give the pages of groups a priority and a next-use value (R304). -/
def Die.hint (d : Die) (tenant p prio next : Nat) (groups : List Nat) : Die :=
  let n := kvGroupGranules (d.kvpb tenant p)
  let one (d : Die) (i : Nat) : Die :=
    let key := pageKey tenant i
    { d with pages := putKey d.pages key { lookupD Page.reset d.pages key with prio := prio, next := next } }
  groups.foldl (fun d g => (span (d.kvBase tenant p + g * n) n).foldl one d) d

/-- Replace a pool; pages of groups that became free lose their hints. -/
def Die.putPool (d : Die) (tenant p : Nat) (x : Pool) : Die :=
  let old := d.pool (poolKey tenant p)
  let freed := x.free.filter fun g => !old.free.contains g
  ({ d with pools := putKey d.pools (poolKey tenant p) x }).dropHints tenant p freed

/-- Whether a pool is in use: EN is 1, and the pool that a cleared EN left behind has been discarded; until then an operation meets it as one with
EN 0 (R285, R296; DESIGN CHOICE, log 94). -/
def Die.poolOn (d : Die) (tenant p : Nat) : Bool := flag (d.kvpb tenant p) 63 && !(d.pool (poolKey tenant p)).closing

/-- Apply an operation to the pool that a sequence value names: BADARG for a bad value or a pool with EN 0 (R296). -/
def State.onPool (s : State) (die tenant : Nat) (v : Nat) (f : Pool → Nat → Nat → Pool × Nat × Nat) : State × Nat × Nat :=
  match seqOf v with
  | none => (s, 0, 7)
  | some (p, id) =>
    let d := s.die die
    if d.poolOn tenant p then
      let key := poolKey tenant p
      let r := f (d.pool key) id (d.otherNodes key)
      (s.setDie die (d.putPool tenant p r.1), r.2.1, r.2.2)
    else (s, 0, 7)

/-- The sequence that a value names, in a pool in use, with the pool's number. -/
def State.seqAt (s : State) (die tenant v : Nat) : Option (Nat × Pool × Seq) :=
  match seqOf v with
  | none => none
  | some (p, id) =>
    let d := s.die die
    let x := d.pool (poolKey tenant p)
    if d.poolOn tenant p then (lookup? x.seqs id).map fun q => (p, x, q) else none

/-- The sequence values of a batch line: up to 0xFFFF_FFFF or cell 63 (R301). -/
def batchOf (cells : List Nat) : List Nat := (cells.takeWhile fun c => c != 0xFFFFFFFF).take 64

/-- A K operation is applied: its new state, with its value, status and results kept in the operation (R294 to R304). -/
def State.applyK (s : State) (core : Nat) (o : Op) : State × Op :=
  let die := dieOf (coachOf core)
  let tenant := (s.gangOf (coachOf core)).tenant
  let e := o.e
  let plain (r : State × Nat × Nat) : State × Op := (r.1, { o with done := true, val := r.2.1, stat := r.2.2 })
  match e.ins with
  | .spanOpen tag _ _ => plain (s.onPool die tenant e.v0.toNat fun p id _ => p.open_ id tag.toNat)
  | .spanApp _ _ _ => plain (s.onPool die tenant e.v0.toNat fun p id n => p.app id e.v1.toNat n)
  | .spanRt mode tag _ _ _ => plain (s.onPool die tenant e.v0.toNat fun p id n => p.rt id tag.toNat (mode == 1) e.v1 n)
  | .kvDrop _ _ => plain (s.onPool die tenant e.v0.toNat fun p id _ => p.drop id)
  | .kvFork m _ _ _ _ =>
    if m = 1 then plain (s.onPool die tenant e.v0.toNat fun p id _ => p.forkNew id)
    else
      match seqOf e.v0.toNat, seqOf e.v1.toNat with
      | some (a, _), some (b, src) =>
        if a = b then plain (s.onPool die tenant e.v0.toNat fun p id n => p.fork id src e.v2.toNat n) else plain (s, 0, 7)
      | _, _ => plain (s, 0, 7)
  | .kvHint prio _ _ _ _ =>
    match s.seqAt die tenant e.v0.toNat, rangeOf e.v1 with
    | some (p, x, q), some (a, b) =>
      if fld e.v2 32 32 = 0 then
        let groups := x.hinted q a b
        plain (s.setDie die ((s.die die).hint tenant p prio.toNat (fld e.v2 0 32) groups), groups.length, 0)
      else plain (s, 0, 7)
    | _, _ => plain (s, 0, 7)
  | .kvWalk m g _ _ _ =>
    match s.seqAt die tenant e.v0.toNat with
    | none => plain (s, 0, 7)
    | some (p, x, q) =>
      let found := o.data.map fun i => if i = 0xFFFFFFFF then none else x.resolve q i
      let out := found.map fun r => match r with
        | some t => BitVec.ofNat 32 t.1
        | none => 0xFFFFFFFF
      let rot := found.map fun r => match r with
        | some t => BitVec.ofInt 32 t.2.1
        | none => 0
      let groups := found.filterMap fun r => r.map (·.2.2)
      let d := s.die die
      let holds := groups.foldl (fun t i => putKey t i (lookupD 0 t i + 1)) x.holds
      let s1 := s.setDie die { d with pools := putKey d.pools (poolKey tenant p) { x with holds := holds } }
      let line := GridOp.ofBits g
      let all := BitVec.allOnes 64
      let cells := if m = 0 then lineWrites line all out ++ lineWrites (gridNext line 1) all rot else []
      let bytes := if m = 0 then []
        else s.ctxCells (coachOf core) e.ver (s.parts (coachOf core) e.map e.v1.toNat 512) (lineBytes out ++ lineBytes rot)
      (s1, { o with done := true, val := groups.length, stat := 0, cells := cells, bytes := bytes, data := groups })
  | .kvPlan blk nc _ _ _ =>
    let seqs := (batchOf o.data).map fun v => (v, s.seqAt die tenant v)
    if seqs.any fun x => x.2.isNone then plain (s, 0, 7)
    else
      let runs := seqs.flatMap fun x => match x.2 with
        | some (_, p, q) => (p.stretches q).map fun r => (x.1, r.1, r.2)
        | none => []
      let b := 16 * 2 ^ blk.toNat
      let nb := (runs.foldl (fun n r => n + r.2.2) 0 + b - 1) / b
      if 1024 < nb then plain (s, 0, 7)
      else
        let segs := cutAll b nb 0 runs
        if 2048 < segs.length then plain (s, 0, 7)
        else
          let bytes := (planTable b (nc.toNat + 1) nb segs).flatMap fun t =>
            s.ctxCells (coachOf core) e.ver (s.parts (coachOf core) e.map (e.v0.toNat + t.1) t.2.length) t.2
          (s, { o with done := true, val := nb, stat := 0, bytes := bytes })
  | _ => plain (s, 0, 7)

/-- The pools of a tenant that a K operation names (R285). -/
def Op.pools (o : Op) : List Nat :=
  let of (v : Nat) : List Nat := match seqOf v with
    | some (p, _) => [p]
    | none => []
  match o.e.ins with
  | .kvPlan .. => (batchOf o.data).flatMap of
  | .kvFork .. => of o.e.v0.toNat ++ of o.e.v1.toNat
  | _ => of o.e.v0.toNat

/-- Whether a K operation on a pool of a tenant is in flight on a die (R285). -/
def State.poolBusy (s : State) (die tenant p : Nat) : Bool :=
  (span (die * 128) 128).any fun c =>
    (s.gangOf (coachOf c)).tenant == tenant && ((s.eng c).ops.any fun o => o.q == .k && o.pools.contains p)

/-- A pool as setting EN starts it: empty, with every group on the free list in ascending order (R285). -/
def startPool (kvpb : Word) : Pool := { Pool.reset with free := List.range (fld kvpb 0 28) }

/-- Discard the pools whose EN has been cleared and that no K operation uses any more; one whose EN has been set again meanwhile then starts
empty (R285). -/
def State.settlePools (s : State) (die tenant : Nat) : State :=
  (List.range 4).foldl (fun s p =>
    let d := s.die die
    let key := poolKey tenant p
    if (d.pool key).closing && !s.poolBusy die tenant p then
      s.setDie die { d with
        pools := if flag (d.kvpb tenant p) 63 then putKey d.pools key (startPool (d.kvpb tenant p)) else dropKey d.pools key }
    else s) s

/-- The pools of a die that are still to be discarded are discarded once they can be, also when their last operation has gone with its context (R38,
R285). -/
def State.settleClosing (s : State) (die : Nat) : State :=
  (((s.die die).pools.filter fun p => p.2.closing).map fun p => p.1 / 4).eraseDups.foldl (fun s t => s.settlePools die t) s

/-- Release the holds of a walk; groups that nothing holds any more are freed (R291, R300). -/
def Pool.release (p : Pool) (groups : List Nat) : Pool :=
  let holds := groups.foldl (fun t g => putKey t g (lookupD 0 t g - 1)) p.holds
  Pool.freeGroups { p with holds := holds.filter fun h => h.2 != 0 } groups

/-- The holds of a walk of a core that has been applied are released (R291, R300). -/
def State.releaseWalk (s : State) (core : Nat) (o : Op) : State :=
  let die := dieOf (coachOf core)
  let tenant := (s.gangOf (coachOf core)).tenant
  match o.e.ins, seqOf o.e.v0.toNat with
  | .kvWalk .., some (p, _) =>
    if o.done ∧ o.stat = 0 then s.setDie die ((s.die die).putPool tenant p (((s.die die).pool (poolKey tenant p)).release o.data)) else s
  | _, _ => s

/-- A K operation that has been applied completes with the last unit of its results: its holds are released, its word is updated (R294, R300). -/
def State.completeK (s : State) (core : Nat) (o : Op) : State :=
  let s1 := s.landUnit core o o.bytes
  let d := s1.dat core
  let s2 := s1.setDat core { d with grid := d.grid.puts o.cells }
  ((s2.releaseWalk core o).finishOp core o o.val o.stat).settlePools (dieOf (coachOf core)) (s.gangOf (coachOf core)).tenant

/-- A K operation that has been applied writes the next unit of its results, once the slot of its block serves it (R146, R294). -/
def State.resultK (s : State) (core : Nat) (o : Op) : State :=
  if s.cellsServed (o.unit o.bytes) = false then s
  else if o.lastUnit o.bytes then s.completeK core o
  else (s.landUnit core o o.bytes).nextUnit core o (o.unitSize o.bytes)

/-! ## The instructions -/

/-- Enqueue a K instruction on register values, or start it: `data` is what it reads at issue (R294, R295). -/
def State.kForm (s : State) (ins : Instr) (u : UCont) (grids : List GridOp) (operand : Except Flt Fields) (data : List Nat) :
    Host.Outcome State Fault Refusal :=
  match s.focus.cur with
  | none => .next (s.enqueue .k ins none grids s.plain (fun _ => operand) (some u.aw.toNat))
  | some e =>
    let t := s.delay 0xFFFFFFFF
    .next (t.2.startOp s.me { opOf .k e s.cyc (s.cyc + 1 + t.1) with data := data })

/-- `span.open` (R297). -/
def execSpanOpen (tag : BitVec 3) (ra : Reg) (u : UCont) (s : State) : Host.Outcome State Fault Refusal :=
  s.kForm (.spanOpen tag ra u) u [] (.ok { v0 := s.reg ra }) []

/-- `span.app` (R298). -/
def execSpanApp (ra rb : Reg) (u : UCont) (s : State) : Host.Outcome State Fault Refusal :=
  s.kForm (.spanApp ra rb u) u [] (.ok { v0 := s.reg ra, v1 := s.reg rb }) []

/-- `span.rt` (R299). -/
def execSpanRt (mode : BitVec 2) (tag : BitVec 3) (ra rb : Reg) (u : UCont) (s : State) : Host.Outcome State Fault Refusal :=
  s.kForm (.spanRt mode tag ra rb u) u [] (.ok { v0 := s.reg ra, v1 := s.reg rb }) []

/-- The cells of a grid line as unsigned numbers. -/
def State.lineNats (s : State) (g : GridOp) : List Nat := (readLine s.mine g).map (·.toNat)

/-- `kv.walk` (R300). -/
def execKvWalk (m : BitVec 2) (g : BitVec 8) (b d : Reg) (u : UCont) (s : State) : Host.Outcome State Fault Refusal :=
  let line := GridOp.ofBits g
  let pos := GridOp.ofBits u.xg
  let dst := s.reg d
  let operand : Except Flt Fields :=
    if m = 0 then .ok { v0 := s.reg b }
    else if dst.toNat % 64 ≠ 0 then .error (.at127 0x33 (dst.toNat % 2 ^ 48))
    else orFault (s.checkOperand s.me (s.mapNow s.me) .ctx true dst 512) { v0 := s.reg b, v1 := dst }
  s.kForm (.kvWalk m g b d u) u (if m = 0 then linesFrom line 2 ++ [pos] else [pos]) operand (s.lineNats pos)

/-- `kv.plan` (R301). -/
def execKvPlan (blk : BitVec 2) (nc : BitVec 4) (b : Reg) (o : BitVec 11) (u : UCont) (s : State) :
    Host.Outcome State Fault Refusal :=
  let pos := GridOp.ofBits u.xg
  let t := s.address b o.toNat
  s.kForm (.kvPlan blk nc b o u) u [pos] (orFault (s.checkOperand s.me (s.mapNow s.me) .ctx true t 37056) { v0 := t })
    (s.lineNats pos)

/-- `kv.fork` and `kv.fork.new` (R302). -/
def execKvFork (m : BitVec 2) (ra rb rc : Reg) (u : UCont) (s : State) : Host.Outcome State Fault Refusal :=
  s.kForm (.kvFork m ra rb rc u) u [] (.ok { v0 := s.reg ra, v1 := s.reg rb, v2 := s.reg rc }) []

/-- `kv.drop` (R303). -/
def execKvDrop (ra : Reg) (u : UCont) (s : State) : Host.Outcome State Fault Refusal :=
  s.kForm (.kvDrop ra u) u [] (.ok { v0 := s.reg ra }) []

/-- `kv.hint` (R304). -/
def execKvHint (prio : BitVec 2) (ra rb rc : Reg) (u : UCont) (s : State) : Host.Outcome State Fault Refusal :=
  s.kForm (.kvHint prio ra rb rc u) u [] (.ok { v0 := s.reg ra, v1 := s.reg rb, v2 := s.reg rc }) []

/-! ## The host's pool register -/

/-- The bits of KVPB that a write stores: a PSZ of 9 to 15 stores 5 (R285). -/
def kvpbStored (v : Word) : Word :=
  let psz := fld v 40 4
  (v &&& 0x80FF00000FFFFFFF) ||| mkFld 40 4 (if 9 ≤ psz then 5 else psz)

/-- Whether a die's virtual functions are exposed: its boot has passed into stage 2 and has not failed, and the die runs (R383, R391). -/
def Die.vfUp (d : Die) : Bool := d.mgmt.boot == 1 && decide (2 ≤ d.mgmt.stage) && !d.lost

/-- KVPB_WRITE (R285): a register of a virtual function that is exposed (R383); while EN is 1 only EN may change. Setting EN is ignored
when the pool would leave the tenant's allocation, and otherwise starts the pool empty with every group free, once a pool that is still
to be discarded is gone; clearing EN discards the pool once no K operation uses it. -/
def execKvpbWrite (die vf pool : Nat) (value : Word) (s : State) : Host.Outcome State Fault Refusal :=
  let d := s.die die
  let at_ := vf * 65536 + 0x208 + 16 * pool
  let old := d.kvpb vf pool
  let new := kvpbStored value
  let key := poolKey vf pool
  let n := fld new 0 28
  if d.vfUp = false then .next s
  else if flag old 63 then
    if flag new 63 then .next s
    else
      let d1 := { d with regs := d.regs.put at_ (setFld old 63 1 0), pools := putKey d.pools key { d.pool key with closing := true } }
      .next ((s.setDie die d1).settlePools die vf)
  else if !flag new 63 then .next (s.setDie die { d with regs := d.regs.put at_ new })
  else if d.capSize vf < d.kvBase vf pool + n * kvGroupGranules new then .next s
  else
    .next (s.setDie die
      { d with regs := d.regs.put at_ new, pools := putKey d.pools key (if (d.pool key).closing && s.poolBusy die vf pool then d.pool key else startPool new) })

end Sys2Proof.Machine
end

