-- ==== Sys2Proof/Machine/Fabric.lean ====
section
/-! DEFINITION. The Unalmile fabric: the torus, its routes and links (R308 to R317), remote writes and streams (R318 to R325), and the operations of the F queue (R327 to R336, R142, R143). -/

namespace Sys2Proof.Machine

/-! ## The torus (R308, R309) -/

/-- The size of a dimension: 8, 8, 6 (R308). -/
def dimSize (d : Nat) : Nat := if d = 2 then 6 else 8

/-- The weight of a dimension in a die id (R308). -/
def dimStep (d : Nat) : Nat :=
  match d with
  | 0 => 1
  | 1 => 8
  | _ => 64

/-- A coordinate of a die. -/
def coord (die d : Nat) : Nat := (die / dimStep d) % dimSize d

/-- The neighbour of a die over a link: +x, -x, +y, -y, +z, -z (R308). -/
def neighbour (die link : Nat) : Nat :=
  let d := link / 2
  let c := coord die d
  let n := if link % 2 = 0 then (c + 1) % dimSize d else (c + dimSize d - 1) % dimSize d
  die - c * dimStep d + n * dimStep d

/-- The link at the other end. -/
def opposite (link : Nat) : Nat := if link % 2 = 0 then link + 1 else link - 1

/-- The dimensions of a dimension order (R309). -/
def orderDims (o : Nat) : List Nat :=
  match o with
  | 0 => [0, 1, 2] | 1 => [0, 2, 1] | 2 => [1, 0, 2] | 3 => [1, 2, 0] | 4 => [2, 0, 1] | _ => [2, 1, 0]

/-- The link direction and hops of a dimension, going the short or the long way (R309). -/
def dimHops (src dst d : Nat) (long : Bool) : Nat × Nat :=
  let k := dimSize d
  let f := (coord dst d + k - coord src d) % k
  let b := (coord src d + k - coord dst d) % k
  if f = 0 then (2 * d, 0)
  else if (f ≤ b) != long then (2 * d, f) else (2 * d + 1, b)

/-- The links of n hops in one direction, as die * 6 + link, and the die reached. -/
def walkLinks (link : Nat) : Nat → Nat → List Nat × Nat
  | 0, die => ([], die)
  | n + 1, die =>
    let r := walkLinks link n (neighbour die link)
    ((die * 6 + link) :: r.1, r.2)

/-- The links of a route from one die to another (R309). -/
def routeLinks (src dst : Nat) (r : Nat × Nat) : List Nat :=
  ((orderDims r.1).foldl (fun (acc : List Nat × Nat) d =>
    let h := dimHops src dst d (r.2.testBit d)
    let w := walkLinks h.1 h.2 acc.2
    (acc.1 ++ w.1, w.2)) ([], src)).1

/-- The routes of R309 in their order: the short ones, then those with one dimension that goes the long way. -/
def allRoutes (src dst : Nat) : List (Nat × Nat) :=
  let orders (l : Nat) : List (Nat × Nat) := (List.range 6).map fun o => (o, l)
  orders 0 ++ ([0, 1, 2].flatMap fun d => if coord src d = coord dst d then [] else orders (2 ^ d))

/-- Whether two routes cross the same links. -/
def sameLinks (a b : List Nat) : Bool := a.all b.contains && b.all a.contains

/-- The next route: the first that crosses other links than every route tried and no link known to be down; none after eight routes
(R309). -/
def nextRoute (src dst : Nat) (downs : List Nat) (tried : List (Nat × Nat)) : Option (Nat × Nat) :=
  if 8 ≤ tried.length then none
  else
    (allRoutes src dst).find? fun r =>
      let l := routeLinks src dst r
      !(tried.any fun t => sameLinks (routeLinks src dst t) l) && !(l.any downs.contains)

/-! ## Carrying messages (R310, R315) -/

/-- The coach that holds a byte of storage; the first coach of the die for storage of a die. -/
def Loc.coach : Loc → Nat
  | .sram c _ | .hbm c _ => c
  | .cmem c _ => c / 16
  | .cap d _ | .dev d _ | .mbx d _ | .clu d _ => d * 8
  | .host _ _ => 0

/-- The hops of a short route between two dies (R308). -/
def hopsTo (a b : Nat) : Nat := (routeLinks a b (0, 0)).length

/-- The cycles within which an unloaded class-0 request and its response are done on a route of h hops: 70 + 30 × h ns (R5, R311). -/
def answerTime (h : Nat) : Nat := 210 + 90 * h

/-- The longest time that a message may take at its die: a link-state message is known within 2 µs (R315); a request of class 0 and its
response, on short routes whose links are up in PAM4 and carry nothing else, come back in the time of R311, so what comes before the response
leaves it its way on the wire, over the parity member if it has one, and its units at the storage; every other time is unbounded (R6, R7,
R140). -/
def Msg.bound (m : Msg) (now : Nat) : Nat :=
  let left := m.by_ - now - 1
  let within (rest : Nat) : Nat := if m.clear then left - rest else 0xFFFFFFFF
  match m.kind with
  | .linkState _ => 5999
  | .write =>
    match m.par with
    | some p => within (2 * (hopsTo m.dst (dieOf p.coach) + hopsTo (dieOf p.coach) m.src) + 12)
    | none => within (2 * hopsTo m.dst m.src + 6)
  | .parity => within (2 * hopsTo m.dst (nthD 0 m.opnd 0) + 6)
  | .read => within (2 * hopsTo m.dst m.src + 132)
  | .readData => within 64
  | .ack => within 0
  | _ => 0xFFFFFFFF

/-- Hand a message to the die it is for: it is handled there after a time of its own. A lost die takes none (R391). -/
def State.arrive (s : State) (m : Msg) : State :=
  if (s.die m.dst).lost then s
  else
    let t := s.delay (m.bound s.cyc)
    { t.2 with net := putKey t.2.net t.2.uid { m with due := s.cyc + 1 + t.1 }, uid := t.2.uid + 1 }

/-- Whether a link carries nothing: it is DOWN, or it has not trained (R313, R383). -/
def Link.dead (x : Link) : Bool := x.mode == 4 || (!x.up && !x.retrain)

/-- Hand a message to a die's router: it has arrived, or it waits for the next link of its route; none when that link carries nothing. -/
def State.hop (s : State) (die : Nat) (m : Msg) : Option State :=
  if m.dst = die then some (s.arrive m)
  else
    match (routeLinks m.src m.dst (m.order, m.long)).find? fun l => l / 6 == die with
    | none => none
    | some l =>
      let x := s.link l
      let quiet := x.mode == 0 && x.up && x.wire.isEmpty && x.wait.isEmpty
      if x.dead then none else some (s.setLink l { x with wait := x.wait ++ [{ m with clear := m.clear && quiet }] })

/-- The links that a die's messages go around: those it knows to be DOWN, and its own that carry nothing (R309, R313, R315). -/
def State.shut (s : State) (die : Nat) : List Nat :=
  (s.die die).downs ++ (span (die * 6) 6).filter fun l => (s.link l).dead

/-- The next route that a die's message takes, after those it has tried (R309). -/
def State.routeFrom (s : State) (src dst : Nat) (tried : List (Nat × Nat)) : Option (Nat × Nat) :=
  nextRoute src dst (s.shut src) tried

/-- Whether a die's messages have a way to another (R309, R360). -/
def State.reaches (s : State) (src dst : Nat) : Bool := src == dst || (s.routeFrom src dst []).isSome

/-- Send a message on the next route of R309; nothing is sent when no route is left, and a lost die sends nothing (R391). -/
def State.send (s : State) (m : Msg) : State :=
  if (s.die m.src).lost then s
  else if m.src = m.dst then s.arrive m
  else
    match s.routeFrom m.src m.dst m.tried with
    | none => s
    | some r =>
      let m1 : Msg := { m with
        order := r.1, long := r.2, tried := r :: m.tried, clear := m.clear && m.tried.isEmpty && r.2 == 0 }
      match s.hop m.src m1 with
      | some t => t
      | none => s

/-- A message that is lost with its link: loads, reductions, parity updates and class-0 messages are sent again on the next route; writes
and acknowledgements are recovered by their sender (R315, R330). -/
def State.lose (s : State) (m : Msg) : State :=
  match m.kind with
  | .write => s
  | .ack => s
  | _ => s.send m

/-- A router takes a message: it goes on, or is lost where the next link of its route is DOWN (R310, R315). -/
def State.forward (s : State) (die : Nat) (m : Msg) : State :=
  match s.hop die m with
  | some t => t
  | none => s.lose m

/-- A plain message between two dies, of no request. -/
def msgOf (kind : MsgKind) (src dst cls : Nat) : Msg :=
  { kind := kind, src := src, dst := dst, srcCo := src * 8, dstCo := dst * 8, cls := cls, order := 0, long := 0, tried := []
    by_ := 0, clear := false, nums := [], loc := .sram 0 0, par := none, mask := 0, data := [], got := [], opnd := [], core := 0, id := 0
    due := 0 }

/-- The class whose flit leaves next: class 0 first, classes 1 to 3 in the ratio 4 : 2 : 1 (R310). -/
def pickClass (x : Link) : Option (Nat × Nat) :=
  let has (c : Nat) : Bool := x.wait.any fun m => m.cls == c
  if has 0 then some (0, x.share)
  else
    let slots := [1, 1, 1, 1, 2, 2, 3]
    let turn := (span x.share 7).find? fun i => has (nthD 1 slots (i % 7))
    turn.map fun i => (nthD 1 slots (i % 7), (i + 1) % 7)

/-- A list without its first element that meets a test. -/
def dropFirst {α : Type} (ok : α → Bool) : List α → List α
  | [] => []
  | x :: t => if ok x then t else x :: dropFirst ok t

/-- FLIT_FORWARD (R310, R316): a router puts the next message that waits for a link on it, in a flit with the next LSEQ. -/
def execFlitForward (die link : Nat) (s : State) : Host.Outcome State Fault Refusal :=
  let l := die * 6 + link
  let x := s.link l
  if x.up = false ∨ x.retrain = true then .next s
  else
    match pickClass x with
    | none => .next s
    | some (c, share) =>
      match x.wait.find? fun m => m.cls == c with
      | none => .next s
      | some m =>
        .next (s.setLink l
          { x with wait := dropFirst (fun m => m.cls == c) x.wait, wire := x.wire ++ [{ msg := m, lseq := x.tx }]
                   tx := (x.tx + 1) % 2 ^ 32, share := share })

/-- The next mishap of the outside, and the state that has read it (log 6). -/
def State.mishap (s : State) : Bool × State :=
  match s.noise with
  | [] => (false, s)
  | b :: rest => (b, { s with noise := rest })

/-- FLIT_RECEIVE (R310, R315): a die takes the next flit from the link at one of its ports. A bad CRC asks for a replay from that flit; a good
flit is delivered or forwarded, without passing through the die, or lost where its way goes over a DOWN link. -/
def execFlitReceive (die link : Nat) (s : State) : Host.Outcome State Fault Refusal :=
  let l := neighbour die link * 6 + opposite link
  let x := s.link l
  match x.wire with
  | [] => .next s
  | f :: rest =>
    if x.retrain then .next s
    else
      let (bad, s1) := s.mishap
      if bad then
        .next (s1.setLink l { x with replay := Nat.min (x.replay + x.wire.length) 0xFFFFFFF, tries := x.tries + 1 })
      else .next ((s1.setLink l { x with wire := rest, tries := 0 }).forward die f.msg)

/-! ## Links (R313 to R315) -/

/-- The dies present in the domain other than one. -/
def State.others (s : State) (die : Nat) : List Nat := s.present.filter fun d => d != die

/-- A die learns that a link is down, in both directions (R315). -/
def Die.learnDown (d : Die) (l : Nat) : Die :=
  let back := neighbour (l / 6) (l % 6) * 6 + opposite (l % 6)
  { d with downs := (d.downs.filter fun x => x != l && x != back) ++ [l, back] }

/-- A link goes DOWN: its flits and those that wait for it in either router are lost, its two dies learn of it at once and tell every die
of the domain (R313, R315). -/
def State.linkDown (s : State) (l : Nat) : State :=
  let a := l / 6
  let b := neighbour a (l % 6)
  let back := b * 6 + opposite (l % 6)
  let x := s.link l
  let y := s.link back
  let dead (z : Link) : Link := { z with mode := 4, up := false, wire := [], wait := [], retrain := false, tries := 0 }
  let lost := (x.wire ++ y.wire).map (·.msg) ++ x.wait ++ y.wait
  let s1 := (s.setLink l (dead x)).setLink back (dead y)
  let s2 := (s1.setDie a ((s1.die a).learnDown l)).setDie b ((s1.die b).learnDown l)
  let tell (s : State) (from_ : Nat) : State := (s.others from_).foldl (fun s d => s.arrive (msgOf (.linkState l) from_ d 0)) s
  let s3 := tell (tell s2 a) b
  lost.foldl (fun s m => s.lose m) s3

/-- LINK_RETRAIN (R313): a failure makes the link retrain in the next mode, at most 20 µs long, with its flits held; a failure in NRZ-4
takes it DOWN. A link that is DOWN or has not trained since its die's reset does not retrain. -/
def execLinkRetrain (die link : Nat) (s : State) : Host.Outcome State Fault Refusal :=
  let l := die * 6 + link
  let back := neighbour die link * 6 + opposite link
  let x := s.link l
  let y := s.link back
  if x.dead then .next s
  else if x.mode = 3 then .next (s.linkDown l)
  else
    let t := s.delay 60000
    let again (z : Link) : Link :=
      { z with mode := x.mode + 1, retrain := true, retrn := Nat.min (z.retrn + 1) 255, tries := 0, due := s.cyc + t.1 }
    .next ((t.2.setLink l (again x)).setLink back (again y))

/-- RETRAIN_COMPLETE (R313): the link has retrained, and sends the flits it held in order. -/
def execRetrainComplete (die link : Nat) (s : State) : Host.Outcome State Fault Refusal :=
  let l := die * 6 + link
  let back := neighbour die link * 6 + opposite link
  let x := s.link l
  if x.retrain = true ∧ x.due ≤ s.cyc then
    let done (z : Link) : Link := { z with retrain := false, up := true }
    .next ((s.setLink l (done x)).setLink back (done (s.link back)))
  else .next s

/-- A message that has come to its die and may be handled. -/
def State.msgReady (s : State) (n : Nat) : Option Msg :=
  match lookup? s.net n with
  | some m => if m.due ≤ s.cyc then some m else none
  | none => none

/-- A message is gone. -/
def State.dropMsg (s : State) (n : Nat) : State := { s with net := dropKey s.net n }

/-- LINK_STATE_MESSAGE (R315): a die learns of a down link. -/
def execLinkStateMessage (n : Nat) (s : State) : Host.Outcome State Fault Refusal :=
  match s.msgReady n with
  | some m =>
    match m.kind with
    | .linkState l => .next ((s.setDie m.dst ((s.die m.dst).learnDown l)).dropMsg n)
    | _ => .next s
  | none => .next s

/-! ## Remote writes (R318 to R323) -/

/-- The message of a remote write or atomic. -/
def OutW.msg (w : OutW) (coach : Nat) (r : Nat × Nat) : Msg :=
  { (msgOf .write (dieOf coach) w.dstDie w.cls) with
    srcCo := coach, dstCo := w.dstCo, order := r.1, long := r.2, tried := [r], nums := w.nums, loc := w.loc, par := w.par, mask := w.mask
    data := w.data, core := w.core, id := w.id
    opnd := match w.atom with
      | some (op, size, b, c) => [op, size, b.toNat, c.toNat]
      | none => [] }

/-- Replace a held write of a coach. -/
def State.setOut (s : State) (coach : Nat) (w : OutW) : State :=
  let k := s.coach coach
  s.setCoach coach { k with fab := { k.fab with out := k.fab.out.map fun x => if x.id == w.id then w else x } }

/-- Send a write of a coach on a route. The bound of R311 holds for the first sending of a class-0 write on a short route. -/
def State.transmit (s : State) (coach : Nat) (w : OutW) (r : Nat × Nat) : State :=
  let tried := if w.tried.head? == some r then w.tried else r :: w.tried
  let s1 := s.setOut coach { w with sent := true, last := s.cyc, tried := tried }
  let m : Msg := { w.msg coach r with
    by_ := s.cyc + answerTime (hopsTo (dieOf coach) w.dstDie), clear := w.cls == 0 && w.tried.isEmpty && r.2 == 0 }
  if w.dstDie = dieOf coach then s1.arrive m
  else
    match s1.hop (dieOf coach) m with
    | some t => t
    | none => s1

/-- Send a write for the first time. -/
def State.sendWrite (s : State) (coach : Nat) (w : OutW) : State :=
  match s.routeFrom (dieOf coach) w.dstDie [] with
  | some r => s.transmit coach w r
  | none => s.setOut coach { w with sent := true, last := s.cyc }

/-- The numbers that a write takes of its triples, and the next numbers of the context (R320). -/
def takeNums (seqs : Tab Nat) (die stream : Nat) : List (Nat × Nat) × Tab Nat :=
  let streams := if stream = 15 then List.range 15 else [stream]
  let nums := streams.map fun t => (t, lookupD 0 seqs (die * 16 + t))
  (nums, nums.foldl (fun t p => putKey t (die * 16 + p.1) ((p.2 + 1) % 2 ^ 24)) seqs)

/-- What a released write waits for: the core's earlier remote writes, and its timed entries with an earlier issue cycle (R322). -/
def State.releaseOf (s : State) (core t : Nat) : RelSet :=
  { acc := []
    ops := ((s.eng core).run.filter fun r => decide (r.t < t)).map fun r => r.e.id
    wr := ((s.coach (coachOf core)).fab.out.filter fun w => w.core == core).map (·.id) }

/-- Whether a released write may be sent (R322). -/
def State.releaseDone (s : State) (core : Nat) (r : RelSet) : Bool :=
  (r.ops.all fun i => !((s.eng core).run.any fun x => x.e.id == i)) &&
    (r.wr.all fun i => !((s.coach (coachOf core)).fab.out.any fun w => w.id == i))

/-- A remote write issues: it takes its numbers and counts in its allowance; it is sent at once, or held while it is to be released
(R318 to R320, R322). `t` is the issue cycle of its entry. -/
def State.postWrite (s : State) (core t : Nat) (w : OutW) (released : Bool) : State :=
  let kc := coachOf core
  let k := s.coach kc
  let (nums, seqs) := takeNums k.fab.seqs w.dstDie w.stream
  let rel := if released then some (s.releaseOf core t) else none
  let w1 := { w with id := s.uid, nums := nums, rel := rel }
  let s1 := { (s.setCoach kc { k with fab := { k.fab with seqs := seqs, out := k.fab.out ++ [w1] } }) with uid := s.uid + 1 }
  let c := s1.ctl core
  let n := 0x070 + w.wal
  let s2 := if w.wal < 16 then s1.setCtl core (c.setSr n (setFld (c.sr.get n) 32 11 (fld (c.sr.get n) 32 11 + 1))) else s1
  match rel with
  | none => s2.sendWrite kc w1
  | some r => if s2.releaseDone core r then s2.sendWrite kc w1 else s2

/-- The remote write of one piece of a line of an S entry (R318). -/
def State.postPiece (s : State) (r : Run) (core addr mask : Nat) (data : List Byte) (stream : Nat) (rel : Bool) : State :=
  let kc := coachOf core
  let g := s.gangOf kc
  match findEntry g (s.mapOf kc r.e.map) addr with
  | none => s
  | some e =>
    let lc := remoteCoach g e addr
    let w : OutW :=
      { id := 0, core := core, stream := stream, nums := [], dstDie := dieOf (g.coachAt lc), dstCo := g.coachAt lc
        loc := s.locIn kc e r.e.ver addr, par := s.parityOf kc e r.e.ver addr, mask := mask, data := data, rel := none, sent := false
        last := 0, tried := [], wal := walIndex (s.ctl core) lc, cls := fld (nthD 0 r.e.cap 0) 0 2, lco := lc, atom := none, opId := 0 }
    s.postWrite core r.t w rel

/-- RELEASED_WRITE_SEND (R322): a released write is sent once what it waits for has come about. -/
def execReleasedWriteSend (core n : Nat) (s : State) : Host.Outcome State Fault Refusal :=
  let kc := coachOf core
  match (s.coach kc).fab.out.find? fun w => w.id == n && w.core == core && !w.sent with
  | none => .next s
  | some w =>
    match w.rel with
    | some r => if s.releaseDone core r then .next (s.sendWrite kc w) else .next s
    | none => .next s

/-! ## At the destination (R321, R329) -/

/-- The triple of a source coach and stream at a destination die. -/
def tripleKey (coach stream : Nat) : Nat := coach * 16 + stream

/-- How far a number lies past the one a destination expects, modulo 2^24 (R321). -/
def Fab.ahead (f : Fab) (coach : Nat) (p : Nat × Nat) : Nat :=
  (p.2 + 2 ^ 24 - lookupD 0 f.expect (tripleKey coach p.1)) % 2 ^ 24

/-- Whether a write's numbers are next in all its triples. -/
def Fab.isNext (f : Fab) (coach : Nat) (nums : List (Nat × Nat)) : Bool := nums.all fun p => f.ahead coach p == 0

/-- Whether a write's numbers have been committed. -/
def Fab.committed (f : Fab) (coach : Nat) (nums : List (Nat × Nat)) : Bool := nums.all fun p => decide (2 ^ 23 ≤ f.ahead coach p)

/-- The coach whose context keeps the expected numbers of the writes that come to a coach's die for its gang: the gang's lowest logical coach
there (R320, R321, R325). -/
def State.keeper (s : State) (coach : Nat) : Nat :=
  match (s.coach coach).gang with
  | none => coach
  | some g => (s.gang g).coachAt ((s.coach coach).lco / (s.gang g).perDie * (s.gang g).perDie)

/-- The fabric state of the context that keeps the expected numbers of a message's die (R321). -/
def State.fabAt (s : State) (m : Msg) : Fab := (s.coach (s.keeper m.dstCo)).fab

/-- The destination expects the numbers after those of a message (R321). -/
def State.expectNext (s : State) (m : Msg) : State :=
  let c := s.keeper m.dstCo
  let k := s.coach c
  s.setCoach c { k with fab := { k.fab with
    expect := m.nums.foldl (fun t p => putKey t (tripleKey m.srcCo p.1) ((p.2 + 1) % 2 ^ 24)) k.fab.expect } }

/-- The acknowledgement of a write, with the old value of an atomic (R318, R329). -/
def Msg.ackOf (m : Msg) (old : List Byte) : Msg :=
  { (msgOf .ack m.dst m.src m.cls) with
    srcCo := m.dstCo, dstCo := m.srcCo, by_ := m.by_, clear := m.clear, core := m.core, id := m.id, data := old }

/-- The bytes that a message moves at its storage. -/
def Msg.size (m : Msg) : Nat :=
  match m.kind with
  | .read => nthD 0 m.opnd 0
  | .collective => nthD 0 m.opnd 1
  | _ => m.data.length

/-- The bytes of the unit that a message comes to (R146). -/
def Msg.unit (m : Msg) : Nat := Nat.min 64 (m.size - m.got.length)

/-- Where that unit stands. -/
def Msg.place (m : Msg) : Loc := m.loc.add m.got.length

/-- A message that has moved its unit: what the unit read joins what it has (R146). -/
def Msg.moved (m : Msg) (bs : List Byte) : Msg := { m with got := m.got ++ bs }

/-- Whether a message has moved every unit. -/
def Msg.whole (m : Msg) : Bool := decide (m.size ≤ m.got.length)

/-- The bytes that a unit of a message writes, under its word mask: those that it carries, or their exclusive or with what stands there
(R140, R318). -/
def Msg.unitCells (m : Msg) (mem : Mem) : List Host.Cell :=
  (maskedCells (m.mask >>> (m.got.length / 4)) m.place.key (unitOf m.got.length m.data)).map fun c =>
    if m.kind = .parity then (c.1, c.2 ^^^ mem.byte c.1) else c

/-- A message moves its unit through the dynamic slot of its block, and stays (R146). -/
def State.moveUnit (s : State) (n : Nat) (m : Msg) (old : List Byte) : State :=
  let s1 := s.takeSlot true m.place 1
  { s1 with net := putKey s1.net n (m.moved old) }

/-- A write or atomic that is performed goes on: it is acknowledged, or sends its change to the parity member and is acknowledged from there
(R140, R318, R321, R329). `change` is the exclusive or of the old and the new bytes, `old` the old value of an atomic. -/
def State.passOn (s : State) (m : Msg) (mask : Nat) (change old : List Byte) : State :=
  match m.par with
  | none => s.send (m.ackOf old)
  | some p =>
    let x := s.die m.dst
    (s.setDie m.dst { x with parity := x.parity ++ [m.id] }).send { (msgOf .parity m.dst (dieOf p.coach) m.cls) with
      srcCo := m.srcCo, dstCo := m.dstCo, by_ := m.by_, clear := m.clear, loc := p, mask := mask, data := change, core := m.core
      id := m.id, opnd := m.src :: (if old.isEmpty then [] else [natOfBytes old]), nums := m.nums }

/-- A write moves its next unit; with the last of them it is committed (R318, R321). -/
def State.commitUnit (s : State) (n : Nat) (m : Msg) : State :=
  let m1 := m.moved (s.mem.read m.place.key m.unit)
  let s1 : State := { s.moveUnit n m (s.mem.read m.place.key m.unit) with mem := s.mem.writeCells (m.unitCells s.mem) }
  if m1.whole then ((s1.dropMsg n).expectNext m1).passOn m1 m.mask (xorBytes m1.got m.data) [] else s1

/-- An atomic is committed at once: its old value is kept, for a retransmission asks for it again (R321, R329). -/
def State.commitAtomic (s : State) (n : Nat) (m : Msg) (op size b c : Nat) : State :=
  let key := m.loc.key
  let x := natOfBytes (s.mem.read key size)
  let w := 2 ^ (8 * size)
  let new := bytesOf size (amoNew op (8 * size) x (b % w) (c % w))
  let s1 := ((s.dropMsg n).expectNext m).takeSlot true m.loc 1
  let s2 := s1.setDie m.dst { (s1.die m.dst) with olds := putKey (s1.die m.dst).olds m.id (BitVec.ofNat 64 x) }
  ({ s2 with mem := s2.mem.write key new } : State).passOn m (2 ^ 64 - 1) (xorBytes (s.mem.read key size) new) (bytesOf 8 x)

/-- A write or atomic that is next in its triples is performed (R321). -/
def State.commit (s : State) (n : Nat) (m : Msg) : State :=
  match m.opnd with
  | [op, size, b, c] => s.commitAtomic n m op size b c
  | _ => s.commitUnit n m

/-- Whether a message's storage serves its unit now (R146, R182). -/
def State.msgServed (s : State) (m : Msg) : Bool := s.served true m.place m.unit

/-- Whether a triple of a source coach is broken (R324). -/
def State.tripleBroken (s : State) (coach die : Nat) (nums : List (Nat × Nat)) : Bool :=
  nums.any fun p => (s.coach coach).fab.broken.contains (die, p.1)

/-- Whether another message of the same write has begun to move its units (R321). -/
def State.begun (s : State) (n : Nat) (m : Msg) : Bool :=
  s.net.any fun p => p.1 != n && p.2.kind == .write && p.2.id == m.id && !p.2.got.isEmpty

/-- Whether a die holds another message of the same write. -/
def State.twin (s : State) (m : Msg) : Bool :=
  (s.die m.dst).heldW.any fun i => match lookup? s.net i with
    | some x => x.id == m.id
    | none => false

/-- A write is a message's no more: it is not held. -/
def State.unhold (s : State) (die n : Nat) : State :=
  let d := s.die die
  s.setDie die { d with heldW := d.heldW.filter fun x => x != n }

/-- A duplicate of a write that has been committed is discarded, and acknowledged again unless its parity update is on its way, with the old
value of an atomic (R321, R329). -/
def State.ackAgain (s : State) (n : Nat) (m : Msg) : State :=
  let d := s.die m.dst
  if d.parity.contains m.id then s.dropMsg n
  else
    let old := match lookup? d.olds m.id with
      | some x => bytesOf 8 x.toNat
      | none => []
    (s.dropMsg n).send (m.ackOf old)

/-- A write or atomic at its destination die: it is performed unit by unit once it is next in its triples, held before that, or a duplicate
(R146, R321). One for a coach without a context, or of a broken triple, is discarded (R324, R325). -/
def State.arriveWrite (s : State) (n : Nat) (m : Msg) : State :=
  let d := s.die m.dst
  if m.got.isEmpty && ((s.coach m.dstCo).gang.isNone || s.tripleBroken m.srcCo m.dst m.nums) then s.dropMsg n
  else if (s.fabAt m).isNext m.srcCo m.nums then
    if s.begun n m then s.dropMsg n else (s.unhold m.dst n).commit n m
  else if m.nums.any fun p => decide (2 ^ 23 ≤ (s.fabAt m).ahead m.srcCo p) then s.ackAgain n m
  else if d.heldW.contains n then s
  else if s.twin m then s.dropMsg n
  else s.setDie m.dst { d with heldW := d.heldW ++ [n] }

/-- The parity update of a write moves its next unit; with the last of them the write is acknowledged (R140). -/
def State.parityUnit (s : State) (n : Nat) (m : Msg) : State :=
  let m1 := m.moved (s.mem.read m.place.key m.unit)
  let s1 : State := { s.moveUnit n m (s.mem.read m.place.key m.unit) with mem := s.mem.writeCells (m.unitCells s.mem) }
  if m1.whole then
    let s2 := s1.dropMsg n
    let home := dieOf m.dstCo
    let d := s2.die home
    let old := match m.opnd with
      | [_, x] => bytesOf 8 x
      | _ => []
    (s2.setDie home { d with parity := d.parity.filter fun x => x != m.id }).send { (msgOf .ack m.dst (nthD 0 m.opnd 0) m.cls) with
      srcCo := m.dstCo, dstCo := m.srcCo, by_ := m.by_, clear := m.clear, core := m.core, id := m.id, data := old }
  else s1

/-- REMOTE_WRITE_ARRIVE (R318, R321): a remote write, or the parity update of one, is at its die. -/
def execRemoteWriteArrive (n : Nat) (s : State) : Host.Outcome State Fault Refusal :=
  match s.msgReady n with
  | none => .next s
  | some m =>
    if s.msgServed m = false then .next s
    else
      match m.kind with
      | .write => if m.opnd = [] then .next (s.arriveWrite n m) else .next s
      | .parity => .next (s.parityUnit n m)
      | _ => .next s

/-- REMOTE_ATOMIC_ARRIVE (R329): an atomic reaches its die, as a write of stream 0. -/
def execRemoteAtomicArrive (n : Nat) (s : State) : Host.Outcome State Fault Refusal :=
  match s.msgReady n with
  | none => .next s
  | some m =>
    match m.kind with
    | .write => if m.opnd = [] ∨ s.msgServed m = false then .next s else .next (s.arriveWrite n m)
    | _ => .next s

/-! ## Back at the source -/

/-- A write leaves the outstanding ones and its allowance (R319). -/
def State.closeWrite (s : State) (coach : Nat) (w : OutW) : State :=
  let k := s.coach coach
  let s1 := s.setCoach coach { k with fab := { k.fab with out := k.fab.out.filter fun x => !(x.id == w.id) } }
  let c := s1.ctl w.core
  let n := 0x070 + w.wal
  if w.wal < 16 then s1.setCtl w.core (c.setSr n (setFld (c.sr.get n) 32 11 (fld (c.sr.get n) 32 11 - 1))) else s1

/-- The write that an acknowledgement answers. -/
def State.answered (s : State) (m : Msg) : Option OutW := (s.coach m.dstCo).fab.out.find? fun w => w.id == m.id

/-- ACKNOWLEDGEMENT_ARRIVE (R319): the first acknowledgement of a write lowers OUT; a later one changes nothing. -/
def execAcknowledgementArrive (n : Nat) (s : State) : Host.Outcome State Fault Refusal :=
  match s.msgReady n with
  | none => .next s
  | some m =>
    if m.kind ≠ .ack ∨ m.data ≠ [] then .next s
    else
      match s.answered m with
      | some w => .next ((s.dropMsg n).closeWrite m.dstCo w)
      | none => .next (s.dropMsg n)

/-- ATOMIC_RESULT_ARRIVE (R329): the old value is written, zero-extended, at sD, and the operation completes with value 8. -/
def execAtomicResultArrive (n : Nat) (s : State) : Host.Outcome State Fault Refusal :=
  match s.msgReady n with
  | none => .next s
  | some m =>
    if m.kind ≠ .ack ∨ m.data = [] then .next s
    else
      match s.answered m with
      | none => .next (s.dropMsg n)
      | some w =>
        let s1 := (s.dropMsg n).closeWrite m.dstCo w
        match (s1.eng w.core).op? w.opId with
        | none => .next s1
        | some o =>
          let kc := coachOf w.core
          let cells := s1.ctxCells kc o.e.ver (s1.parts kc o.e.map o.e.v0.toNat 8) m.data
          if s.cellsServed cells = false then .next s
          else .next (((s1.storeCells kc w.core o.e.map cells).takeCells cells).finishOp w.core o 8 0)

/-! ## Retransmission and broken streams (R323, R324) -/

/-- FADDR of a stream-broken fault (R336). -/
def streamFaddr (stream die side num : Nat) : Word :=
  mkFld 60 4 stream ||| mkFld 51 9 die ||| mkFld 50 1 side ||| mkFld 24 24 num

/-- Whether a write's last route crosses a link that its die knows to be down (R323). -/
def State.routeDown (s : State) (coach : Nat) (w : OutW) : Bool :=
  match w.tried with
  | [] => true
  | r :: _ => (routeLinks (dieOf coach) w.dstDie r).any (s.shut (dieOf coach)).contains

/-- Whether a write is to be sent again: 16,384 cycles after its last sending, or at once for a down link. A write to its own die crosses
no link (R323). -/
def State.retransmitDue (s : State) (coach : Nat) (w : OutW) : Bool :=
  w.sent && w.dstDie != dieOf coach && (decide (w.last + 16384 ≤ s.cyc) || s.routeDown coach w) &&
    !s.tripleBroken coach w.dstDie w.nums

/-- Whether a write has failed on every route of R309 (R324). -/
def State.writeFailed (s : State) (coach : Nat) (w : OutW) : Bool :=
  s.retransmitDue coach w && (s.routeFrom (dieOf coach) w.dstDie w.tried).isNone

/-- Some triples of a source coach to a die break: the coach raises its one stream-broken fault, at the core of the write given, and names the
lowest of them, or stream 15 while a stream-15 write is not committed (R324, R336). -/
def State.breakAt (s : State) (coach : Nat) (w : OutW) (streams : List Nat) : State :=
  let k := s.coach coach
  let add := (streams.map fun t => (w.dstDie, t)).filter fun t => !k.fab.broken.contains t
  let s1 := s.setCoach coach { k with fab := { k.fab with broken := k.fab.broken ++ add } }
  let to_ := k.fab.out.filter fun x => x.dstDie == w.dstDie
  let all := to_.any fun x => x.stream == 15
  let low := streams.foldl Nat.min 14
  let oldest (t : Nat) : Nat :=
    match to_.findSome? fun x => (x.nums.find? fun p => p.1 == t).map (·.2) with
    | some n => n
    | none => 0
  let stream := if all then 15 else low
  let num := oldest (if all then 0 else low)
  if k.fab.broken.isEmpty then s1.raise w.core 0x60 (streamFaddr stream (w.lco / (s.gangOf coach).perDie) 0 num) else s1

/-- The writes of a coach to a die that have failed on every route break their triples together; a break notice goes out on a route that
remains (R324, R336). -/
def State.breakTriples (s : State) (coach : Nat) (w : OutW) : State :=
  let k := s.coach coach
  let fails := k.fab.out.filter fun x => x.dstDie == w.dstDie && s.writeFailed coach x
  let nums := (w :: fails).flatMap (·.nums)
  let all := k.fab.out.any fun x => x.dstDie == w.dstDie && x.stream == 15
  let stream := if all then 15 else (nums.map (·.1)).foldl Nat.min 14
  (s.breakAt coach w (nums.map (·.1)).eraseDups).send
    { (msgOf .brk (dieOf coach) w.dstDie w.cls) with srcCo := coach, dstCo := w.dstCo, nums := nums, opnd := [stream, k.lco] }

/-- Send the writes of a list again on one route, in their order. -/
def State.resendAll (s : State) (coach : Nat) (r : Nat × Nat) : List OutW → State
  | [] => s
  | w :: rest => (s.transmit coach w r).resendAll coach r rest

/-- RETRANSMIT_TIMEOUT (R323, R324): the triple's unacknowledged writes are sent again on the next route; with no route left the triple
breaks. -/
def execRetransmitTimeout (coach n : Nat) (s : State) : Host.Outcome State Fault Refusal :=
  let k := s.coach coach
  match k.fab.out.find? fun w => w.id == n with
  | none => .next s
  | some w =>
    if s.retransmitDue coach w then
      match s.routeFrom (dieOf coach) w.dstDie w.tried with
      | none => .next (s.breakTriples coach w)
      | some r =>
        let same := k.fab.out.filter fun x =>
          x.sent && x.dstDie == w.dstDie && x.nums.any fun p => w.nums.any fun q => p.1 == q.1
        .next (s.resendAll coach r same)
    else .next s

/-- The end that the writes to a coach's die have there raises the one stream-broken fault of a destination, on core 0 of the coach that keeps the
expected numbers (R324, R336, R362). -/
def State.breakEnd (s : State) (coach : Nat) (faddr : Word) : State :=
  let c := s.keeper coach
  let k := s.coach c
  if k.fab.ended then s
  else (s.setCoach c { k with fab := { k.fab with ended := true } }).raise (c * 16) 0x60 faddr

/-- BREAK_NOTICE (R324): the destination raises its one stream-broken fault and discards the held writes of the broken triples. -/
def execBreakNotice (n : Nat) (s : State) : Host.Outcome State Fault Refusal :=
  match s.msgReady n with
  | none => .next s
  | some m =>
    if m.kind ≠ .brk then .next s
    else
      let d := s.die m.dst
      let named (i : Nat) : Bool :=
        match lookup? s.net i with
        | some x => x.srcCo == m.srcCo && x.nums.any fun p => m.nums.any fun q => p.1 == q.1
        | none => true
      let s1 := (d.heldW.filter named).foldl (fun s i => s.dropMsg i) (s.dropMsg n)
      let s2 := s1.setDie m.dst { d with heldW := d.heldW.filter fun i => !named i }
      let stream := nthD 0 m.opnd 0
      let e := lookupD 0 (s.fabAt m).expect (tripleKey m.srcCo (if stream = 15 then 0 else stream))
      let die := nthD 0 m.opnd 1 / (s.gangOf m.dstCo).perDie
      .next (s2.breakEnd m.dstCo (streamFaddr stream die 1 e))

/-! ## fl.ld and fam (R328 to R330) -/

/-- FCLASS of an F entry (R312). -/
def fClass (e : Entry) : Nat := fld (nthD 0 e.cap 0) 2 2

/-- The sequence numbers of a core's outstanding writes to a die (R330). -/
def State.pendingNums (s : State) (core die : Nat) : List (Nat × Nat) :=
  ((s.coach (coachOf core)).fab.out.filter fun w => w.core == core && w.dstDie == die).flatMap (·.nums)

/-- Start an operation of the F queue. -/
def State.startF (s : State) (e : Entry) : State := s.startOp s.me (opOf .f e s.cyc s.cyc)

/-- `fl.ld` (R328, R330): one request for each part of the remote operand. -/
def execFlLd (z : BitVec 2) (q : Bool) (d a : Reg) (o : BitVec 11) (u : UCont) (s : State) : Host.Outcome State Fault Refusal :=
  let n := flBytes z
  match s.focus.cur with
  | none =>
    let src := s.address a o.toNat
    let dst := s.reg d
    let operand (_ : List Word) : Except Flt Fields :=
      if src.toNat % 64 ≠ 0 then .error (.at127 0x33 (src.toNat % 2 ^ 48))
      else if dst.toNat % 64 ≠ 0 then .error (.at127 0x33 (dst.toNat % 2 ^ 48))
      else
        match s.checkOperand s.me (s.mapNow s.me) .fabric false src n with
        | some (code, x) => .error (.at127 code (x % 2 ^ 48))
        | none => orFault (s.checkOperand s.me (s.mapNow s.me) .ctx true dst n) { v0 := dst, v1 := src }
    .next (s.enqueue .f (.flLd z q d a o u) none [] (.ok ([s.ftc], s)) operand (some u.aw.toNat))
  | some e =>
    let kc := coachOf s.me
    let me := s.me
    let g := s.gangOf kc
    let request (s : State) (p : Nat × Nat × Option MapEntry) : State :=
      match p.2.2 with
      | none => s
      | some r =>
        let dst := g.coachAt (remoteCoach g r p.1)
        s.send { (msgOf .read (dieOf kc) (dieOf dst) (fClass e)) with
          srcCo := kc, dstCo := dst, by_ := s.cyc + answerTime (hopsTo (dieOf kc) (dieOf dst)), clear := fClass e == 0, nums := s.pendingNums me (dieOf dst)
          loc := s.locIn kc r e.ver p.1, opnd := [p.2.1, p.1 - e.v1.toNat], core := me, id := e.id }
    .next ((s.parts kc e.map e.v1.toNat n).foldl request (s.startF e))

/-- REMOTE_READ_ARRIVE (R146, R330): a load is performed, unit by unit, once the core's earlier writes to the die have been committed, and
answered with the last unit. -/
def execRemoteReadArrive (n : Nat) (s : State) : Host.Outcome State Fault Refusal :=
  match s.msgReady n with
  | none => .next s
  | some m =>
    if m.kind ≠ .read ∨ s.msgServed m = false ∨ (s.fabAt m).committed m.srcCo m.nums = false then .next s
    else
      let m1 := m.moved ((s.viewOf m.place).read m.place.key m.unit)
      let s1 := s.moveUnit n m ((s.viewOf m.place).read m.place.key m.unit)
      if m1.whole then
        .next ((s1.dropMsg n).send { (msgOf .readData m.dst m.src m.cls) with
          srcCo := m.dstCo, dstCo := m.srcCo, by_ := m.by_, clear := m.clear, data := m1.got, opnd := m.opnd, core := m.core, id := m.id })
      else .next s1

/-- The parts of a remote load's data that are there, with those of a reply (R328). -/
def Op.withPart (o : Op) (m : Msg) : Op := { o with parts := putKey o.parts (nthD 0 m.opnd 1) m.data }

/-- The bytes of a remote load that are there. -/
def Op.loaded (o : Op) : List Byte := o.parts.flatMap (·.2)

/-- READ_DATA_ARRIVE (R146, R328): once all data is there it lands unit by unit through the dynamic slot; the operation completes with value SZ
with its last unit. A duplicate or late reply is discarded (R330). -/
def execReadDataArrive (n : Nat) (s : State) : Host.Outcome State Fault Refusal :=
  match s.msgReady n with
  | none => .next s
  | some m =>
    if m.kind ≠ .readData then .next s
    else
      match (s.eng m.core).op? m.id with
      | none => .next (s.dropMsg n)
      | some o =>
        match o.e.ins with
        | .flLd z _ _ _ _ _ =>
          let o1 := o.withPart m
          if o1.loaded.length < flBytes z then .next ((s.dropMsg n).setOp m.core o1)
          else
            let kc := coachOf m.core
            let cells := s.ctxCells kc o.e.ver (s.parts kc o.e.map o.e.v0.toNat (flBytes z)) o1.loaded
            if s.cellsServed (o1.unit cells) = false then .next (s.setOp m.core o1)
            else
              let s1 := s.landUnit m.core o1 cells
              if o1.lastUnit cells then .next ((s1.dropMsg n).finishOp m.core o1 (flBytes z) 0) else .next (s1.nextUnit m.core o1 (o1.unitSize cells))
        | _ => .next (s.dropMsg n)

/-- REMOTE_LOAD_TIMEOUT (R330): no full reply for 1,048,576 cycles: value 0, status TIMEOUT, and no byte is changed. -/
def execRemoteLoadTimeout (core n : Nat) (s : State) : Host.Outcome State Fault Refusal :=
  match (s.eng core).op? n with
  | none => .next s
  | some o =>
    match o.e.ins with
    | .flLd z _ _ _ _ _ =>
      if o.at_ + 1048576 ≤ s.cyc ∧ o.loaded.length < flBytes z then .next (s.finishOp core o 0 4) else .next s
    | _ => .next s

/-- The ordering kind of a remote operand of n bytes: the strongest of its parts, through the map of the enqueue (R344). -/
def State.remoteOrd (s : State) (coach : Nat) (e : Entry) (n : Nat) : Nat := strongest (s.parts coach e.map e.v1.toNat n)

/-- `fam` (R329): an atomic travels as a write of stream 0, released as its ORD or its region says. -/
def execFam (ord : BitVec 2) (op : BitVec 4) (z : Bool) (a b d : Reg) (u : UCont) (s : State) : Host.Outcome State Fault Refusal :=
  let size := if z then 8 else 4
  match s.focus.cur with
  | none =>
    let src := s.reg a
    let dst := s.reg d
    let operand (_ : List Word) : Except Flt Fields :=
      if src.toNat % size ≠ 0 then .error (.at127 0x33 (src.toNat % 2 ^ 48))
      else if dst.toNat % 8 ≠ 0 then .error (.at127 0x33 (dst.toNat % 2 ^ 48))
      else
        match s.checkOperand s.me (s.mapNow s.me) .fabric true src size with
        | some (code, x) => .error (.at127 code (x % 2 ^ 48))
        | none => orFault (s.checkOperand s.me (s.mapNow s.me) .ctx true dst 8) { v0 := dst, v1 := src, v2 := s.reg b }
    .next (s.enqueue .f (.fam ord op z a b d u) none [] (.ok ([s.ftc], s)) operand (some u.aw.toNat))
  | some e =>
    let kc := coachOf s.me
    let g := s.gangOf kc
    match findEntry g (s.mapOf kc e.map) e.v1.toNat with
    | none => .next s
    | some r =>
      let lc := remoteCoach g r e.v1.toNat
      let cmp := natOfBytes (s.ctxBytes kc e.map e.ver e.v0.toNat 8)
      let w : OutW :=
        { id := 0, core := s.me, stream := 0, nums := [], dstDie := dieOf (g.coachAt lc), dstCo := g.coachAt lc
          loc := s.locIn kc r e.ver e.v1.toNat, par := s.parityOf kc r e.ver e.v1.toNat, mask := 0, data := List.replicate size 0
          rel := none, sent := false, last := 0, tried := [], wal := 16, cls := fClass e, lco := lc
          atom := some (op.toNat, size, e.v2, BitVec.ofNat 64 cmp), opId := e.id }
      .next ((s.startF e).postWrite s.me (s.coach kc).tclk w (orderFlag r.ord (ord.getLsbD 1)))

/-! ## Address groups and reductions (R331, R332) -/

/-- Whether the members of a group form a tree of distinct coaches of the gang (R331). -/
def membersOk (ncoach : Nat) (mem : List (Nat × Nat)) : Bool :=
  ((List.range mem.length).zip mem).all fun p =>
    decide (p.2.1 < ncoach) && (p.1 == 0 || decide (p.2.2 < p.1)) &&
      !((mem.take p.1).any fun q => q.1 == p.2.1)

/-- Whether an address lies in a PSRAM window of a map (R331). -/
def State.isWindow (s : State) (coach map : Nat) (a : Word) : Bool :=
  decide (a.toNat < 2 ^ 48) &&
    (match findEntry (s.gangOf coach) (s.mapOf coach map) a.toNat with
     | some e => e.home == 4
     | none => false)

/-- A descriptor as it is read at issue: NM, and the group if it is well formed (R331). -/
def State.readGroup (s : State) (core : Nat) (e : Entry) : Nat × Option Group :=
  let kc := coachOf core
  let dw (i : Nat) : Word := BitVec.ofNat 64 (natOfBytes (s.ctxBytes kc e.map e.ver (e.v0.toNat + 8 * i) 8))
  let nm := fld (dw 0) 0 9
  let list := e.v0 + 32
  if nm < 2 ∨ 384 < nm ∨ (s.checkOperand core e.map .ctx false list (4 * nm)).isSome then (nm, none)
  else
    let mem := (List.range nm).map fun i =>
      let x := BitVec.ofNat 64 (natOfBytes (s.ctxBytes kc e.map e.ver (list.toNat + 4 * i) 4))
      (fld x 0 12, fld x 16 9)
    if membersOk (s.gangOf kc).ncoach mem && s.isWindow kc e.map (dw 1) && s.isWindow kc e.map (dw 2) then
      (nm, some { all := flag (dw 0) 16, src := dw 1, dst := dw 2, map := e.map, mem := mem })
    else (nm, none)

/-- `fcoll.set` (R331): the descriptor is read and checked at issue; the group is set, or the operation completes with BADARG, in the cycle of its issue
(DESIGN CHOICE, log 6: R394 names no figure for it). -/
def execFcollSet (g : BitVec 4) (b : Reg) (o : BitVec 11) (u : UCont) (s : State) : Host.Outcome State Fault Refusal :=
  match s.focus.cur with
  | none =>
    let a := s.address b o.toNat
    let operand (_ : List Word) : Except Flt Fields := orFault (s.checkOperand s.me (s.mapNow s.me) .ctx false a 32) { v0 := a }
    .next (s.enqueue .f (.fcollSet g b o u) none [] (.ok ([s.ftc], s)) operand (some u.aw.toNat))
  | some e =>
    let kc := coachOf s.me
    let k := s.coach kc
    let op := opOf .f e s.cyc s.cyc
    match s.readGroup s.me e with
    | (nm, some x) =>
      .next (((s.startF e).setCoach kc { k with fab := { k.fab with groups := putKey k.fab.groups g.toNat x } }).finishOp s.me op nm 0)
    | (_, none) => .next ((s.startF e).finishOp s.me op 0 7)

/-- The storage of a byte of a group's window in a member's coach (R331). -/
def State.memberLoc (s : State) (coach : Nat) (g : Group) (a : Word) (off member : Nat) : Loc :=
  let gg := s.gangOf coach
  match findEntry gg (s.mapOf coach g.map) a.toNat with
  | none => .sram (gg.coachAt member) 0
  | some e =>
    .sram (gg.coachAt member)
      (e.car * 2 ^ 24 + e.blk * 2 ^ 21 + (e.offg + a.toNat / 4096 - e.baseg) * 4096 + a.toNat % 4096 + off)

/-- `fred` (R332): each member is asked for its source bytes; with a group never set it completes with BADARG in the cycle of its issue (DESIGN CHOICE,
log 6). -/
def execFred (op : BitVec 2) (g t : BitVec 4) (b : Reg) (n : BitVec 11) (u : UCont) (s : State) : Host.Outcome State Fault Refusal :=
  match s.focus.cur with
  | none =>
    let o := s.reg b
    let operand (_ : List Word) : Except Flt Fields :=
      if o.toNat % 64 ≠ 0 then .error (.at127 0x33 (o.toNat % 2 ^ 48)) else .ok { v0 := o }
    .next (s.enqueue .f (.fred op g t b n u) none [] (.ok ([s.ftc], s)) operand (some u.aw.toNat))
  | some e =>
    let kc := coachOf s.me
    let me := s.me
    match lookup? (s.coach kc).fab.groups g.toNat with
    | none => .next ((s.startF e).finishOp s.me (opOf .f e s.cyc s.cyc) 0 7)
    | some x =>
      let ask (s : State) (p : Nat × (Nat × Nat)) : State :=
        let dst := (s.gangOf kc).coachAt p.2.1
        s.send { (msgOf .collective (dieOf kc) (dieOf dst) (fClass e)) with
          srcCo := kc, dstCo := dst, loc := s.memberLoc kc x x.src e.v0.toNat p.2.1, opnd := [p.1, (n.toNat + 1) * 64], core := me
          id := e.id }
      let s1 := s.startOp me { opOf .f e s.cyc s.cyc with grp := some x }
      .next (((List.range x.mem.length).zip x.mem).foldl ask s1)

/-- FRED_CONTRIBUTION (R146, R332): the router of a member reads its source bytes, unit by unit. -/
def execFredContribution (n : Nat) (s : State) : Host.Outcome State Fault Refusal :=
  match s.msgReady n with
  | none => .next s
  | some m =>
    if m.kind ≠ .collective then .next s
    else
      match (s.eng m.core).op? m.id with
      | none => .next (s.dropMsg n)
      | some o =>
        if s.msgServed m = false then .next s
        else
          let m1 := m.moved ((s.viewOf m.place).read m.place.key m.unit)
          let s1 := s.moveUnit n m ((s.viewOf m.place).read m.place.key m.unit)
          if m1.whole then .next ((s1.dropMsg n).setOp m.core { o with parts := putKey o.parts (nthD 0 m.opnd 0) m1.got })
          else .next s1

/-- The elements of a member's source bytes, BF16 widened to FP32 (R332). -/
def redElems (t : Nat) (bs : List Byte) : List Nat :=
  match t with
  | 1 => (elemsOf 2 (bs.length / 2) bs).map fun x => fp32.round .rne (bf16.decode x)
  | 8 => elemsOf 8 (bs.length / 8) bs
  | _ => elemsOf 4 (bs.length / 4) bs

/-- One step of a reduction (R332). -/
def fredOp (op t : Nat) (a b : Nat) : Nat :=
  let f := if t = 8 then fp64 else fp32
  if t = 9 then
    let x : BitVec 32 := BitVec.ofNat 32 a
    let y : BitVec 32 := BitVec.ofNat 32 b
    match op with
    | 0 => (x + y).toNat
    | 1 => if x.toInt < y.toInt then b else a
    | _ => if y.toInt < x.toInt then b else a
  else
    match op with
    | 0 => f.add a b
    | 1 => f.round .rne (Val.fmax (f.decode a) (f.decode b))
    | _ => f.round .rne (Val.fmin (f.decode a) (f.decode b))

/-- The value of the subtree of a member: its own elements, then each child's subtree in ascending member index (R332). The fuel is the
number of members. -/
def subtree (op t : Nat) (mem : List (Nat × Nat)) (x : Nat → List Nat) : Nat → Nat → List Nat
  | 0, i => x i
  | f + 1, i =>
    ((List.range mem.length).filter fun c => decide (i < c) && (nthD (0, 0) mem c).2 == i).foldl
      (fun acc c => List.zipWith (fredOp op t) acc (subtree op t mem x f c)) (x i)

/-- Bytes of an element of a reduction's result. -/
def redBytes (t : Nat) : Nat := if t = 8 then 8 else 4

/-- When an operation whose conditions have come about may complete: a time drawn then, of a length that R394 leaves open. -/
def State.settleOp (s : State) (o : Op) : Op × State :=
  if o.done then (o, s)
  else
    let t := s.delay 0xFFFFFFFF
    ({ o with done := true, due := s.cyc + t.1 }, t.2)

/-- The target windows of a reduction: the root's, and with ALL every member's (R332). -/
def State.fredTargets (s : State) (coach : Nat) (x : Group) (off : Nat) : List Loc :=
  (if x.all then x.mem else x.mem.take 1).map fun p => s.memberLoc coach x x.dst off p.1

/-- FRED_COMPLETE (R146, R332, R394): with every contribution there, and the router's time over, the result is written to the root's target
window, and to every member's when ALL is 1, window by window and unit by unit through the dynamic slots; with the last unit the operation
completes with the result's bytes. -/
def execFredComplete (core n : Nat) (s : State) : Host.Outcome State Fault Refusal :=
  match (s.eng core).op? n with
  | none => .next s
  | some o =>
    match o.e.ins with
    | .fred op _ t _ _ _ =>
      match o.grp with
      | none => .next s
      | some x =>
        if o.parts.length < x.mem.length then .next s
        else
          let elems (i : Nat) : List Nat := redElems t.toNat (lookupD [] o.parts i)
          let out := (subtree op.toNat t.toNat x.mem elems x.mem.length 0).flatMap (bytesOf (redBytes t.toNat))
          let to_ := s.fredTargets (coachOf core) x o.e.v0.toNat
          let at_ := o.pos % out.length
          let l := (nthD (.sram 0 0) to_ (o.pos / out.length)).add at_
          let (o1, s1) := s.settleOp o
          if s.cyc < o1.due ∨ s.served true l 64 = false then .next (s1.setOp core o1)
          else
            let s2 : State := { s1.takeSlot true l 1 with mem := s1.mem.write l.key (unitOf at_ out) }
            if to_.length * out.length ≤ o.pos + 64 then .next (s2.finishOp core o1 out.length 0) else .next (s2.nextUnit core o1 64)
    | _ => .next s

/-- FRED_TIMEOUT (R332): a contribution is missing 1,048,576 cycles after the issue: value 0, status PEER_ABSENT, nothing written. -/
def execFredTimeout (core n : Nat) (s : State) : Host.Outcome State Fault Refusal :=
  match (s.eng core).op? n with
  | none => .next s
  | some o =>
    match o.e.ins with
    | .fred .. =>
      let n := match o.grp with
        | some x => x.mem.length
        | none => 0
      if o.at_ + 1048576 ≤ s.cyc ∧ o.parts.length < n then .next (s.finishOp core o 0 2) else .next s
    | _ => .next s

/-! ## fbar (R333) -/

/-- `fbar` (R333): the core's next barrier; its remote writes so far are noted. -/
def execFbar (u : UCont) (s : State) : Host.Outcome State Fault Refusal :=
  match s.focus.cur with
  | none => .next (s.enqueue .f (.fbar u) none [] (.ok ([s.ftc], s)) noOperand (some u.aw.toNat))
  | some e =>
    let c := s.ctl s.me
    let out := ((s.coach (coachOf s.me)).fab.out.filter fun w => w.core == s.me).map (·.id)
    .next ((s.setCtl s.me { c with nfbar := c.nfbar + 1 }).startOp s.me { opOf .f e s.cyc s.cyc with pos := c.nfbar, data := out })

/-- The cores of a gang. -/
def Gang.cores (g : Gang) : List Nat := g.coaches.flatMap coresOf

/-- The pending fbar operation of a core with a number. -/
def State.fbarOp (s : State) (core k : Nat) : Option Op :=
  (s.eng core).ops.find? fun o => match o.e.ins with
    | .fbar _ => o.pos == k
    | _ => false

/-- Whether a core has arrived at the k-th fbar, its earlier remote writes acknowledged; an exited core has (R333, R377). -/
def State.fbarArrived (s : State) (core k : Nat) : Bool :=
  match s.fbarOp core k with
  | some o => o.data.all fun i => !((s.coach (coachOf core)).fab.out.any fun w => w.id == i)
  | none => (s.ctl core).hasExited || decide (k < (s.ctl core).nfbar)

/-- The lowest number of a fbar of a gang whose barrier is not yet complete. -/
def State.fbarNext (s : State) (g : Gang) : Option Nat :=
  (g.cores.flatMap fun c => (s.eng c).ops.filterMap fun o => match o.e.ins with
    | .fbar _ => if o.done then none else some o.pos
    | _ => none).foldl (fun m n => match m with
      | none => some n
      | some x => some (Nat.min x n)) none

/-- Complete the k-th fbar of every core that has issued it. -/
def State.finishFbar (s : State) (k stat : Nat) : List Nat → State
  | [] => s
  | c :: rest =>
    match s.fbarOp c k with
    | some o => (s.finishOp c o 0 stat).finishFbar k stat rest
    | none => s.finishFbar k stat rest

/-- The k-th barrier of a gang is complete: each core that has issued it learns so after a time of its own (R333, R394). -/
def State.passFbar (s : State) (k : Nat) : List Nat → State
  | [] => s
  | c :: rest =>
    match s.fbarOp c k with
    | some o => ((s.settleOp o).2.setOp c (s.settleOp o).1).passFbar k rest
    | none => s.passFbar k rest

/-- The arrival words of passed barriers whose time has come are set with value 0 and status OK (R333). -/
def State.endFbars (s : State) : List Nat → State
  | [] => s
  | c :: rest =>
    match (s.eng c).ops.find? fun o => match o.e.ins with
        | .fbar _ => o.done && decide (o.due ≤ s.cyc)
        | _ => false with
    | some o => (s.finishOp c o 0 0).endFbars rest
    | none => s.endFbars rest

/-- Whether a gang's contexts stand on its coaches. -/
def State.onCoaches (s : State) (gang : Nat) : Bool := (s.gang gang).coaches.all fun c => (s.coach c).gang == some gang

/-- FBAR_COMPLETE (R333): once every core of a gang that stands on its coaches has arrived, the barrier is complete; each core's arrival word
is set with value 0. -/
def execFbarComplete (gang : Nat) (s : State) : Host.Outcome State Fault Refusal :=
  let g := s.gang gang
  if s.onCoaches gang = false then .next s
  else
    let s1 := match s.fbarNext g with
      | none => s
      | some k => if g.cores.all fun c => s.fbarArrived c k then s.passFbar k g.cores else s
    .next (s1.endFbars g.cores)

/-! ## Host copies (R142, R143, R334) -/

/-- SLOT of a handle (R18). -/
def hSlot (h : Word) : Nat := fld h 48 16
/-- GEN of a handle (R18). -/
def hGen (h : Word) : Nat := fld h 32 16
/-- OFFSET of a handle (R18). -/
def hOff (h : Word) : Nat := fld h 0 32

/-- A doubleword of a handle-table entry of a tenant (R142). -/
def State.handleWord (s : State) (die tenant slot i : Nat) : Word :=
  let b := (s.die die).regs.get (tenant * 65536 + 0x110)
  s.mem.dword (.dev die (fld b 12 36 * 4096 + slot * 32 + 8 * i))

/-- The handle check (R143) for a transfer of n bytes that reads (h2d) or writes (d2h) host memory. -/
def State.handleOk (s : State) (die tenant : Nat) (h : Word) (n : Nat) (d2h : Bool) : Bool :=
  let b := (s.die die).regs.get (tenant * 65536 + 0x110)
  let w := s.handleWord die tenant (hSlot h) 1
  flag b 0 && flag w 63 && hGen h != 0 && hGen h == fld w 32 16 && decide (hOff h + n ≤ fld w 0 32 * 4096) &&
    (if d2h then flag w 49 else flag w 48)

/-- `cph.h2d` and `cph.d2h` (R334): operand, region and handle checks at enqueue (an OFFSET
that is no multiple of 64 is itself the offending value of R174); at issue the copy starts. -/
def execCph (m : BitVec 2) (d h n : Reg) (u : UCont) (s : State) : Host.Outcome State Fault Refusal :=
  match s.focus.cur with
  | none =>
    let dev := s.reg d
    let hnd := s.reg h
    let len := s.reg n
    let c := s.me
    let bad (v : Word) : Except Flt Fields := .error (.at127 0x33 (v.toNat % 2 ^ 48))
    let operand (_ : List Word) : Except Flt Fields :=
      if dev.toNat % 64 ≠ 0 then bad dev
      else if hOff hnd % 64 ≠ 0 then .error (.at127 0x33 (hOff hnd))
      else if len.toNat % 64 ≠ 0 ∨ len.toNat = 0 ∨ 2 ^ 32 < len.toNat then bad len
      else
        match s.checkOperand c (s.mapNow c) .host (m == 0) dev len.toNat with
        | some (code, x) => .error (.at127 code (x % 2 ^ 48))
        | none =>
          if s.handleOk (dieOf (coachOf c)) (s.gangOf (coachOf c)).tenant hnd len.toNat (m == 1) then
            .ok { v0 := dev, v1 := hnd, v2 := len }
          else .error (.at127 0x24 (hSlot hnd * 2 ^ 32 + hGen hnd * 2 ^ 16))
    .next (s.enqueue .f (.cph m d h n u) none [] (.ok ([s.ftc], s)) operand (some u.aw.toNat))
  | some e =>
    let t := s.delay 0xFFFFFFFF
    .next (t.2.startOp s.me (opOf .f e s.cyc (s.cyc + 1 + t.1)))

/-- Whether the unit of 64 bytes at a context address is served now, by the slot of its block or by the OPEN slots (R146, R182). -/
def State.unitServed (s : State) (coach : Nat) (e : Entry) (a : Nat) : Bool := s.ctxServed coach e.map e.ver a 64

/-- Where the next unit of a host copy stands in host memory: the PASID and the address, from the translation of its granule. -/
def Op.hostAt (o : Op) : Loc := .host (nthD 0 o.data 1) (nthD 0 o.data 0 + o.pos)

/-- A host copy moves its next unit, and comes to the one after it: the next of its granule in the next cycle, another granule after a time of its
own (R334, R394). -/
def State.copyUnit (s : State) (core : Nat) (o : Op) (d2h : Bool) : State :=
  let kc := coachOf core
  let dev := o.e.v0.toNat + o.pos
  let t := if (nthD 0 o.data 0 + o.pos + 64) % 4096 = 0 ∨ o.e.v2.toNat ≤ o.pos + 64 then s.delay 0xFFFFFFFF else (0, s)
  let o1 := { o with pos := o.pos + 64, due := s.cyc + 1 + t.1 }
  let s1 := t.2.takeCtx kc o.e.map o.e.ver dev 64
  if d2h then
    ({ s1 with mem := s1.mem.write o.hostAt.key (s1.ctxWas kc o.e.map o.e.ver dev 64) } : State).setOp core o1
  else
    let cells := s1.ctxCells kc o.e.ver (s1.parts kc o.e.map dev 64) (s1.mem.read o.hostAt.key 64)
    (s1.storeCells kc core o.e.map cells).setOp core o1

/-- CPH_GRANULE (R143, R146, R334): a host copy moves its next unit. Before each host granule the handle is checked again and the host address
translated, and the copy stops at the boundary with REVOKED or BADARG. -/
def execCphGranule (core n : Nat) (s : State) : Host.Outcome State Fault Refusal :=
  match (s.eng core).op? n with
  | none => .next s
  | some o =>
    match o.e.ins with
    | .cph m _ _ _ _ =>
      if o.done = true ∨ o.e.v2.toNat ≤ o.pos ∨ s.cyc < o.due ∨ s.unitServed (coachOf core) o.e (o.e.v0.toNat + o.pos) = false then .next s
      else if o.pos = 0 ∨ (nthD 0 o.data 0 + o.pos) % 4096 = 0 then
        let die := dieOf (coachOf core)
        let tenant := (s.gangOf (coachOf core)).tenant
        let h := o.e.v1
        if s.handleOk die tenant h o.e.v2.toNat (m == 1) = false then .next (s.setOp core { o with done := true, stat := 1 })
        else
          let (bad, s1) := s.mishap
          if bad then .next (s1.setOp core { o with done := true, stat := 7 })
          else
            let base := (s.handleWord die tenant (hSlot h) 0).toNat + hOff h
            .next (s1.copyUnit core { o with data := [base, fld (s.handleWord die tenant (hSlot h) 2) 0 20] } (m == 1))
      else .next (s.copyUnit core o (m == 1))
    | _ => .next s

/-- CPH_COMPLETE (R334): the copy completes with the bytes moved. -/
def execCphComplete (core n : Nat) (s : State) : Host.Outcome State Fault Refusal :=
  match (s.eng core).op? n with
  | none => .next s
  | some o =>
    match o.e.ins with
    | .cph .. =>
      if o.done = true ∨ (o.e.v2.toNat ≤ o.pos ∧ o.due ≤ s.cyc) then .next (s.finishOp core o o.pos o.stat) else .next s
    | _ => .next s

/-! ## When an F or K entry may issue (R294, R327, R346, R347) -/

/-- Whether an F entry is an acquire (R346). -/
def State.fAcquire (s : State) (core : Nat) (e : Entry) : Bool :=
  match e.ins with
  | .flLd z q .. => orderFlag (s.remoteOrd (coachOf core) e (flBytes z)) q
  | .fam ord .. => orderFlag (s.remoteOrd (coachOf core) e 1) (ord.getLsbD 0)
  | _ => false

/-- Whether every store and atomic of the core's earlier lines has performed (R347). -/
def State.storesDone (s : State) (core : Nat) (e : Entry) : Bool :=
  !((s.ctl core).acc.any fun a => a.kind != .load && decide (a.at_ < e.disp))

/-- Whether no acquire of the F queue is incomplete (R346). -/
def State.noAcquire (s : State) (core : Nat) : Bool := !((s.eng core).ops.any fun o => o.q == .f && s.fAcquire core o.e)

/-- Whether the head of the F queue may issue (R327, R346, R347). -/
def State.fReady (s : State) (core : Nat) (e : Entry) : Bool :=
  let x := s.eng core
  s.storesDone core e && s.noAcquire core &&
    (match e.ins with
     | .fbar _ => !(x.qs.any fun t => decide (t.id < e.id))
     | _ => true)

/-- Whether the head of the K queue may issue: its predecessor has been applied (R294, R347). -/
def State.kReady (s : State) (core : Nat) (e : Entry) : Bool :=
  s.storesDone core e && !((s.eng core).ops.any fun o => o.q == .k && !o.done)

end Sys2Proof.Machine
end

