-- ==== Sys2Proof/Config.lean ====
section
/-! DEFINITION. What the manual leaves to the implementation and no rule computes: the package's signatures, its serial number and the values of its fuses. Each is an opaque constant, so a claim holds whatever it is. -/

namespace Sys2Proof.Config

/-- The 64-byte ECDSA P-256 signature of a digest by the package's attestation key, which never leaves the cluster, the first byte lowest; the second
argument numbers the signature, since the nonce of each is free (R385); log 9. -/
opaque attest : (digest : List Byte) → (number : Nat) → BitVec 512

/-- The 64-bit package serial number of a die's package (R385); log 9. -/
opaque serial : (die : Nat) → Word

/-- The 4 KiB granules of capacity memory that boot stage 2 finds attached to a die's CXL ports (R383, R393); log 9. -/
opaque capGranules : (die : Nat) → Nat

/-- The SHA-256 digest of the boot ROM, which is stage 0 (R383, R385); log 9. -/
opaque romDigest : List Byte

/-- The bytes that a save writes where the manual names what is kept and gives no layout (the progress of a shift set, and the coach state of
R366), by offset in the save area; the argument numbers the save; log 17. -/
opaque savedState : (number : Nat) → List (Nat × Byte)

end Sys2Proof.Config
end

