-- ==== Sys2Proof/Machine/Ecdsa.lean ====
section
/-! DEFINITION. ECDSA over curve P-256, with which the boot stages are signed (R384). The curve and the verification are those of FIPS 186; how numbers stand in bytes is that of SEC 1: 32 bytes each, the highest first (PRESUMED, log 107: R384 names the algorithm alone). -/

namespace Sys2Proof.Machine.P256

/-- The prime of the field. -/
def prime : Nat := 0xFFFFFFFF00000001000000000000000000000000FFFFFFFFFFFFFFFFFFFFFFFF

/-- The order of the base point. -/
def order : Nat := 0xFFFFFFFF00000000FFFFFFFFFFFFFFFFBCE6FAADA7179E84F3B9CAC2FC632551

/-- The coefficient b of y² = x³ − 3x + b. -/
def coeff : Nat := 0x5AC635D8AA3A93E7B3EBBD55769886BC651D06B0CC53B0F63BCE3C3E27D2604B

/-- The base point. -/
def baseX : Nat := 0x6B17D1F2E12C4247F8BCE6E563A440F277037D812DEB33A0F4A13945D898C296
/-- The base point's y. -/
def baseY : Nat := 0x4FE342E2FE1A7F9B8EE7EB4A7C0F9E162BCE33576B315ECECBB6406837BF51F5

/-- Product in the field. -/
def mul (a b : Nat) : Nat := a * b % prime
/-- Sum in the field. -/
def add (a b : Nat) : Nat := (a + b) % prime
/-- Difference in the field. -/
def sub (a b : Nat) : Nat := (a + (prime - b % prime)) % prime

/-- A point of the curve in Jacobian coordinates: x / z² and y / z³; z is 0 at infinity. -/
structure Point where
  x : Nat
  y : Nat
  z : Nat
  deriving DecidableEq, Repr

/-- The point at infinity. -/
def infinity : Point := { x := 1, y := 1, z := 0 }

/-- Twice a point. -/
def double (p : Point) : Point :=
  let d := mul p.z p.z
  let g := mul p.y p.y
  let b := mul p.x g
  let a := mul 3 (mul (sub p.x d) (add p.x d))
  let x := sub (mul a a) (mul 8 b)
  { x := x, y := sub (mul a (sub (mul 4 b) x)) (mul 8 (mul g g)), z := mul 2 (mul p.y p.z) }

/-- The sum of two points. -/
def plus (p q : Point) : Point :=
  if p.z = 0 then q
  else if q.z = 0 then p
  else
    let pz := mul p.z p.z
    let qz := mul q.z q.z
    let u := mul p.x qz
    let s := mul p.y (mul q.z qz)
    let h := sub (mul q.x pz) u
    let r := sub (mul q.y (mul p.z pz)) s
    if h = 0 then (if r = 0 then double p else infinity)
    else
      let h2 := mul h h
      let h3 := mul h h2
      let v := mul u h2
      let x := sub (sub (mul r r) h3) (mul 2 v)
      { x := x, y := sub (mul r (sub v x)) (mul s h3), z := mul h (mul p.z q.z) }

/-- u times p plus v times q, from bit n − 1 of the factors downward. -/
def combine (u v : Nat) (p q both : Point) : Nat → Point → Point
  | 0, acc => acc
  | n + 1, acc =>
    let a := double acc
    combine u v p q both n
      (match u.testBit n, v.testBit n with
       | true, true => plus a both
       | true, false => plus a p
       | false, true => plus a q
       | false, false => a)

/-- A power modulo the order, from bit n − 1 of the exponent downward. -/
def power (a e : Nat) : Nat → Nat → Nat
  | 0, acc => acc
  | n + 1, acc =>
    let sq := acc * acc % order
    power a e n (if e.testBit n then sq * a % order else sq)

/-- The inverse modulo the order, which is prime. -/
def inverse (a : Nat) : Nat := power a (order - 2) 256 1

/-- Whether a pair is a point of the curve. -/
def onCurve (x y : Nat) : Bool :=
  decide (x < prime) && decide (y < prime) && mul y y == add (sub (mul x (mul x x)) (mul 3 x)) coeff

/-- Whether r and s sign a digest under a public key. -/
def verify (x y digest r s : Nat) : Bool :=
  if onCurve x y && decide (0 < r) && decide (r < order) && decide (0 < s) && decide (s < order) then
    let w := inverse s
    let g : Point := { x := baseX, y := baseY, z := 1 }
    let q : Point := { x := x, y := y, z := 1 }
    let p := combine (digest * w % order) (r * w % order) g q (plus g q) 256 infinity
    let z := mul p.z p.z
    p.z != 0 && (p.x == mul r z || (decide (r + order < prime) && p.x == mul (r + order) z))
  else false

/-- A number whose highest byte comes first (PRESUMED, log 107). -/
def numOf (bs : List Byte) : Nat := natOfBytes bs.reverse

/-- Whether a signature of 64 bytes over a digest is valid under a public key of 64 bytes (R384). -/
def valid (key digest sig : List Byte) : Bool :=
  decide (key.length = 64) && decide (sig.length = 64) &&
    verify (numOf (key.take 32)) (numOf (key.drop 32)) (numOf digest) (numOf (sig.take 32)) (numOf (sig.drop 32))

end Sys2Proof.Machine.P256
end

