-- ==== Sys2Proof/Machine/Launch.lean ====
section
/-! DEFINITION. Images, launch records and the job log (R11 to R28), slots, reservations and placement (R29 to R38), and launch (R39, R40). -/

namespace Sys2Proof.Machine

/-! ## The image (R11 to R17) -/

/-- A step of CRC-32 of the IEEE 802.3 polynomial, reflected, for n bits. -/
def crcBits : Nat → BitVec 32 → BitVec 32
  | 0, c => c
  | n + 1, c => crcBits n (if c.getLsbD 0 then (c >>> 1) ^^^ 0xEDB88320 else c >>> 1)

/-- CRC-32 of a list of bytes (R11). -/
def crc32 (bs : List Byte) : BitVec 32 :=
  ~~~ (bs.foldl (fun c b => crcBits 8 (c ^^^ b.setWidth 32)) 0xFFFFFFFF)

/-- A number of an image header at a device address of a die (R11). -/
def State.imageNum (s : State) (die base off n : Nat) : Nat := s.mem.num (.dev die (base + off)) n

/-- A section of an image by its KIND: file offset, size, load offset (R12). -/
def State.section_ (s : State) (die base kind : Nat) : Option (Nat × Nat × Nat) :=
  let off := s.imageNum die base 0x20 4
  ((List.range (s.imageNum die base 0x07 1)).find? fun i => s.imageNum die base (off + 16 * i) 1 == kind).map fun i =>
    let e := off + 16 * i
    (s.imageNum die base (e + 4) 4, s.imageNum die base (e + 8) 4, s.imageNum die base (e + 12) 4)

/-- The bytes of a section; none when the image has no such section. -/
def State.sectionBytes (s : State) (die base kind : Nat) : List Byte :=
  match s.section_ die base kind with
  | some (f, n, _) => s.mem.read (Loc.dev die (base + f)).key n
  | none => []

/-- The load offset of a section. -/
def State.sectionAt (s : State) (die base kind : Nat) : Nat :=
  match s.section_ die base kind with
  | some (_, _, l) => l
  | none => 0

/-- Whether the header's CRC is right (R11): over the image with the CRC field as zero. -/
def State.crcOk (s : State) (die base : Nat) : Bool :=
  let bs := s.mem.read (Loc.dev die base).key (s.imageNum die base 0x24 4)
  crc32 (bs.take 0x28 ++ List.replicate 4 0 ++ bs.drop 0x2C) == BitVec.ofNat 32 (s.imageNum die base 0x28 4)

/-- The maps of a `.phases` section: each a count and its entries (R15). -/
def parseMaps : Nat → List Byte → List (List MapEntry)
  | 0, _ => []
  | n + 1, bs =>
    let count := natOfBytes (bs.take 2) % 512
    let body := bs.drop 16
    let word (i : Nat) : Word := BitVec.ofNat 64 (natOfBytes ((body.drop (8 * i)).take 8))
    let m := (List.range count).map fun i => ({ dw0 := word (2 * i), dw1 := word (2 * i + 1) } : MapEntry)
    m :: parseMaps n (body.drop (16 * count))

/-- The chunks of a `.data` section: context address and bytes (R17). The fuel bounds the number of chunks. -/
def parseData : Nat → List Byte → List (Nat × List Byte)
  | 0, _ => []
  | f + 1, bs =>
    if bs.length < 16 then []
    else
      let a := natOfBytes (bs.take 6)
      let n := natOfBytes ((bs.drop 8).take 4)
      (a, (bs.drop 16).take n) :: parseData f (bs.drop (16 + (n + 7) / 8 * 8))

/-- The dictionary entries of a `.dict` section (R14). -/
def parseDict (bs : List Byte) : Bits 35 :=
  (List.range (bs.length / 8)).foldl (fun t i => Bits.put t i (BitVec.ofNat 35 (natOfBytes ((bs.drop (8 * i)).take 8)))) []

/-! ## Launch records (R21 to R23) -/

namespace Gang

/-- IMAGE. -/
def image (g : Gang) : Nat := fld (nthD 0 g.words 0) 0 48
/-- PH0. -/
def ph0 (g : Gang) : Nat := fld (nthD 0 g.words 1) 43 4
/-- GALLOC of the record. -/
def galloc (g : Gang) : Nat := fld (nthD 0 g.words 1) 36 7
/-- TMODE of the record. -/
def tmode (g : Gang) : Nat := fld (nthD 0 g.words 1) 34 1
/-- PRIO. -/
def prio (g : Gang) : Nat := fld (nthD 0 g.words 1) 32 2
/-- TAG. -/
def tag (g : Gang) : Nat := fld (nthD 0 g.words 3) 32 32
/-- RESV. -/
def resv (g : Gang) : Nat := fld (nthD 0 g.words 3) 0 16

/-- Whether the slot is held: from ACCEPTED until the gang has ended and its parent has been told (R29). -/
def held (g : Gang) : Bool := !((g.stand == .done || g.stand == .faulted) && g.parent.isNone)

end Gang

/-- TQ of a tenant on a die (R30). -/
def Die.tq (d : Die) (tenant : Nat) : Word := d.regs.get (0x2000 + 8 * tenant)

/-- A reservation entry of a die: RID, tenant, coach mask, spare; none while it is not valid (R31). -/
def Die.rsv (d : Die) (k : Nat) : Option (Nat × Nat × Nat × Bool) :=
  let w := d.regs.get (0x3000 + 16 * k)
  let rid := fld w 48 16
  let ten := fld w 40 5
  if flag w 0 && rid != 0 && decide (1 ≤ ten) && decide (ten ≤ 16) then some (rid, ten, fld w 32 8, flag w 1) else none

/-- The valid reservation entries of a die. -/
def Die.rsvs (d : Die) : List (Nat × Nat × Nat × Bool) := (List.range 64).filterMap d.rsv

/-- Whether some die holds a reservation of a tenant with an id (R23, R31). -/
def State.hasResv (s : State) (tenant rid : Nat) : Bool :=
  s.present.any fun d => (s.die d).rsvs.any fun r => r.1 == rid && r.2.1 == tenant

/-- The reject code of a record: the lowest that applies, or none (R23). -/
def State.rejectCode (s : State) (die tenant : Nat) (words : List Word) : Option Nat :=
  let g : Gang := { Gang.reset with words := words }
  let w (i : Nat) : Word := nthD 0 words i
  let img := g.image
  let num (off n : Nat) : Nat := s.imageNum die img off n
  let modes := num 0x0F 1
  let badShape := g.ndie = 0 ∨ 384 < g.ndie ∨ g.ncoach % g.ndie ≠ 0 ∨ g.ncoach / g.ndie = 0 ∨ 8 < g.ncoach / g.ndie
  let reserved := fld (w 0) 48 16 + fld (w 1) 47 17 + fld (w 1) 35 1 + fld (w 1) 25 7 + fld (w 1) 12 4 + fld (w 2) 48 16 +
    fld (w 3) 16 16
  if img % 4096 ≠ 0 ∨ num 0 4 ≠ 0x31495342 ∨ num 4 2 ≠ 1 ∨ s.crcOk die img = false then some 0x01
  else if 1 < num 6 1 then some 0x02
  else if badShape then some 0x03
  else if g.galloc < num 0x18 1 ∨ 64 < g.galloc then some 0x04
  else if modes.testBit g.tmode = false then some 0x05
  else if fld (w 2) 0 48 = 0 ∧ num 0x10 8 % 2 ^ 48 = 0 then some 0x06
  else if num 0x0E 1 ≤ g.ph0 then some 0x07
  else if g.resv ≠ 0 ∧ s.hasResv tenant g.resv = false then some 0x08
  else if reserved ≠ 0 then some 0x09
  else if fld ((s.die die).tq tenant) 16 12 < g.ncoach ∨ s.present.length < g.ndie then some 0x0A
  else none

/-! ## Slots (R29) -/

/-- The gangs of a die's slots. -/
def slotsOf (die : Nat) : List Nat := span (die * 64) 64

/-- The lowest free slot of a die, when the tenant may hold another (R29, R30). -/
def State.freeSlot (s : State) (die tenant : Nat) : Option Nat :=
  let mine := (slotsOf die).filter fun g => (s.gang g).held && (s.gang g).tenant == tenant
  if mine.length < fld ((s.die die).tq tenant) 40 8 then (slotsOf die).find? fun g => !(s.gang g).held else none

/-- Accept a record into a slot (R22, R29). -/
def State.accept (s : State) (g tenant : Nat) (words : List Word) (recAt : Option Nat)
    (parent : Option (Nat × Nat × Nat × Nat)) : State :=
  let die := g / 64
  let order := ((slotsOf die).filter fun i => (s.gang i).held && (s.gang i).accept / 4096 == s.cyc).length
  let b := fld (nthD 0 words 2) 0 48
  let budget := if b = 0 then s.imageNum die (fld (nthD 0 words 0) 0 48) 0x10 8 % 2 ^ 48 else b
  s.setGang g { Gang.reset with
    stand := .waiting, tenant := tenant, words := words, recAt := recAt, accept := s.cyc * 4096 + order, budget := budget
    parent := parent }

/-- Write STATE and CODE of a gang's launch record (R21). -/
def State.setRecord (s : State) (g code st : Nat) : State :=
  match (s.gang g).recAt with
  | some a => { s with mem := s.mem.setNum (.dev (g / 64) (a + 96)) 8 (code * 256 + st) }
  | none => s

/-! ## The job log (R24 to R26) -/

/-- Whether the launch unit of a die is enabled: boot has reached the runtime firmware, and the die is not lost (R383, R391). -/
def Die.unitOn (d : Die) : Bool := d.mgmt.boot == 1 && d.mgmt.stage == 3 && !d.lost

/-- The address of record i of a log (R25). -/
def logRecord (base log2n i : Nat) : Nat := base + 64 + (i % 2 ^ (log2n + 4)) * 128

/-- Take records in index order, and stop early when no slot is free (R26, R30). -/
def State.takeRecords (s : State) (die tenant base log2n : Nat) : Nat → Nat → State × Nat
  | 0, i => (s, i)
  | n + 1, i =>
    match s.freeSlot die tenant with
    | none => (s, i)
    | some g =>
      let a := logRecord base log2n i
      let words := (List.range 12).map fun k => s.mem.dword (.dev die (a + 8 * k))
      let s1 := match s.rejectCode die tenant words with
        | some code => { s with mem := s.mem.setNum (.dev die (a + 96)) 8 (code * 256 + 5) }
        | none => (s.accept g tenant words (some a) none).setRecord g 0 1
      s1.takeRecords die tenant base log2n n ((i + 1) % 2 ^ 32)

/-- JOB_LOG_SCAN (R26): in every cycle that is a multiple of 4096, while EN is 1. A log that has overrun is closed; a tenant that may run no
work has no record taken (R30). -/
def execJobLogScan (die vf : Nat) (s : State) : Host.Outcome State Fault Refusal :=
  let d := s.die die
  let jlb := d.regs.get (vf * 65536 + 0x100)
  if s.cyc % 4096 ≠ 0 ∨ flag jlb 0 = false ∨ d.unitOn = false then .next s
  else
    let base := fld jlb 12 36 * 4096
    let log2n := fld (d.regs.get (vf * 65536 + 0x108)) 0 4
    let wr := s.mem.num (.dev die base) 4
    let rd := s.mem.num (.dev die (base + 8)) 4
    let n := (wr + 2 ^ 32 - rd) % 2 ^ 32
    if 2 ^ (log2n + 4) < n then
      let m := s.mem.num (.dev die (base + 16)) 1
      .next { (s.setDie die { d with regs := d.regs.put (vf * 65536 + 0x100) (setFld jlb 0 1 0) }) with
        mem := s.mem.setNum (.dev die (base + 16)) 1 (m ||| 1) }
    else if flag (d.tq vf) 0 = false then .next s
    else
      let r := s.takeRecords die vf base log2n n rd
      .next { r.1 with mem := r.1.mem.setNum (.dev die (base + 8)) 4 r.2 }

/-! ## Placement (R32 to R34, R38) -/

/-- The reservations that name a coach: RID, tenant, spare (R31). -/
def State.resvOf (s : State) (coach : Nat) : List (Nat × Nat × Bool) :=
  ((s.die (dieOf coach)).rsvs.filter fun r => r.2.2.1.testBit (coach % 8)).map fun r => (r.1, r.2.1, r.2.2.2)

/-- The one reservation of a coach; a coach named under two ids is unreserved (R31). Where several entries of one id name it, it is spare if
one of them says so, and the tenant is that of the lowest-numbered (DESIGN CHOICE, log 88: R31 does not say). -/
def State.reservedTo (s : State) (coach : Nat) : Option (Nat × Nat × Bool) :=
  match s.resvOf coach with
  | [] => none
  | r :: rest => if rest.all fun x => x.1 == r.1 then some (r.1, r.2.1, r.2.2 || rest.any fun x => x.2.2) else none

/-- Whether a coach lies on a gang's reservation and is no spare. -/
def State.onResv (s : State) (g : Gang) (coach : Nat) : Bool :=
  match s.reservedTo coach with
  | some (rid, ten, spare) => rid == g.resv && ten == g.tenant && !spare
  | none => false

/-- Whether a gang is of class 3 and of another tenant than a gang that claims its reservation (R38). -/
def Gang.yields (x g : Gang) : Bool := x.prio == 3 && x.tenant != g.tenant

/-- Whether a gang may be tried: its tenant's EN is 1 on its home die (R30, R32). -/
def State.mayTry (s : State) (gi : Nat) : Bool := flag ((s.die (gi / 64)).tq (s.gang gi).tenant) 0

/-- The key of a hold: PRIO, acceptance, home die (R34). -/
def State.holdKey (s : State) (gi : Nat) : Nat :=
  let g := s.gang gi
  (g.prio * 2 ^ 96 + g.accept / 4096) * 512 + gi / 64

/-- Whether a gang's contexts are saved away from its coaches: it waits to resume, also while it asks for its coaches (R33, R34). -/
def Gang.away (g : Gang) : Bool := g.stand == .preempted || (g.stand == .holding && !g.saved.isEmpty)

/-- Whether a coach belongs to a pre-empted context of another gang. A class-3 context of another tenant that has left a gang's reservation
keeps the coach from every gang but that one (R33, R38; DEDUCED, log 95). -/
def State.awayOn (s : State) (gang coach : Nat) : Bool :=
  s.gangs.any fun p => p.1 != gang && p.2.away && p.2.coaches.contains coach &&
    !(p.2.yields (s.gang gang) && s.onResv (s.gang gang) coach)

/-- Whether a hold keeps a coach from a gang: another gang's, of a key that is not larger; a gang that may not be tried keeps nothing (R30,
R34). A unit's placement of a gang of its own is held to the same key as a hold request (DESIGN CHOICE, log 60: R34 names a hold request as the
one exception). -/
def State.heldFrom (s : State) (gang coach : Nat) : Bool :=
  (s.die (dieOf coach)).holds.any fun h => h.1 == coach && h.2.1 != gang && decide (h.2.2 ≤ s.holdKey gang) && s.mayTry h.2.1

/-- Whether no context and no stronger hold of another gang is on a coach (R33, R34). -/
def State.coachFree (s : State) (gang coach : Nat) : Bool :=
  (s.coach coach).stand == .idle && !s.awayOn gang coach && !s.heldFrom gang coach

/-- Whether a coach holds a class-3 context of another tenant than a gang's (R38). -/
def State.classThree (s : State) (gang coach : Nat) : Bool :=
  match (s.coach coach).gang with
  | some x => (s.gang x).yields (s.gang gang) && (s.coach coach).stand != .idle
  | none => false

/-- Whether a gang without RESV may take a coach (R33). -/
def State.plainOk (s : State) (g : Gang) (coach : Nat) : Bool :=
  match s.reservedTo coach with
  | none => true
  | some (_, _, spare) => g.prio == 3 && !spare

/-- The first `n` dies of a list that have `per` coaches each, with those coaches. -/
def pickDies (per : Nat) (coaches : Nat → List Nat) : Nat → List Nat → Option (List (Nat × List Nat))
  | 0, _ => some []
  | _ + 1, [] => none
  | n + 1, d :: rest =>
    let l := (coaches d).take per
    if l.length = per then (pickDies per coaches n rest).map fun t => (d, l) :: t
    else pickDies per coaches (n + 1) rest

/-- The dies of the domain from the home die on. -/
def State.diesFrom (s : State) (home : Nat) : List Nat := home :: s.others home

/-- Coaches of a die that meet a test, lowest first. -/
def dieCoaches (ok : Nat → Bool) (die : Nat) : List Nat := (span (die * 8) 8).filter ok

/-- Put a die at its place by a count, the largest first; equal ones keep their order. -/
def insertDie (n : Nat → Nat) (d : Nat) : List Nat → List Nat
  | [] => [d]
  | e :: t => if n e < n d then d :: e :: t else e :: insertDie n d t

/-- Dies by a count, the largest first. -/
def mostFirst (n : Nat → Nat) (l : List Nat) : List Nat := l.foldl (fun t d => insertDie n d t) []

/-- The values of a list that are all there. -/
def allSome {α : Type} : List (Option α) → Option (List α)
  | [] => some []
  | none :: _ => none
  | some x :: t => (allSome t).map fun r => x :: r

/-- The coaches of a gang on one of the dies of its reservation, which cannot hold it alone: those of the reservation, and unreserved idle ones for the
rest; none while one of the reservation cannot be had (R33). -/
def resvDie (per : Nat) (reserved mine rest : Nat → List Nat) (d : Nat) : Option (Nat × List Nat) :=
  let want := Nat.min per (reserved d).length
  let l := (mine d).take want ++ (rest d).take (per - want)
  if (mine d).length < want ∨ l.length ≠ per then none else some (d, l)

/-- Where a gang goes whose reservation cannot hold it: on all coaches of the reservation, and on unreserved idle ones for the rest. Where its shape
does not admit them all it takes the dies with most of them (R33; DESIGN CHOICE, log 60). -/
def pickAll (per ndie : Nat) (reserved mine rest : Nat → List Nat) (dies : List Nat) : Option (List (Nat × List Nat)) :=
  let has := dies.filter fun d => !(reserved d).isEmpty
  let first := (mostFirst (fun d => Nat.min per (reserved d).length) has).take ndie
  match allSome (first.map (resvDie per reserved mine rest)),
      pickDies per rest (ndie - first.length) (dies.filter fun d => !has.contains d) with
  | some a, some b => some (a ++ b)
  | _, _ => none

/-- The coaches on which a gang could be placed if they were free of class-3 occupants, whether its reservation alone holds it, and
the coaches it would take: idle ones before those that class-3 contexts hold (R33, R38). -/
def State.choose (s : State) (gi : Nat) (blocked : List Nat) : Bool × Option (List (Nat × List Nat)) :=
  let g := s.gang gi
  let dies := s.diesFrom (gi / 64)
  let free (c : Nat) : Bool := s.coachFree gi c && !blocked.contains c
  let plain (d : Nat) : List Nat := dieCoaches (fun c => (s.reservedTo c).isNone && free c) d
  if g.resv = 0 then (false, pickDies g.perDie (dieCoaches fun c => s.plainOk g c && free c) g.ndie dies)
  else
    let idle (d : Nat) : List Nat := dieCoaches (fun c => s.onResv g c && free c) d
    let taken (d : Nat) : List Nat := dieCoaches (fun c => s.onResv g c && !free c && s.classThree gi c && !blocked.contains c) d
    let mine (d : Nat) : List Nat := idle d ++ taken d
    match pickDies g.perDie mine g.ndie (mostFirst (fun d => Nat.min g.perDie (idle d).length) dies) with
    | some l => (true, some l)
    | none => (false, pickAll g.perDie g.ndie (dieCoaches fun c => s.onResv g c) mine plain dies)

/-- The coaches that a gang which cannot be placed needs: those it is to hold, its own while it waits to resume, else all that it may take
(R32). -/
def State.needs (s : State) (gi : Nat) : List Nat :=
  let g := s.gang gi
  match g.stand with
  | .preempted | .holding => g.coaches
  | _ =>
    s.present.flatMap fun d => dieCoaches (fun c => if g.resv = 0 then s.plainOk g c else s.onResv g c || (s.reservedTo c).isNone) d

/-- The coaches that a gang holds: those its contexts stand on, and those it is to be placed on (R30). The coaches of a pre-empted gang that is away
from them are not counted (DESIGN CHOICE, log 97: R30 does not say). -/
def State.coachesHeld (s : State) (gi : Nat) : Nat :=
  let g := s.gang gi
  if g.stand = .holding then g.coaches.length else (g.coaches.filter fun c => (s.coach c).gang == some gi).length

/-- Coaches that a tenant holds in the domain (R30). -/
def State.tenantCoaches (s : State) (tenant : Nat) : Nat :=
  (s.gangs.filter fun p => p.2.tenant == tenant).foldl (fun n p => n + s.coachesHeld p.1) 0

/-- Release every hold of a gang (R34). -/
def State.releaseHolds (s : State) (gi : Nat) : State :=
  s.present.foldl (fun s d =>
    let x := s.die d
    if x.holds.any fun h => h.2.1 == gi then s.setDie d { x with holds := x.holds.filter fun h => h.2.1 != gi } else s) s

/-- The oldest gang of a class that may be tried and is not placed: resumptions first, then by acceptance; a gang whose holds are not yet
decided keeps its place (R32, R34). -/
def State.oldest (s : State) (die cls : Nat) : Option Nat :=
  let may := (slotsOf die).filter fun i =>
    let g := s.gang i
    (g.stand == .waiting || g.stand == .preempted || g.stand == .holding) && g.prio == cls && s.mayTry i
  let before (i j : Nat) : Bool :=
    let a := s.gang i
    let b := s.gang j
    if a.away != b.away then a.away else decide (a.accept < b.accept)
  may.foldl (fun m i => match m with
    | none => some i
    | some j => if before i j then some i else some j) none

/-- The class-3 gangs of other tenants on a list of coaches (R38). -/
def State.occupants (s : State) (gi : Nat) (coaches : List Nat) : List Nat :=
  (coaches.filterMap fun c => if s.classThree gi c then (s.coach c).gang else none).eraseDups

/-- A gang goes back to waiting, to start or to resume, and releases its holds (R34, R42). -/
def State.backToWait (s : State) (gi : Nat) : State :=
  let g := s.gang gi
  match g.stand with
  | .holding =>
    let g1 : Gang := if g.away then { g with stand := .preempted, grants := [] }
      else { g with stand := .waiting, dies := [], coaches := [], grants := [] }
    (s.setGang gi g1).releaseHolds gi
  | .waiting | .preempted => s.releaseHolds gi
  | _ => s

/-- The holds of other gangs on coaches of a die are revoked: their home units release every hold they have (R34). That a hold has been revoked
or released is known to every unit at once (DESIGN CHOICE, log 61). -/
def State.revoke (s : State) (gi die : Nat) (coaches : List Nat) : State :=
  (((s.die die).holds.filter fun h => coaches.contains h.1 && h.2.1 != gi).map (·.2.1)).eraseDups.foldl (fun s g => s.backToWait g) s

/-- Hold coaches of a die for a gang; weaker holds there are revoked. -/
def State.hold (s : State) (gi key die : Nat) (coaches : List Nat) : State :=
  let s1 := s.revoke gi die coaches
  let d := s1.die die
  s1.setDie die { d with holds := (d.holds.filter fun h => !(coaches.contains h.1 && h.2.1 == gi)) ++ coaches.map fun c => (c, gi, key) }

/-- Ask the other dies of a gang for their holds; the requests carry the number of the try. -/
def State.askHolds (s : State) (gi key try_ : Nat) : List (Nat × List Nat) → State
  | [] => s
  | (d, l) :: rest =>
    let s1 := if d = gi / 64 then s else s.send { msgOf (.holdReq gi key l) (gi / 64) d 0 with id := try_ }
    s1.askHolds gi key try_ rest

/-- A pre-emption request reaches all of a gang's coaches together (R38, R367). To a held gang it stands until the gang resumes, or is evicted
(R38; DESIGN CHOICE, log 98). -/
def State.requestPreempt (s : State) (gi tmo : Nat) : State :=
  let g := s.gang gi
  match g.stand with
  | .running =>
    let s1 := s.setGang gi { g with stand := .preempting, preAt := s.cyc, preTmo := tmo }
    g.coaches.foldl (fun s c => s.setCoach c { s.coach c with preReq := true }) s1
  | .held => if g.preTmo = 0 then s.setGang gi { g with preAt := s.cyc, preTmo := tmo } else s
  | _ => s

/-- PRETMO of the reservation entry that names a coach: 0 stands for 1,048,576 (R31). Of several entries that name it, the lowest-numbered
holds (DESIGN CHOICE, log 88: R31 does not say). -/
def State.pretmo (s : State) (coach : Nat) : Nat :=
  let d := s.die (dieOf coach)
  match (List.range 64).find? fun k => match d.rsv k with
      | some r => r.2.2.1.testBit (coach % 8)
      | none => false with
  | some k => if fld (d.regs.get (0x3008 + 16 * k)) 0 48 = 0 then 1048576 else fld (d.regs.get (0x3008 + 16 * k)) 0 48
  | none => 1048576

/-- Put the saved contexts of a pre-empted gang back on their coaches (R33, R368). -/
def State.reinstall (s : State) (gi : Nat) : State :=
  let g := s.gang gi
  let put (s : State) (x : SavedCtx) : State :=
    ((coresOf x.coach).zip x.cores).foldl (fun s p => s.setCore p.1 p.2) (s.setCoach x.coach { x.ctx with stand := .saved })
  g.saved.foldl put (s.setGang gi { g with stand := .resuming, saved := [] })

/-- The class-3 gangs of other tenants on a list of coaches are asked to leave. One that occupies coaches of entries with different PRETMO has
the smallest as its bound (DESIGN CHOICE, log 88: R38 does not say which applies). -/
def State.askToLeave (s : State) (gi : Nat) (coaches : List Nat) : State :=
  let tmo (x : Nat) : Nat := ((coaches.filter fun c => (s.coach c).gang == some x).map s.pretmo).foldl Nat.min (2 ^ 48)
  (s.occupants gi coaches).foldl (fun s x => s.requestPreempt x (tmo x)) s

/-- Begin to hold the coaches of a gang, to place it or to resume it: those of its home die at once, the others by request (R34). -/
def State.startHolds (s : State) (gi : Nat) (l : List (Nat × List Nat)) : State :=
  let g := s.gang gi
  let key := s.holdKey gi
  let g1 : Gang := { g with stand := .holding, dies := l.map (·.1), coaches := l.flatMap (·.2), try_ := s.uid, grants := [gi / 64] }
  let s1 : State := { (s.setGang gi g1) with uid := s.uid + 1 }
  (s1.hold gi key (gi / 64) (g1.coaches.filter fun c => dieOf c == gi / 64)).askHolds gi key s.uid l

/-- The coaches of a gang by its dies. -/
def Gang.byDie (g : Gang) : List (Nat × List Nat) :=
  (g.coaches.map dieOf).eraseDups.map fun d => (d, g.coaches.filter fun c => dieOf c == d)

/-- Try to place one gang. When its quota and its coaches allow, it begins to hold its coaches; a pre-empted gang holds its own. Else the answer
names the coaches that it needs; class-3 occupants of its reservation among them are asked to leave (R30, R32, R33, R34, R38). -/
def State.tryPlace (s : State) (gi : Nat) (blocked : List Nat) : Option (List Nat) × State :=
  let g := s.gang gi
  let key := s.holdKey gi
  let mine (l : List Nat) : List Nat := l.filter fun c => dieOf c == gi / 64
  if fld ((s.die (gi / 64)).tq g.tenant) 16 12 < s.tenantCoaches g.tenant + g.ncoach then (some (s.needs gi), s)
  else if g.stand = .preempted then
    if g.coaches.all fun c => s.coachFree gi c && !blocked.contains c then (none, s.startHolds gi g.byDie)
    else (some g.coaches, s.askToLeave gi (g.coaches.filter fun c => s.onResv g c && !blocked.contains c))
  else
    match s.choose gi blocked with
    | (_, none) => (some (s.needs gi), s)
    | (_, some l) =>
      let coaches := l.flatMap (·.2)
      if (s.occupants gi coaches).isEmpty then (none, s.startHolds gi l)
      else (some coaches, (s.hold gi key (gi / 64) (mine (coaches.filter (s.coachFree gi)))).askToLeave gi coaches)

/-- Try the classes in order, each only on coaches that the blocked gangs before it do not need (R32). -/
def State.placeFrom (s : State) (die : Nat) : List Nat → List Nat → State
  | [], _ => s
  | c :: rest, blocked =>
    match s.oldest die c with
    | none => s.placeFrom die rest blocked
    | some gi =>
      if (s.gang gi).stand = .holding then s.placeFrom die rest (blocked ++ s.needs gi)
      else
        match s.tryPlace gi blocked with
        | (none, s1) => s1
        | (some l, s1) => s1.placeFrom die rest (blocked ++ l)

/-- GANG_PLACEMENT (R32, R33, R37): the launch unit of a die places the next gang that can be placed. A gang whose tenant has EN 0 gives up its
holds (R30). -/
def execGangPlacement (die : Nat) (s : State) : Host.Outcome State Fault Refusal :=
  if (s.die die).unitOn then
    let s1 := (slotsOf die).foldl (fun s gi => if s.mayTry gi then s else s.backToWait gi) s
    .next (s1.placeFrom die [0, 1, 2, 3] [])
  else .next s

/-- Whether a unit's own order keeps coaches for a gang of its own: one that comes before the asking gang and needs them (R32, R34). -/
def State.ownFirst (s : State) (die gi : Nat) (coaches : List Nat) : Bool :=
  let p := (s.gang gi).prio
  (List.range (p + 1)).any fun c => match s.oldest die c with
    | some j => j != gi && (decide (c < p) || (s.gang j).away || decide (s.holdKey j < s.holdKey gi)) &&
        (s.needs j).any coaches.contains
    | none => false

/-- A die has answered a class-0 message of a home unit (R360). -/
def State.noteAnswer (s : State) (die : Nat) : State := s.setDie die { s.die die with asked := none }

/-- HOLD_REQUEST (R34): a unit grants a hold of coaches that are free, or whose holder has a larger key and has not committed (that hold is
revoked), unless a gang that comes before in its own order needs them; else it refuses. A request of a try that has ended is void. -/
def execHoldRequest (n : Nat) (s : State) : Host.Outcome State Fault Refusal :=
  match s.msgReady n with
  | none => .next s
  | some m =>
    match m.kind with
    | .holdReq gi key coaches =>
      let s1 := (s.dropMsg n).noteAnswer m.dst
      if (s1.gang gi).stand ≠ .holding ∨ (s1.gang gi).try_ ≠ m.id then .next s1
      else if (coaches.all (s1.coachFree gi)) && (s1.die m.dst).unitOn && !s1.ownFirst m.dst gi coaches then
        let s2 := s1.hold gi key m.dst coaches
        .next (s2.setGang gi { s2.gang gi with grants := (s2.gang gi).grants ++ [m.dst] })
      else .next (s1.backToWait gi)
    | _ => .next s

/-- A coach begins to load the context of its gang (R34). -/
def State.beginLoad (s : State) (gi : Nat) (p : Nat × Nat) : State :=
  let t := s.delay 0xFFFFFFFF
  let st : CStand := .loading (s.cyc + 1 + t.1)
  t.2.setCoach p.2 { Coach.reset with stand := st, gang := some gi, lco := p.1 }

/-- HOLD_COMMIT (R34): with every hold granted the home unit commits: the contexts load, or those of a pre-empted gang go back. A gang whose tenant
has EN 0 meanwhile is not placed (R30). -/
def execHoldCommit (gi : Nat) (s : State) : Host.Outcome State Fault Refusal :=
  let g := s.gang gi
  if g.stand = .holding && !s.mayTry gi then .next (s.backToWait gi)
  else if g.stand = .holding && g.dies.all g.grants.contains then
    if g.away then .next ((s.releaseHolds gi).reinstall gi)
    else
      let s1 := (s.setGang gi { g with stand := .loading }).releaseHolds gi
      .next (((List.range g.coaches.length).zip g.coaches).foldl (fun s p => s.beginLoad gi p) s1)
  else .next s

/-! ## The state at entry (R28, R124) -/

/-- A core of a context at entry (R28). -/
def coreAtEntry (g : Gang) (entry : Nat) (dict : Bits 35) (hpol : Word) : Core :=
  let regs := (span 1 8).foldl (fun r i => Bits.put r i (nthD 0 g.words (3 + i))) []
  let sr : Bits 64 :=
    Bits.puts [] [(0x001, mkFld 0 1 g.tmode), (0x002, mkFld 0 7 g.galloc), (0x003, BitVec.ofNat 64 g.budget), (0x020, mkFld 0 4 g.ph0),
      (0x051, hpol)]
  { Core.reset with ctl := { Ctl.reset with regs := regs, pc := entry, dict := dict, sr := sr } }

/-- Zero the stack granules that a map entry homes on a coach (R124). -/
def State.clearHome (s : State) (coach : Nat) (e : MapEntry) : State :=
  match e.home with
  | 2 => { s with mem := s.mem.clear (Loc.hbm coach (e.offg * 4096)).key (e.leng * (1 + b2n e.shadow) * 4096) }
  | 5 =>
    let lc := (s.coach coach).lco
    let g := s.gangOf coach
    let member := (span e.die0 (e.members + b2n e.par)).any fun x => x % g.ndie == lc / g.perDie
    if lc % g.perDie ≠ e.lco ∨ member = false then s else
    let n := (e.leng + e.members - 1) / e.members * (1 + b2n e.shadow) * 4096
    { s with mem := s.mem.clear (Loc.hbm coach (e.offg * 4096)).key n }
  | _ => s

/-- Whether a granule of a tenant's capacity allocation lies in a KV pool whose EN is 1 (R124, R285). -/
def Die.pooled (d : Die) (tenant g : Nat) : Bool :=
  (List.range 4).any fun p =>
    let b := d.kvpb tenant p
    flag b 63 && decide (d.kvBase tenant p ≤ g) && decide (g < d.kvBase tenant p + fld b 0 28 * kvGroupGranules b)

/-- Zero a granule of the capacity allocation of a coach's tenant, at its home now, but for the bytes that `.data` has written (R124); a resident
page has been written (R189). -/
def State.clearCapGranule (s : State) (coach g : Nat) : State :=
  let base := (s.capLoc (dieOf coach) (s.gangOf coach).tenant (g * 4096)).key
  let kept (o : Nat) : Bool := (s.coach coach).kept.any fun p => decide (p.1 ≤ o) && decide (o < p.1 + p.2)
  let m := s.mem.filter fun c => !(decide (base ≤ c.1) && decide (c.1 < base + 4096)) || kept (g * 4096 + (c.1 - base))
  ({ s with mem := m } : State).notePages [base / 4096]

/-- Zero the granules of capacity that the maps of a coach home within the tenant's allocation, but for those of a KV pool in use: at the start tick
(R124, R393). -/
def State.clearCap (s : State) (coach : Nat) : State :=
  let size := (s.die (dieOf coach)).capSize (s.gangOf coach).tenant
  let granules := (((s.coach coach).phases.flatMap id).filter fun e => e.home == 3 && e.inAllotment size).flatMap fun e => span e.offg e.leng
  granules.foldl (fun s g => if (s.die (dieOf coach)).pooled (s.gangOf coach).tenant g then s else s.clearCapGranule coach g) s

/-- The ranges of the tenant's capacity bytes that a part of a chunk covers. -/
def keptRange (p : Nat × Nat × Option MapEntry) : List (Nat × Nat) :=
  match p.2.2 with
  | some e => if e.home = 3 then [((e.offg + p.1 / 4096 - e.baseg) * 4096 + p.1 % 4096, p.2.1)] else []
  | none => []

/-- Place a chunk of `.data` at its home (R17); a resident page has been written (R189). -/
def State.placeChunk (s : State) (coach ph0 : Nat) (c : Nat × List Byte) : State :=
  let ps := s.parts coach ph0 c.1 c.2.length
  let cells := s.ctxCells coach 0 ps c.2
  let k := s.coach coach
  ({ (s.setCoach coach { k with kept := k.kept ++ ps.flatMap keptRange }) with mem := s.mem.writeCells cells } : State).notePages
    (cells.map fun x => x.1 / 4096).eraseDups

/-- Load the control memory of a core (R13). -/
def State.loadControl (s : State) (die img core : Nat) : State :=
  let m0 := s.mem.clear (Loc.cmem core 0).key 65536
  let m1 := m0.write (Loc.cmem core (s.sectionAt die img 1)).key (s.sectionBytes die img 1)
  { s with mem := m1.write (Loc.cmem core (s.sectionAt die img 6)).key (s.sectionBytes die img 6) }

/-- The entry line of an image (R11, R43). -/
def State.entryLine (s : State) (die img : Nat) : Nat :=
  ((s.imageNum die img 0x08 4 * 32 + s.sectionAt die img 1) / 32) % 2048

/-- Load a coach's context from the image (R28, R124). An image without a `.timeline` section writes no directory: the area keeps the bytes that it has
(DESIGN CHOICE, log 99: R16 does not say what tl.run then finds). -/
def State.loadContext (s : State) (coach : Nat) : State :=
  let k := s.coach coach
  match k.gang with
  | none => s
  | some gi =>
    let g := s.gang gi
    let home := gi / 64
    let img := g.image
    let maps := parseMaps (s.imageNum home img 0x0E 1) (s.sectionBytes home img 3)
    let hpol := mkFld 0 1 (fld ((s.die (dieOf coach)).regs.get (0x2200 + 8 * g.tenant)) 0 1)
    let core := coreAtEntry g (s.entryLine home img) (parseDict (s.sectionBytes home img 2)) hpol
    let s1 := s.setCoach coach { k with phases := maps, kept := [], ph := { Phase.reset with pht := g.ph0 } }
    let s2 := (coresOf coach).foldl (fun s c => (s.setCore c core).loadControl home img c) s1
    let s3 := { s2 with mem := s2.mem.clear (Loc.sram coach 0).key (2 ^ 25) }
    let s4 := (maps.flatMap id).foldl (fun s e => s.clearHome coach e) s3
    let s5 := { s4 with mem := s4.mem.write (Loc.hbm coach timelineArea).key (s4.sectionBytes home img 4) }
    let data := s5.sectionBytes home img 5
    (parseData data.length data).foldl (fun s c => s.placeChunk coach g.ph0 c) s5

/-- The start tick: the smallest multiple of 4096 that is at least 8192 cycles after a cycle (R35). -/
def startTick (last : Nat) : Nat := (last + 8192 + 4095) / 4096 * 4096

/-- The home unit sends a start tick to every coach of a gang (R35). -/
def State.sendTicks (s : State) (gi t : Nat) (resume : Bool) : State :=
  let g := s.gang gi
  let s1 := s.setGang gi { g with stand := .starting, tick := t }
  g.coaches.foldl (fun s c =>
    let d := s.delay 0xFFFFFFFF
    let st : CStand := CStand.ready t (s.cyc + 1 + d.1) resume
    d.2.setCoach c { d.2.coach c with stand := st }) s1

/-- CONTEXT_LOADED (R35): a coach has loaded its context; after the last report the home unit chooses the start tick. -/
def execContextLoaded (coach : Nat) (s : State) : Host.Outcome State Fault Refusal :=
  let k := s.coach coach
  match k.stand, k.gang with
  | .loading due, some gi =>
    if s.cyc < due then .next s
    else
      let s1 := s.loadContext coach
      let s2 := s1.setCoach coach { s1.coach coach with stand := .loaded }
      let g := s2.gang gi
      if g.coaches.all fun c => (s2.coach c).stand == .loaded then .next (s2.sendTicks gi (startTick s.cyc) false) else .next s2
  | _, _ => .next s

/-- PREEMPTION_REQUEST (R38): the contexts of a gang are asked to stop at their next pre-emption points. -/
def execPreemptionRequest (gang : Nat) (s : State) : Host.Outcome State Fault Refusal := .next (s.requestPreempt gang 1048576)

/-! ## launch (R39, R40) -/

/-- `launch` (R40): the control core is blocked until the unit answers; a handler fault in the handler (R168). -/
def execLaunch (d a : Reg) (w : Bool) (k : BitVec 6) (s : State) : Host.Outcome State Fault Refusal :=
  .next (s.notInHandler fun s =>
    let id := s.uid
    let t := s.delay 255
    let c := (t.2.ctl s.me).result d 1 0 (some id)
    (({ (t.2.setCtl s.me c) with uid := id + 1 } : State)).setBlock
      (.launch id (if w then some k.toNat else none) (s.reg a) (s.cyc + 1 + t.1)))

/-- A value that a result waited for is there (R87). -/
def Ctl.supply (c : Ctl) (id : Nat) (v : Word) : Ctl :=
  Ctl.settle { c with pend := c.pend.map fun p => if p.wait == some id then { p with val := v, wait := none } else p }

/-- What the launch unit answers, and what it has accepted (R40). -/
def State.launchResult (s : State) (core : Nat) (w : Option Nat) (addr : Word) : Nat × State :=
  let die := dieOf (coachOf core)
  let gi := ((s.coach (coachOf core)).gang).getD 0
  let g := s.gang gi
  let a := addr.toNat % 65536
  let words := (List.range 12).map fun i => s.mem.dword (.cmem core (a + 8 * i))
  if 65536 ≤ addr.toNat ∨ a % 128 ≠ 0 then (0x0C, s)
  else
    match s.freeSlot die g.tenant with
    | none => (0x0B, s)
    | some slot =>
      if fld (nthD 0 words 1) 32 2 < g.prio then (0x0D, s)
      else if (match w with
          | some k => fld ((s.ctl core).sr.get (0x080 + k)) 52 11 == 2047
          | none => false) then (0x0E, s)
      else
        match s.rejectCode die g.tenant words with
        | some code => (code, s)
        | none =>
          let parent := w.map fun k => (gi, g.accept, (s.coach (coachOf core)).lco * 16 + coreIx core, k)
          let s1 := s.accept slot g.tenant words none parent
          let s2 := match w with
            | some k => s1.awReg core k
            | none => s1
          ((slot % 64) * 256, s2)

/-- The first of the launches that a core waits for whose answer is due: its identity, arrival word, record and time (R40). -/
def Ctl.launchDue (c : Ctl) (now : Nat) : Option (Nat × Option Nat × Word × Nat) :=
  c.blocks.findSome? fun b => match b with
    | .launch id w addr due => if due ≤ now then some (id, w, addr, due) else none
    | _ => none

/-- LAUNCH_ANSWER (R40): the unit answers a core's launch. -/
def execLaunchAnswer (core : Nat) (s : State) : Host.Outcome State Fault Refusal :=
  match (s.ctl core).launchDue s.cyc with
  | some (id, w, addr, due) =>
    let r := s.launchResult core w addr
    let c := (r.2.ctl core).supply id (BitVec.ofNat 64 r.1)
    .next ((r.2.setCtl core (c.unblock fun b => b == .launch id w addr due)).settleSigs core)
  | none => .next s

/-- Complete an arrival word of a saved context with an operation that started at `start`. -/
def savedAw (coach core k val stat now start : Nat) (x : SavedCtx) : SavedCtx :=
  if x.coach = coach then
    let c := nthD Core.reset x.cores core
    let n := 0x080 + k
    let r := awUpdate (c.ctl.sr.get n) (lookupD (0, 0) c.ctl.awFirst k) now start val stat
    let c1 : Core := { c with ctl := { c.ctl.setSr n r.1 with awFirst := putKey c.ctl.awFirst k r.2 } }
    { x with cores := setNth x.cores core c1 }
  else x

/-- CHILD_END (R40, R42): a child launched with an arrival word has ended: its word is set, in the saved context when the parent is away, and
not at all when the parent has ended. -/
def execChildEnd (gang : Nat) (s : State) : Host.Outcome State Fault Refusal :=
  let g := s.gang gang
  match g.parent with
  | none => .next s
  | some (pg, accept, lcore, k) =>
    if g.stand ≠ .done ∧ g.stand ≠ .faulted then .next s
    else
      let s1 := s.setGang gang { g with parent := none }
      let p := s1.gang pg
      let code := match g.fault with
        | some w => if g.stand = .faulted then fld w 0 8 else 0
        | none => 0
      let val := if g.stand = .done then 3 else code * 256 + 4
      let stat := if g.stand = .done then 0 else 5
      let coach := p.coachAt (lcore / 16)
      let start := g.accept / 4096 * 2 ^ 64
      if p.held = false ∨ p.accept ≠ accept then .next s1
      else if p.saved.any fun x => x.coach == coach then
        .next (s1.setGang pg { p with saved := p.saved.map (savedAw coach (lcore % 16) k val stat s.cyc start) })
      else .next (s1.awDone (coach * 16 + lcore % 16) k val stat start)

end Sys2Proof.Machine
end

