-- ==== Sys2Proof/Machine/Save.lean ====
section
/-! DEFINITION. The save area of a coach: what a save writes (R366, R395), and what a resumption reads back from it (R365, R368). -/

namespace Sys2Proof.Machine

/-- SA: the first byte of a stack's save area (R366). -/
def saveArea : Nat := 0x10_8388_D000

/-- Bytes of the save area (R366). -/
def saveBytes : Nat := 0x400_0000

/-- The offset of a core record (R366). -/
def recordAt (core : Nat) : Nat := 0x100_0000 + 0x10_0000 * coreIx core

/-- The byte of a stack's save area at an offset. -/
def saveLoc (coach off : Nat) : Loc := .hbm coach (saveArea + off)

/-- Copy a range of bytes of storage to another. -/
def copyRange (m : Mem) (src dst n : Nat) : Mem :=
  (m.clear dst n).writeCells (m.filterMap fun c => if src ≤ c.1 ∧ c.1 < src + n then some (dst + (c.1 - src), c.2) else none)

/-! ## Core records -/

/-- A pending-result slot (R366): the shadow set holds s24 to s31 only (R167). -/
def Pend.slot (p : Pend) : List Byte :=
  bytesOf 8 p.val.toNat ++ bytesOf 4 (p.reg % 32 + 2 ^ 5 * b2n (p.sh && decide (24 ≤ p.reg)) + 2 ^ 6 * b2n p.hnd + 2 ^ 8 * (p.left % 16) + 2 ^ 31)

/-- The scalar state of a core record (R366). -/
def Ctl.scalarImage (c : Ctl) : List Byte :=
  let slots := (c.pend.take 48).flatMap Pend.slot
  (List.range 32).flatMap (fun i => bytesOf 8 (c.regs.get i).toNat) ++
    (span 56 8).flatMap (fun i => bytesOf 8 (c.regs.get i).toNat) ++
    (slots ++ List.replicate (576 - slots.length) 0) ++ bytesOf 8 (c.mainPc % 2048)

/-- The chain role of a saved entry: 0 none, 1 feeder, 2 follower, 3 both (R366). -/
def chainRole (i : Instr) : Nat :=
  match i with
  | .mmulCh .. => 1
  | .mmulCf f _ _ _ _ _ => if f then 3 else 2
  | _ => 0

/-- Whether an entry of a queue saves its captured registers: the words and registers that R366 lists. -/
def savesCapture (q : Queue) (i : Instr) : Bool :=
  match q, i with
  | .m, _ => true
  | .f, _ => true
  | _, .ldx .. => true
  | _, .vadam .. => true
  | _, _ => false

/-- A saved queue entry, 128 bytes (R366, R395). -/
def Entry.image (q : Queue) (e : Entry) : List Byte :=
  let w := match encode e.ins with
    | some x => (x.first.toNat, match x.cont with
      | some c => c.toNat
      | none => 0)
    | none => (0, 0)
  let first := 2 ^ 63 + 2 ^ 62 * b2n e.part + 2 ^ 48 * (e.map % 16) + e.v0.toNat % 2 ^ 48
  let cap := if savesCapture q e.ins then e.cap else []
  let drain := if q = .m then e.rem % 2 ^ 11 + 2 ^ 11 * (e.p0 % 64) + 2 ^ 17 * (e.zr % 128) + 2 ^ 24 * chainRole e.ins else 0
  bytesOf 4 w.1 ++ bytesOf 4 w.2 ++ bytesOf 8 e.n ++ bytesOf 8 first ++ bytesOf 8 e.v1.toNat ++ bytesOf 8 e.v2.toNat ++
    bytesOf 8 e.v3.toNat ++ (List.range 4).flatMap (fun i => bytesOf 8 (nthD 0 cap i).toNat) ++ bytesOf 8 drain ++
    List.replicate 40 0

/-- The saved entries of a queue, padded to its positions (R366). -/
def queueImage (q : Queue) (n : Nat) (l : List Entry) : List Byte :=
  let bs := (l.take n).flatMap (Entry.image q)
  bs ++ List.replicate (128 * n - bs.length) 0

/-- The saved entries of a core (R366). -/
def Eng.image (x : Eng) : List Byte :=
  queueImage .l 64 x.ql ++ queueImage .m 64 x.qm ++ queueImage .v 64 x.qv ++ queueImage .s 64 x.qs ++ queueImage .f 32 x.qf ++
    queueImage .k 32 x.qk

/-- The state word of a tile (R366). -/
def Tile.stateWord (back : Bool) (t : Tile) : Nat := t.btype % 16 + 2 ^ 8 * b2n (back && t.ready)

/-- The words of a format FIFO, the taken ones first, as 16 words (R366). -/
def fifoImage (held untaken : List Word) : List Byte :=
  (List.range 16).flatMap fun i => bytesOf 8 (nthD 0 (held ++ untaken) i).toNat

/-- Format FIFOs, rmx, rsm and tile states (R366). -/
def Dat.engineImage (d : Dat) : List Byte :=
  fifoImage d.held0 d.fifo0 ++ fifoImage d.held1 d.fifo1 ++ (List.range 64).flatMap (fun p => bytesOf 4 (d.rmx p)) ++
    (List.range 64).flatMap (fun p => bytesOf 4 (d.rsmAt p)) ++
    (List.range 4).flatMap fun i => bytesOf 8 ((nthD Tile.reset d.tiles i).stateWord (i % 2 == 1))

/-- The pieces of a core record: offsets from the record's first byte, and bytes (R366). Control memory is copied apart. -/
def State.recordPieces (s : State) (core : Nat) : List (Nat × List Byte) :=
  let x := s.core core
  let tile (i : Nat) : List (Nat × List Byte) :=
    let t := nthD Tile.reset x.dat.tiles i
    [(0x4_4000 + 0x8000 * i, t.bytes), (0x4_4000 + 0x8000 * i + 0x7F80, t.scales)]
  [(0, x.ctl.scalarImage), (0x400, (List.range 256).flatMap fun n => bytesOf 8 (s.srRead core n).toNat),
   (0xC00, x.dat.engineImage), (0x1000, (List.range 1024).flatMap fun i => bytesOf 8 (x.ctl.dict.get i).toNat),
   (0x3000, x.eng.image), (0x2_0000, (List.range 4096).flatMap fun i => bytesOf 4 (x.dat.grid.get i).toNat),
   (0x2_4000, (List.range 32768).flatMap fun i => bytesOf 4 (x.dat.plane.get i).toNat)] ++ (List.range 4).flatMap tile ++
    [(0x6_4000, slotBytes x.dat.coef 0 20)]

/-- The header of the save area, up to STEPF (R366). -/
def State.headerImage (s : State) (coach reason : Nat) : List Byte :=
  let k := s.coach coach
  bytesOf 4 0x5643_4153 ++ bytesOf 4 reason ++ bytesOf 8 k.tstop ++ bytesOf 8 k.tend ++ bytesOf 8 s.cyc ++ bytesOf 8 (k.ph.pht % 16) ++
    bytesOf 8 k.phs.toNat ++ bytesOf 8 k.stepf.toNat

/-- Write pieces of bytes at offsets from a storage byte. -/
def writePieces (m : Mem) (base : Nat) (l : List (Nat × List Byte)) : Mem := l.foldl (fun m p => m.write (base + p.1) p.2) m

/-- The bytes of a save area for which R366 names what they keep and gives no layout: the shift's progress after STEPF, and the coach state;
any bytes may stand there (free values, log 17). -/
def freeCells (base number : Nat) : List Host.Cell :=
  (Sys2Proof.Config.savedState number).filterMap fun c => if 56 ≤ c.1 ∧ c.1 < 0x100_0000 then some (base + c.1, c.2) else none

/-- Write the save area of a coach (R366). -/
def State.writeSave (s : State) (coach reason : Nat) : State :=
  let base := (saveLoc coach 0).key
  let m0 := ((s.mem.clear base saveBytes).write base (s.headerImage coach reason)).writeCells (freeCells base s.uid)
  let rec_ (m : Mem) (c : Nat) : Mem :=
    copyRange (writePieces m (base + recordAt c) (s.recordPieces c)) (Loc.cmem c 0).key (base + recordAt c + 0x1_0000) 65536
  let m1 := (coresOf coach).foldl rec_ m0
  { s with mem := copyRange m1 (Loc.sram coach 0).key (base + 0x200_0000) (2 ^ 25), uid := s.uid + 1 }

/-! ## Reading back (R365, R368) -/

/-- The scalar registers and the shadow set as a core record holds them. -/
def readRegs (m : Mem) (base : Nat) : Bits 64 :=
  let w (off : Nat) : Word := BitVec.ofNat 64 (natOfBytes (m.read (base + off) 8))
  Bits.puts (Bits.puts [] ((span 1 31).map fun i => (i, w (8 * i)))) ((List.range 8).map fun i => (56 + i, w (0x100 + 8 * i)))

/-- The grid as a core record holds it. -/
def readGrid (m : Mem) (base : Nat) : Bits 32 :=
  Bits.puts [] ((List.range 4096).map fun i => (i, BitVec.ofNat 32 (natOfBytes (m.read (base + 0x2_0000 + 4 * i) 4))))

/-- A core reads back its scalar registers, its grid and its control memory from its record; everything else stands as it was saved. -/
def State.readRecord (s : State) (coach core : Nat) : State :=
  let base := (saveLoc coach (recordAt core)).key
  let x := s.core core
  let x1 : Core := { x with ctl := { x.ctl with regs := readRegs s.mem base }, dat := { x.dat with grid := readGrid s.mem base } }
  let s1 := s.setCore core x1
  { s1 with mem := copyRange s1.mem (base + 0x1_0000) (Loc.cmem core 0).key 65536 }

/-- A coach reads back its cores' records and its SRAM from its save area. -/
def State.readSave (s : State) (coach : Nat) : State :=
  let s1 := (coresOf coach).foldl (fun s c => s.readRecord coach c) s
  { s1 with mem := copyRange s1.mem (saveLoc coach 0x200_0000).key (Loc.sram coach 0).key (2 ^ 25) }

/-! ## The rebase (R368) -/

/-- An entry of a resumed core: its nominal issue cycle grows by D; an entry with PART 1 takes the first resumed cycle. -/
def Entry.rebase (d first : Nat) (e : Entry) : Entry := { e with n := if e.part then first else (e.n + d) % 2 ^ 64 }

/-- The queues of a resumed core, with the issue cycles of the last entries of each queue that the next ones are counted from (DEDUCED,
log 18). -/
def Eng.rebase (x : Eng) (d first : Nat) : Eng :=
  let f := Entry.rebase d first
  { x with ql := x.ql.map f, qm := x.qm.map f, qv := x.qv.map f, qs := x.qs.map f
           lastN := x.lastN.map fun p => (p.1, (p.2 + d) % 2 ^ 64)
           lastA := x.lastA.map fun p => (p.1, (p.2.1 + d, (p.2.2 + d) % 2 ^ 64)) }

/-- The control side of a resumed core: TBASE grows by D, a core that stood at a pre-emption point dispatches again, a cut pass of a
pipelined level starts anew, HPOL is copied again (R103, R341, R368). -/
def Ctl.resume (c : Ctl) (d : Nat) (hpol : Word) : Ctl :=
  let stopped := c.stand == .stopped
  let c1 := (c.setSr 0x005 (c.sr.get 0x005 + BitVec.ofNat 64 d)).setSr 0x051 hpol
  let c2 := if stopped then { c1.newPass with stand := .running } else c1
  { c2 with own := false }

end Sys2Proof.Machine
end

