-- ==== Sys2Proof/Machine/Retire.lean ====
section
/-! DEFINITION. Exit, trap and the step instructions (R370 to R373, R376 to R378), barriers (R351), stopping, saving, holding and resuming (R360 to R368), step re-issue (R374, R375), and the end of a gang. -/

namespace Sys2Proof.Machine

/-! ## The event queue (R364) -/

/-- An EVQA entry: KIND, SLOT, LCOACH, CORE and TAG (R364). -/
def eventWord (kind slot lco core tag : Nat) : Word :=
  mkFld 63 1 1 ||| mkFld 60 2 kind ||| mkFld 54 6 slot ||| mkFld 42 12 lco ||| mkFld 38 4 core ||| mkFld 0 32 tag

/-- The entries of a function's event queue. -/
def Die.events (d : Die) (fn : Nat) : List (Word × Word) := lookupD [] d.evq fn

/-- Queue an event with its VALUE; in a full queue it is lost, and OVF is set on the next one (R364, R379). -/
def Die.pushEvent (d : Die) (fn : Nat) (a v : Word) : Die :=
  let q := d.events fn
  if q.length < 64 then
    { d with evq := putKey d.evq fn (q ++ [(setFld a 62 1 (lookupD 0 d.evOvf fn), v)]), evOvf := putKey d.evOvf fn 0 }
  else { d with evOvf := putKey d.evOvf fn 1 }

/-! ## exit and trap -/

/-- Discard the entries that have not issued (R377). -/
def Eng.discard (x : Eng) : Eng := { x with ql := [], qm := [], qv := [], qs := [], qf := [], qk := [] }

/-- Discard a core's entries that have not issued; what waited for them follows (R152, R377). -/
def State.discard (s : State) (core : Nat) : State :=
  let s1 := s.setEng core (s.eng core).discard
  s1.setCore core (s1.core core).settleShrinks

/-- Queue the event of a nonzero exit value at the gang's home die (R364, R377). -/
def State.exitEvent (s : State) (core : Nat) (v : Word) : State :=
  match (s.coach (coachOf core)).gang with
  | none => s
  | some gi =>
    let g := s.gang gi
    let w := eventWord 0 (gi % 64) (s.coach (coachOf core)).lco (coreIx core) g.tag
    s.setDie (gi / 64) ((s.die (gi / 64)).pushEvent g.tenant w v)

/-- `exit` (R377): unissued entries are discarded, a nonzero value is queued, and the core waits for its release set at scope ten; a
handler fault in the handler (R168). -/
def execExit (x : Reg) (s : State) : Host.Outcome State Fault Refusal :=
  .next (s.notInHandler fun s => s.flowChange fun s =>
    let v := s.reg x
    let s1 := s.discard s.me
    let s2 := if v = 0 then s1 else s1.exitEvent s1.me v
    let st : Stand := .exiting (s2.relSet s2.me 4)
    s2.setCtl s2.me { s2.ctl s2.me with stand := st })

/-- `trap` (R376): fault 0x80 with the trap code. -/
def execTrap (c : BitVec 16) (s : State) : Host.Outcome State Fault Refusal :=
  .next (s.flowChange fun s => s.raise s.me 0x80 (s.place52 ||| mkFld 48 16 c.toNat))

/-- CORE_EXITED (R377): on a coach that runs, a core whose release set is complete is exited; it counts as arrived from now on (R128). In a
fault stop the phase state stands as it is (R144, R361). -/
def execCoreExited (core : Nat) (s : State) : Host.Outcome State Fault Refusal :=
  let c := s.ctl core
  let kc := coachOf core
  match c.stand with
  | .exiting r =>
    if (s.coach kc).stand = .running ∧ s.relDone core r = true then
      let s1 := s.setCtl core { c with stand := .exited }
      let k := s1.coach kc
      .next (s1.setCoach kc { k with ph := k.ph.countExit core })
    else .next s
  | _ => .next s

/-! ## Step transactions (R370 to R373) -/

/-- A step fault with its CAUSE (R360). -/
def State.stepFault (s : State) (cause : Nat) : State := s.raise s.me 0x81 (s.place52 ||| mkFld 16 4 cause)

/-- OPEN of a coach. -/
def Coach.stepOpen (k : Coach) : Bool := flag k.stepf 2

/-- `step.begin` (R371): a step fault while a shift is prepared; no effect on a core that has completed the open step's; else the core is
blocked. The home unit records the line n + 1, where the core restarts. -/
def execStepBegin (s : State) : Host.Outcome State Fault Refusal :=
  .next (s.notInHandler fun s =>
    let k := s.coach (coachOf s.me)
    let c := s.ctl s.me
    if k.ph.prep then s.stepFault 1
    else if k.stepOpen && c.inStep then s
    else
      match k.gang with
      | none => s.setBlock .stepBegin
      | some gi =>
        let g := s.gang gi
        let key := k.lco * 16 + coreIx s.me
        (s.setGang gi { g with restarts := putKey g.restarts key (lineAdd s.focus.line 1) }).setBlock .stepBegin)

/-- `step.commit` (R372): a step fault outside a step; else the core is blocked, and sd takes the decision. -/
def execStepCommit (d : Reg) (s : State) : Host.Outcome State Fault Refusal :=
  .next (s.notInHandler fun s =>
    if (s.coach (coachOf s.me)).stepOpen then
      let id := s.uid
      let r := s.relSet s.me 4
      let c := (s.ctl s.me).result d 1 0 (some id)
      ({ (s.setCtl s.me c) with uid := id + 1 } : State).setBlock (.stepCommit id r)
    else s.stepFault 0)

/-- `step.abort` (R373): a step fault outside a step; else AB is set in the coach. -/
def execStepAbort (s : State) : Host.Outcome State Fault Refusal :=
  .next (s.notInHandler fun s =>
    let k := s.coach (coachOf s.me)
    if k.stepOpen then s.setCoach (coachOf s.me) { k with stepf := setFld k.stepf 1 1 1 } else s.stepFault 0)

/-- The SHADOW granules of a coach's map that it copies at step.begin: those of its own storage and of the capacity tier, and the stripe
granules that stand in its stack, parity included (R371; DEDUCED, log 19). -/
def State.stepCopies (s : State) (coach : Nat) : List ShiftWrite :=
  let k := s.coach coach
  let cv := b2n (flag k.stepf 3)
  (s.mapOf coach k.ph.pht).flatMap fun e =>
    if e.shadow = false ∨ e.present (s.gangOf coach) = false ∨ e.home = 4 then []
    else
      (span e.baseg e.leng).flatMap fun g =>
        let home (v : Nat) : Loc := s.homeLoc coach e v (g * 4096)
        let par := match s.parityOf coach e cv (g * 4096), s.parityOf coach e (1 - cv) (g * 4096) with
          | some a, some b => if (g - e.baseg) % e.members = 0 ∧ a.coach = coach then [(a, b)] else []
          | _, _ => []
        let own := if e.home = 5 ∧ (home cv).coach ≠ coach then [] else [(home cv, home (1 - cv))]
        (own ++ par).map fun p => ({ dst := p.2, src := some p.1, wait := true } : ShiftWrite)

/-- Whether a core has dispatched its step.begin: it is blocked in it from an earlier cycle, or has exited (R371, R377). -/
def State.atStepBegin (s : State) (core : Nat) : Bool := (s.ctl core).hasExited || (s.ctl core).blocks.contains .stepBegin

/-- Whether every one of a list of cores stands on a coach that runs: a core that has stopped stays where it stands (R361). -/
def State.coachesRun (s : State) (coaches : List Nat) : Bool := coaches.all fun c => (s.coach c).stand == .running

/-- A coach opens a step: NF, AB and REISS are 0, OPEN is 1, and the copy is under way (R371). -/
def State.openStep (s : State) (coach : Nat) : State :=
  let k := s.coach coach
  let f := setFld (setFld (setFld k.stepf 0 2 0) 12 4 0) 2 1 1
  let work := s.stepCopies coach
  let d := s.delay 0xFFFFFFFF
  d.2.setCoach coach { k with stepf := f, ph := { k.ph with stepWork := work, stepping := true, due := s.cyc + 1 + d.1 } }

/-- A core goes on after its step.begin. -/
def State.leaveStepBegin (s : State) (core : Nat) : State :=
  let c := s.ctl core
  if c.blocks.contains .stepBegin then s.setCtl core { c.unblock (fun b => b == .stepBegin) with inStep := true } else s

/-- STEP_BEGIN_RELEASE (R371): once every core of the gang has dispatched step.begin the step opens and the copies start; once every copy
of the gang is complete the cores go on (DEDUCED, log 19). A gang that stops does neither (R361). -/
def execStepBeginRelease (gang : Nat) (s : State) : Host.Outcome State Fault Refusal :=
  let g := s.gang gang
  if s.coachesRun g.coaches = false then .next s
  else if g.open_ = false then
    if (g.cores.all s.atStepBegin) && g.cores.any (fun c => (s.ctl c).blocks.contains .stepBegin) then
      let phs := g.coaches.map fun c => (c, (s.coach c).ph.pht)
      .next (g.coaches.foldl (fun s c => s.openStep c) (s.setGang gang { g with open_ := true, stepPh := phs }))
    else .next s
  else if g.coaches.all fun c => (s.coach c).ph.stepping && (s.coach c).ph.stepWork.isEmpty && !(s.coach c).ph.prep then
    let done (s : State) (c : Nat) : State :=
      let k := s.coach c
      s.setCoach c { k with ph := { k.ph with stepping := false } }
    .next (g.cores.foldl (fun s c => s.leaveStepBegin c) (g.coaches.foldl done s))
  else .next s

/-- The step.commit that a core waits in: the identity of its result, and its release set (R372). -/
def Ctl.commitWait (c : Ctl) : Option (Nat × RelSet) :=
  c.blocks.findSome? fun b => match b with
    | .stepCommit id r => some (id, r)
    | _ => none

/-- Whether a core has dispatched its step.commit with a complete release set, or has exited (R372, R377). -/
def State.atStepCommit (s : State) (core : Nat) : Bool :=
  (s.ctl core).hasExited ||
    (match (s.ctl core).commitWait with
     | some p => s.relDone core p.2
     | none => false)

/-- A core learns the decision of its step.commit (R372). -/
def State.leaveStepCommit (s : State) (core : Nat) (v : Word) : State :=
  let c := s.ctl core
  match c.commitWait with
  | some (id, r) => (s.setCtl core { (c.supply id v).unblock (fun b => b == .stepCommit id r) with inStep := false }).settleSigs core
  | none => s.setCtl core { c with inStep := false }

/-- AB and NF of a coach as they count in a decision: 0 once all its cores have exited (R372, R377). -/
def State.stepFlags (s : State) (coach : Nat) : Nat :=
  if (coresOf coach).all fun c => (s.ctl c).hasExited then 0 else fld (s.coach coach).stepf 0 2

/-- STEPF of a coach after the decision: OPEN 0, STEPN one more, CV changed by a commit (R372). -/
def closeStep (f : Word) (commit : Bool) : Word :=
  let f1 := setFld (setFld f 2 1 0) 16 32 (fld f 16 32 + 1)
  if commit then setFld f1 3 1 (1 - fld f1 3 1) else f1

/-- STEP_COMMIT_DECISION (R372): the flags of every coach decide the step of a gang that runs (R361). -/
def execStepCommitDecision (gang : Nat) (s : State) : Host.Outcome State Fault Refusal :=
  let g := s.gang gang
  if g.open_ && s.coachesRun g.coaches && g.cores.all s.atStepCommit && g.cores.any fun c => (s.ctl c).commitWait.isSome then
    let f := g.coaches.foldl (fun f c => f ||| s.stepFlags c) 0
    let s1 := s.setGang gang { g with open_ := false, stepn := (g.stepn + 1) % 2 ^ 32, cv := g.cv != (f == 0), restarts := [] }
    let close (s : State) (c : Nat) : State :=
      let k := s.coach c
      s.setCoach c { k with stepf := closeStep k.stepf (f == 0) }
    .next (g.cores.foldl (fun s c => s.leaveStepCommit c (BitVec.ofNat 64 f)) (g.coaches.foldl close s1))
  else .next s

/-! ## Barriers (R351) -/

/-- The cores of a gang that take part in a barrier: those of a carriage, a coach or a die (R351). -/
def Gang.participants (g : Gang) (sc group : Nat) : List Nat :=
  g.cores.filter fun c =>
    match sc with
    | 1 => c / 8 == group
    | 2 => c / 16 == group
    | _ => c / 128 == group

/-- The barriers at a scope that a core waits in: their numbers and release sets. -/
def Ctl.barWaits (c : Ctl) (sc : Nat) : List (Nat × RelSet) :=
  c.blocks.filterMap fun b => match b with
    | .bar x n r => if x = sc then some (n, r) else none
    | _ => none

/-- Whether a core has arrived at a barrier: it waits in it with a complete release set, or has exited (R351). -/
def State.atBar (s : State) (sc n core : Nat) : Bool :=
  (s.ctl core).hasExited || ((s.ctl core).barWaits sc).any fun p => p.1 == n && s.relDone core p.2

/-- The lowest number of a barrier at a scope that some core waits in. -/
def State.barNumber (s : State) (sc : Nat) (cores : List Nat) : Option Nat :=
  (cores.flatMap fun c => ((s.ctl c).barWaits sc).map (·.1)).foldl (fun m n => match m with
    | none => some n
    | some x => some (Nat.min x n)) none

/-- Whether a wait is the barrier of a scope with a number. -/
def Block.isBar (sc n : Nat) (b : Block) : Bool :=
  match b with
  | .bar x k _ => x == sc && k == n
  | _ => false

/-- BAR_COMPLETE (R351): every participant, on a coach that runs, has arrived at its k-th barrier; they go on. -/
def execBarComplete (gang : Nat) (sc : BitVec 3) (group : Nat) (s : State) : Host.Outcome State Fault Refusal :=
  let who := (s.gang gang).participants sc.toNat group
  match s.barNumber sc.toNat who with
  | none => .next s
  | some n =>
    if (s.coachesRun (who.map coachOf)) && who.all fun c => s.atBar sc.toNat n c then
      .next (who.foldl (fun s c => s.setCtl c ((s.ctl c).unblock (Block.isBar sc.toNat n))) s)
    else .next s

/-! ## The end of a gang (R22, R378) -/

/-- Whether a message belongs to the traffic of coaches. -/
def Msg.ofCoaches (m : Msg) (coaches : List Nat) : Bool :=
  match m.kind with
  | .holdReq .. | .linkState _ => false
  | _ => coaches.contains m.srcCo || coaches.contains m.dstCo

/-- What is left of the traffic of coaches is discarded at both ends (R325). -/
def State.clearStreams (s : State) (coaches : List Nat) : State :=
  let gone := (s.net.filter fun p => p.2.ofCoaches coaches).map (·.1)
  let die (d : Die) : Die := { d with heldW := d.heldW.filter fun i => !gone.contains i }
  let link (x : Link) : Link :=
    { x with wait := x.wait.filter fun m => !m.ofCoaches coaches, wire := x.wire.filter fun f => !f.msg.ofCoaches coaches }
  { s with dies := s.dies.map fun p => (p.1, die p.2), net := s.net.filter fun p => !p.2.ofCoaches coaches,
           links := s.links.map fun p => (p.1, link p.2) }

/-- A coach without a context; what walks under way there hold is released (R300). -/
def State.freeCoach (s : State) (coach : Nat) : State :=
  let walks (s : State) (c : Nat) : State := (s.eng c).ops.foldl (fun s o => s.releaseWalk c o) s
  (coresOf coach).foldl (fun s c => s.setCore c Core.reset) (((coresOf coach).foldl walks s).setCoach coach Coach.reset)

/-- The largest TCLK count over a gang's coaches: those it stands on, those whose contexts are saved away, and those lost (R21). -/
def State.tclkUsed (s : State) (gi : Nat) : Nat :=
  let g := s.gang gi
  let here := (g.coaches.filter fun c => (s.coach c).gang == some gi).map fun c => (s.coach c).tclk
  (here ++ g.saved.map fun x => x.ctx.tclk).foldl Nat.max g.lostTclk

/-- Write DW13 and DW14 of a gang's record (R21, R22). -/
def State.setCounts (s : State) (gi : Nat) : State :=
  let g := s.gang gi
  match g.recAt with
  | some a =>
    let m := s.mem.setNum (.dev (gi / 64) (a + 104)) 8 (g.bused % 2 ^ 48)
    { s with mem := m.setNum (.dev (gi / 64) (a + 112)) 8 (s.tclkUsed gi % 2 ^ 48) }
  | none => s

/-- End a gang: the counts, then the terminal STATE, and its coaches are freed (R22). -/
def State.endGang (s : State) (gi code st : Nat) (stand : GStand) : State :=
  let g := s.gang gi
  let s1 := (s.setCounts gi).setRecord gi code st
  let mine := g.coaches.filter fun c => (s.coach c).gang == some gi
  let s2 := (mine.foldl (fun s c => s.freeCoach c) s1).clearStreams mine
  s2.setGang gi { g with stand := stand, saved := [] }

/-- CODE of a gang's first fault (R21). -/
def Gang.code (g : Gang) : Nat :=
  match g.fault with
  | some w => fld w 0 8
  | none => 0

/-- End a gang FAULTED with the code of its first fault. -/
def State.endFaulted (s : State) (gi : Nat) : State := s.endGang gi (s.gang gi).code 4 .faulted

/-- Whether a core's part of its gang has come to its end: it is exited, and everything it issued has completed (R378). -/
def State.coreFinished (s : State) (core : Nat) : Bool :=
  (s.ctl core).hasExited && (s.eng core).run.isEmpty && (s.eng core).ops.isEmpty && (s.ctl core).acc.isEmpty &&
    (s.eng core).sigs.isEmpty

/-- Whether nothing is left under way in a coach. -/
def Coach.quiet (k : Coach) : Bool :=
  k.fab.out.isEmpty && k.beats.isEmpty && k.tl.land.isEmpty && !k.tl.running && k.stand == .running

/-- GANG_DONE (R378): every core has exited and every operation of the gang has completed. -/
def execGangDone (gang : Nat) (s : State) : Host.Outcome State Fault Refusal :=
  let g := s.gang gang
  if (g.stand == .running || g.stand == .preempting) && g.cores.all s.coreFinished && g.coaches.all fun c => (s.coach c).quiet then
    .next (s.endGang gang 0 3 .done)
  else .next s

/-! ## Stopping (R361) -/

/-- The coaches of a gang on one of its logical dies. -/
def Gang.dieCoaches (g : Gang) (l : Nat) : List Nat := (span (l * g.perDie) g.perDie).map g.coachAt

/-- The coaches of a gang that have not been lost with their die. -/
def Gang.surviving (g : Gang) : List Nat :=
  ((List.range g.ncoach).filter fun l => !g.lost.contains (l / g.perDie)).map g.coachAt

/-- The die that does the home unit's part for a gang: its home die, or after the loss of that the surviving die of lowest logical index (R360). -/
def State.homeDie (s : State) (gi : Nat) : Nat :=
  if (s.die (gi / 64)).lost then dieOf ((s.gang gi).surviving.headD (gi / 64 * 8)) else gi / 64

/-- Whether messages of the home unit of a coach's gang come to the coach (R360). -/
def State.hearsHome (s : State) (coach : Nat) : Bool :=
  match (s.coach coach).gang with
  | some gi => s.reaches (s.homeDie gi) (dieOf coach)
  | none => true

/-- STOP_MESSAGE (R360, R361): the home unit's stop reaches a coach; to a die that no route leads to it does not come. -/
def execStopMessage (coach : Nat) (s : State) : Host.Outcome State Fault Refusal :=
  let k := s.coach coach
  match k.stopDue with
  | some t =>
    if t ≤ s.cyc ∧ s.hearsHome coach = true then
      .next ((s.setCoach coach { k with stand := k.stand.stopped, stopDue := none }).noteAnswer (dieOf coach))
    else .next s
  | none => .next s

/-- A core takes the deadline fault: every core has OWN 1 and names itself (R97, R362). -/
def State.deadline (s : State) (bused : Nat) (core : Nat) : State := s.raise core 0x13 (mkFld 0 48 bused)

/-- Whether the budget of a gang that counts is exceeded (R97). -/
def Gang.late (g : Gang) : Bool :=
  decide (g.budget < g.bused) && (g.stand == .running || g.stand == .preempting || g.stand == .starting || g.stand == .stopping)

/-- DEADLINE_FAULT (R97): in the first cycle in which BUSED exceeds BUDGET, every coach of the gang raises it, also while the gang stops. -/
def execDeadlineFault (gang : Nat) (s : State) : Host.Outcome State Fault Refusal :=
  let g := s.gang gang
  if g.late then
    .next ((g.cores.filter fun c => (s.coach (coachOf c)).gang == some gang).foldl (fun s c => s.deadline g.bused c) s)
  else .next s

/-- Whether a pre-emption request to a gang stands whose save has not completed (R38). -/
def Gang.asked (g : Gang) : Bool :=
  match g.stand with
  | .preempting => true
  | .held | .resuming | .starting => g.preTmo != 0
  | _ => false

/-- EVICTION (R38): a class-3 gang whose save has not completed within PRETMO cycles of the request, be it running or held: its contexts are
discarded, it ends FAULTED with CODE 0xE1. -/
def execEviction (gang : Nat) (s : State) : Host.Outcome State Fault Refusal :=
  let g := s.gang gang
  if g.asked = true ∧ g.preAt + g.preTmo ≤ s.cyc then
    .next ((s.setGang gang { g with fault := some (mkFld 0 8 0xE1) }).endFaulted gang)
  else .next s

/-! ## Lost dies (R35, R360) -/

/-- A gang's reductions that wait for a lost die, and its barriers, complete with PEER_ABSENT, unless they were complete before (R332,
R333). -/
def State.absentPeers (s : State) (die gi : Nat) : State :=
  let g := s.gang gi
  let core (s : State) (c : Nat) : State :=
    (s.eng c).ops.foldl (fun s o =>
      if o.done then s
      else
        match o.e.ins with
        | .fbar _ => s.finishOp c o 0 2
        | .fred .. =>
          match o.grp with
          | some x => if x.mem.any fun m => dieOf (g.coachAt m.1) == die then s.finishOp c o 0 2 else s
          | none => s
        | _ => s) s
  g.cores.foldl core s

/-- The triples of a coach to a lost die are broken: with a write of it outstanding, the coach raises its stream-broken fault (R324,
R336). -/
def State.lostTarget (s : State) (die coach : Nat) : State :=
  let k := s.coach coach
  match k.fab.out.find? fun w => w.dstDie == die with
  | some w => s.breakAt coach w (List.range 15)
  | none =>
    let add := ((List.range 15).map fun t => (die, t)).filter fun t => !k.fab.broken.contains t
    s.setCoach coach { k with fab := { k.fab with broken := k.fab.broken ++ add } }

/-- The held writes that a lost die has sent to the die of a coach that keeps their numbers are discarded, and the coach raises its stream-broken
fault: at stream 15 with a stream-15 write among them, else at the lowest of their triples, with the number that it expects next there (R324,
R336). -/
def State.lostSource (s : State) (die logical coach : Nat) : State :=
  let d := s.die (dieOf coach)
  let held := d.heldW.filterMap fun i =>
    (lookup? s.net i).bind fun m => if s.keeper m.dstCo = coach ∧ m.src = die then some (i, m) else none
  if held = [] then s
  else
    let ids := held.map (·.1)
    let s1 := ids.foldl (fun s i => s.dropMsg i) (s.setDie (dieOf coach) { d with heldW := d.heldW.filter fun i => !ids.contains i })
    let all := (held.filter fun p => p.2.nums.length == 15).map fun p => tripleKey p.2.srcCo 0
    let triples := if all.isEmpty then held.flatMap fun p => p.2.nums.map fun q => tripleKey p.2.srcCo q.1 else all
    let low := triples.foldl (fun (a b : Nat) => if b % 16 < a % 16 ∨ (b % 16 = a % 16 ∧ b < a) then b else a) (triples.headD 0)
    s1.breakEnd coach (streamFaddr (if all.isEmpty then low % 16 else 15) logical 1 (lookupD 0 (s.coach coach).fab.expect low))

/-- A gang loses one of its logical dies: the contexts there are gone; core 0 of the surviving coach of lowest index raises 0x91, and the peers
of the lost coaches learn of it; a gang that only holds coaches waits again; one that has no coach left, or is away, ends (R42, R324,
R332, R360, R362; the last DESIGN CHOICE, log 20). A gang that was still to start counts as RUNNING from here on (R22). -/
def State.loseFor (s : State) (gi l : Nat) : State :=
  let s := if (s.gang gi).stand = .holding then s.backToWait gi else s
  let g := s.gang gi
  match g.stand with
  | .waiting | .done | .faulted => s
  | _ =>
    if g.lost.contains l then s
    else
      let gone := (g.dieCoaches l).filter fun c => (s.coach c).gang == some gi
      let die := dieOf (g.coachAt (l * g.perDie))
      let g1 := { g with
        lost := g.lost ++ [l], lostTclk := (gone.map fun c => (s.coach c).tclk).foldl Nat.max g.lostTclk }
      let s1 := (gone.foldl (fun s c => s.freeCoach c) (s.setGang gi g1))
      let dead := mkFld 0 8 0x91
      match g.stand, g1.surviving with
      | .preempted, _ => (s1.setGang gi { g1 with fault := some dead }).endFaulted gi
      | _, [] => s1.setGang gi { g1 with fault := some (g1.fault.getD dead), stand := .stopping }
      | _, k :: _ =>
        let s2 := (s1.raise (k * 16) 0x91 (mkFld 0 9 l)).absentPeers die gi
        let s3 := g1.surviving.foldl (fun s c => s.lostTarget die c) s2
        ((g1.surviving.filter fun c => s3.keeper c == c).foldl (fun s c => s.lostSource die l c) s3)

/-- The logical die of a gang that stands on a die. -/
def Gang.logicalOf (g : Gang) (die : Nat) : Option Nat :=
  ((List.range g.ncoach).find? fun l => dieOf (g.coachAt l) == die).map fun l => l / g.perDie

/-- Every gang with a coach on a die loses its logical die. -/
def State.loseAll (s : State) (die : Nat) : State :=
  (s.gangs.map (·.1)).foldl (fun s gi =>
    match (s.gang gi).logicalOf die with
    | some l => s.loseFor gi l
    | none => s) s

/-- DIE_LOST (R360, R391): a die of the domain is lost and stops: its links go DOWN, it answers no message, it holds no coach for a gang;
every gang with a coach on it loses its logical die. -/
def execDieLost (die : Nat) (s : State) : Host.Outcome State Fault Refusal :=
  let d := s.die die
  if d.lost then .next s
  else
    let s1 := { (s.setDie die { d with lost := true, holds := [], asked := none }) with
      present := s.present.filter fun x => x != die, net := s.net.filter fun p => p.2.dst != die }
    .next (((span (die * 6) 6).foldl (fun s l => s.linkDown l) s1).loseAll die)

/-- Whether a coach has still to be reached by a message of its home unit: a start tick, or a stop (R35, R361). -/
def Coach.unreached (k : Coach) : Bool :=
  k.stopDue.isSome || (match k.stand with
    | .ready _ rx _ => rx != 0
    | _ => false)

/-- Whether a home unit waits for a die to answer a hold request, a start tick or a stop of a gang; the home die (R34, R35, R360, R361). -/
def State.askedFor (s : State) (die gi : Nat) : Option Nat :=
  let g := s.gang gi
  let home := s.homeDie gi
  let open_ := (g.stand == .holding && g.dies.contains die && !g.grants.contains die) ||
    (g.coaches.any fun c => dieOf c == die && (s.coach c).gang == some gi && (s.coach c).unreached)
  if home ≠ die ∧ open_ = true then some home else none

/-- The home die of some gang that waits for a die to answer. -/
def State.waitsFor (s : State) (die : Nat) : Option Nat := (s.gangs.map (·.1)).findSome? (s.askedFor die)

/-- The die that has been silent for 20 µs, 60,000 cycles: the one that has not answered, or the asking one when none of its own links carries
anything (R360; the latter DESIGN CHOICE, log 100). -/
def State.silent (s : State) (die : Nat) : Option Nat :=
  match (s.die die).asked with
  | some t =>
    if t + 60000 ≤ s.cyc then
      (s.waitsFor die).map fun home => if (span (home * 6) 6).all fun l => (s.link l).dead then home else die
    else none
  | none => none

/-- How long a die has left messages of home units without an answer, at the end of a cycle (R360). -/
def State.tickAsked (s : State) (die : Nat) : State :=
  let d := s.die die
  let now := if (s.waitsFor die).isSome then some (d.asked.getD s.cyc) else none
  if d.asked = now then s else s.setDie die { d with asked := now }

/-! ## Spare dies (R375) -/

/-- The spare coaches of a gang's reservation on a die: free ones that a SPARE entry names (R31, R375). -/
def State.spares (s : State) (gi die : Nat) : List Nat :=
  let g := s.gang gi
  dieCoaches (fun c =>
    s.coachFree gi c && (match s.reservedTo c with
      | some (rid, ten, spare) => rid == g.resv && ten == g.tenant && spare
      | none => false)) die

/-- The members of a stripe set as logical dies, its parity member last (R140). -/
def MapEntry.memberDies (e : MapEntry) (g : Gang) : List Nat := (span e.die0 (e.members + b2n e.par)).map fun x => x % g.ndie

/-- The stripe regions with a parity member in the maps of a coach. -/
def State.stripes (s : State) (coach : Nat) : List MapEntry :=
  ((s.coach coach).phases.flatMap id).filter fun e => e.home == 5 && e.present (s.gangOf coach)

/-- The replacement of every lost die by spare coaches of one other die each: logical die and coaches, or none (R375). -/
def State.replacements (s : State) (gi : Nat) : List Nat → List Nat → Option (List (Nat × List Nat))
  | [], _ => some []
  | l :: rest, used =>
    let g := s.gang gi
    match s.present.find? fun d => !used.contains d && decide (g.perDie ≤ (s.spares gi d).length) with
    | none => none
    | some d => (s.replacements gi rest (used ++ [d])).map fun t => (l, (s.spares gi d).take g.perDie) :: t

/-- The plan for the lost dies of a gang: none when a loss cannot be replaced (R375). -/
def State.sparePlan (s : State) (gi : Nat) : Option (List (Nat × List Nat)) :=
  let g := s.gang gi
  match g.lost, g.surviving with
  | [], _ => some []
  | _, [] => none
  | lost, k :: _ =>
    let two := (s.stripes k).any fun e => decide (1 < ((e.memberDies g).filter lost.contains).length)
    if g.resv = 0 ∨ two = true then none
    else s.replacements gi lost ((g.surviving.map dieOf).eraseDups)

/-- Whether the stop of a gang ends in a re-issue of its open step (R360, R374). -/
def State.canReissue (s : State) (gi : Nat) : Bool := (s.gang gi).open_ && (s.sparePlan gi).isSome

/-! ## Saving (R366, R367) -/

/-- Whether a gang's stop spoils its step: it lost a die, or some core raised a fault of the step-spoiling class (R360). -/
def State.spoiled (s : State) (g : Gang) : Bool :=
  !g.lost.isEmpty || g.cores.any fun c => (s.ctl c).own && spoils (fld ((s.ctl c).sr.get 0x040) 0 8)

/-- Whether a gang's stop is a deadline. -/
def State.overdue (s : State) (g : Gang) : Bool := g.cores.any fun c => (s.ctl c).own && fld ((s.ctl c).sr.get 0x040) 0 8 == 0x13

/-- Whether the accesses of a core have performed, or wait for a release set that cannot complete before the save. -/
def State.accessesRest (s : State) (core : Nat) : Bool :=
  match (s.ctl core).acc with
  | [] => true
  | a :: _ => !a.relOk s core

/-- Whether the untimed work of a core is complete: an fbar that has issued stays registered (R294, R335, R361). -/
def State.workDone (s : State) (core : Nat) : Bool :=
  (s.eng core).ops.all fun o => match o.e.ins with
    | .fbar _ => true
    | _ => false

/-- Whether a drained coach may be saved after a fault (R361, R366). -/
def State.faultSaveReady (s : State) (g : Gang) (coach : Nat) : Bool :=
  let k := s.coach coach
  k.stand == .drained && decide (k.saveAt ≤ s.cyc) && ((coresOf coach).all fun c => s.workDone c && s.accessesRest c) &&
    (s.spoiled g || s.overdue g || k.fab.out.all fun w => s.tripleBroken coach w.dstDie w.nums)

/-- Whether a wait keeps its core from being at a pre-emption point: bar, ph.adv (R144, R351). -/
def Block.pins (b : Block) : Bool :=
  match b with
  | .bar .. | .phAdv => true
  | _ => false

/-- Whether a core has stopped at a pre-emption point: nothing pins it to its line (R41, R103, R144, R351). -/
def Ctl.pointed (c : Ctl) : Bool := c.stand == .stopped && !c.blocks.any Block.pins

/-- Whether a core stands at a pre-emption point with its queues empty, or has exited (R367). -/
def State.atPoint (s : State) (core : Nat) : Bool :=
  let c := s.ctl core
  !c.inHandler &&
    (c.hasExited || (c.pointed && hasKey (s.coach (coachOf core)).tpt (coreIx core) && c.acc.isEmpty)) && s.workDone core &&
    (s.eng core).run.isEmpty

/-- Whether a pre-empted gang may be saved: every core at its point, no segment running, no remote write outstanding (R144, R193,
R335, R367). -/
def State.preemptReady (s : State) (g : Gang) : Bool :=
  g.stand == .preempting && g.cores.all s.atPoint && g.coaches.all fun c => (s.coach c).quiet

/-- TPT of the cores that have stopped at a point (R367): the first TCLK cycle at which their timed queues are empty and their writes have
performed. -/
def State.markPoints (s : State) (coach : Nat) : State :=
  (coresOf coach).foldl (fun s c =>
    let k := s.coach coach
    let x := s.eng c
    if (s.ctl c).pointed && k.stand == .running && x.ql.isEmpty && x.qm.isEmpty && x.qv.isEmpty && x.qs.isEmpty &&
        x.run.isEmpty && !hasKey k.tpt (coreIx c) then
      s.setCoach coach { k with tpt := putKey k.tpt (coreIx c) k.tclk }
    else s) s

/-- The coaches of a gang fix TSAVE and stop (R367). -/
def State.fixSave (s : State) (g : Gang) : State :=
  g.coaches.foldl (fun s c =>
    let k := s.coach c
    let d := s.delay 47999
    d.2.setCoach c { k with stand := .drained, tsave := k.tclk, reason := 1, saveAt := s.cyc + 1 + d.1, preReq := false }) s

/-- The stash of a coach's context. -/
def State.stash (s : State) (coach : Nat) : SavedCtx :=
  { coach := coach, ctx := s.coach coach, cores := (coresOf coach).map s.core }

/-- What follows once every surviving coach of a gang is saved (a core of a held gang may raise a new fault, R379): a pre-empted gang
leaves its coaches; a precise or issue fault holds the gang or ends it; a deadline ends it; a spoiled step is left to its re-issue
(R360, R365, R368, R374). -/
def State.afterSave (s : State) (gi : Nat) : State :=
  let g := s.gang gi
  if !(g.surviving.all fun c => (s.coach c).stand == .saved) then s
  else
    match g.stand with
    | .preempting =>
      let saved := g.coaches.map s.stash
      ((g.coaches.foldl (fun s c => s.freeCoach c) s).clearStreams g.coaches).setGang gi
        { g with stand := .preempted, saved := saved, preTmo := 0 }
    | .stopping =>
      let d := s.die (gi / 64)
      let w := g.fault.getD 0
      if s.spoiled g then s
      else if s.overdue g then s.endFaulted gi
      else if flag (d.regs.get (g.tenant * 65536 + 0x130)) 0 && decide ((d.events g.tenant).length < 64) then
        let ev := eventWord 1 (gi % 64) (fld w 8 12) (fld w 20 4) g.tag
        let rest (s : State) (c : Nat) : State := s.setCtl c { s.ctl c with own := false }
        (g.cores.foldl rest (s.setDie (gi / 64) (d.pushEvent g.tenant ev w))).setGang gi { g with stand := .held }
      else s.endFaulted gi
    | _ => s

/-- Save a drained coach: every core records the stop, the save area is written (R362, R363, R366). -/
def State.saveCoach (s : State) (gi coach : Nat) : State :=
  let g := s.gang gi
  let pre := g.stand == .preempting
  let reason := if pre then 1 else if s.spoiled g && !s.overdue g && s.canReissue gi then 3 else 2
  let s1 := if pre then s
    else (coresOf coach).foldl (fun s c => s.setCore c ((s.core c).recordStop g.fault)) s
  let k := s1.coach coach
  let k1 : Coach := { k with stand := .saved, reason := reason, tsave := if pre then k.tsave else k.tend, preReq := false }
  ((s1.writeSave coach reason).setCoach coach k1).afterSave gi

/-- COACH_SAVE (R366, R367): the coaches of a gang that may be saved stop together; a drained coach's context is written to its save
area. -/
def execCoachSave (coach : Nat) (s : State) : Host.Outcome State Fault Refusal :=
  let k := s.coach coach
  match k.gang with
  | none => .next s
  | some gi =>
    let g := s.gang gi
    if k.stand = .running then
      let s1 := s.markPoints coach
      if s1.preemptReady g then .next (s1.fixSave g) else .next s1
    else if (k.stand == .drained && g.stand == .preempting && decide (k.saveAt ≤ s.cyc)) ||
        (g.stand == .stopping && s.faultSaveReady g coach) then .next (s.saveCoach gi coach)
    else .next s

/-! ## Resuming (R364, R365, R368) -/

/-- The slot of a held gang of a function that a GCMD value names with a command, or none (R364). -/
def State.heldSlot (s : State) (die fn : Nat) (value : Word) (cmd : Nat) : Option Nat :=
  let gi := die * 64 + fld value 0 6
  let g := s.gang gi
  if fld value 10 54 = 0 ∧ fld value 6 2 = 0 ∧ fld value 8 2 = cmd ∧ g.stand = .held ∧ g.tenant = fn ∧ fn ≠ 0 then some gi else none

/-- GCMD_RESUME (R364, R365, R383): a held gang of a function that is exposed is resumed. -/
def execGcmdResume (die : Nat) (fn : FnId) (value : Word) (s : State) : Host.Outcome State Fault Refusal :=
  if (s.die die).vfUp = false then .next s
  else
    match s.heldSlot die fn value 1 with
    | some gi => .next (s.setGang gi { s.gang gi with stand := .resuming })
    | none => .next s

/-- GCMD_END (R364, R365, R383): a held gang of a function that is exposed ends FAULTED. -/
def execGcmdEnd (die : Nat) (fn : FnId) (value : Word) (s : State) : Host.Outcome State Fault Refusal :=
  if (s.die die).vfUp = false then .next s
  else
    match s.heldSlot die fn value 2 with
    | some gi => .next (s.endFaulted gi)
    | none => .next s

/-- Where a drained command stands in its chain: a follower comes after the drained command of the west neighbour. The fuel is the
length of the longest chain. -/
def State.chainPos (s : State) : Nat → Nat → Nat
  | 0, _ => 0
  | f + 1, core =>
    match (s.eng core).qm with
    | e :: _ =>
      match e.ins with
      | .mmulCf .. => if e.part && idCore core != 0 then s.chainPos f (core - 1) + 1 else 0
      | _ => 0
    | [] => 0

/-- The followers of drained chains issue two cycles after their feeders (R252, R260; DEDUCED, log 18). -/
def State.spaceChains (s : State) (cores : List Nat) (first : Nat) : State :=
  cores.foldl (fun s c =>
    let n := s.chainPos 8 c
    let x := s.eng c
    match x.qm with
    | e :: rest => if n = 0 then s else s.setEng c { x with qm := { e with n := first + 2 * n } :: rest }
    | [] => s) s

/-- A coach takes up its context again: what the driver may have changed is read back, and the rebase is made (R365, R368). -/
def State.resumeCoach (s : State) (gi coach : Nat) : State :=
  let g := s.gang gi
  let k := s.coach coach
  let s1 := s.readSave coach
  let hpol := mkFld 0 1 (fld ((s.die (dieOf coach)).regs.get (0x2200 + 8 * g.tenant)) 0 1)
  let shift (c : Nat) : Nat := if k.reason = 1 then k.tsave - lookupD k.tsave k.tpt (coreIx c) else k.tend - k.tstop
  let core (s : State) (c : Nat) : State :=
    let x := s.core c
    s.setCore c { x with ctl := x.ctl.resume (shift c) hpol, eng := x.eng.rebase (shift c) k.tsave }
  let s2 := ((coresOf coach).foldl core s1).spaceChains (coresOf coach) k.tsave
  s2.setCoach coach { s2.coach coach with tpt := [], reason := 0 }

/-- GANG_RESUME (R368): a pre-empted gang back on its coaches, or a held gang, resumes at a common tick. -/
def execGangResume (gang : Nat) (s : State) : Host.Outcome State Fault Refusal :=
  let g := s.gang gang
  if g.stand = .resuming then
    let s1 := g.coaches.foldl (fun s c => s.resumeCoach gang c) s
    .next ((s1.setGang gang { s1.gang gang with fault := none }).sendTicks gang (startTick s.cyc) true)
  else .next s

/-! ## Step re-issue and spare dies (R374, R375) -/

/-- Exclusive or of granules of storage. -/
def xorGranules (m : Mem) : List Loc → List Byte
  | [] => List.replicate 4096 0
  | l :: rest => xorBytes (m.read l.key 4096) (xorGranules m rest)

/-- Rebuild the granules of a stripe set's member on a logical die: every row, both versions (R140, R375). -/
def State.rebuildStripe (s : State) (g : Gang) (l : Nat) (e : MapEntry) : State :=
  let dies := e.memberDies g
  if e.par && dies.contains l then
    let rows := (e.leng + e.members - 1) / e.members * (1 + b2n e.shadow)
    let loc (d r : Nat) : Loc := .hbm (g.coachAt (d * g.perDie + e.lco)) ((e.offg + r) * 4096)
    { s with mem := (List.range rows).foldl (fun m r =>
        m.write (loc l r).key (xorGranules m ((dies.filter fun d => d != l).map fun d => loc d r))) s.mem }
  else s

/-- A spare coach takes the place of a lost one: it has the maps of a surviving coach; its SRAM and homes read zero, its timeline comes from
the image; HPOL is copied, for a context is placed there (R341, R375). Its cores stand as exited until they restart. -/
def State.placeSpare (s : State) (gi l coach model : Nat) : State :=
  let k := s.coach model
  let hpol := mkFld 0 1 (fld ((s.die (dieOf coach)).regs.get (0x2200 + 8 * (s.gang gi).tenant)) 0 1)
  let core : Core := { Core.reset with ctl := { Ctl.reset with stand := .exited, sr := Bits.put [] 0x051 hpol } }
  let k1 : Coach := { Coach.reset with
    stand := .saved, gang := some gi, lco := l, phases := k.phases, stepf := k.stepf, ph := { Phase.reset with pht := k.ph.pht } }
  let s1 := (coresOf coach).foldl (fun s c => s.setCore c core) (s.setCoach coach k1)
  let s2 := { s1 with mem := s1.mem.clear (Loc.sram coach 0).key (2 ^ 25) }
  let s3 := ((k.phases.flatMap id).foldl (fun s e => s.clearHome coach e) s2).clearCap coach
  { s3 with mem := s3.mem.write (Loc.hbm coach timelineArea).key (s3.sectionBytes (gi / 64) (s3.gang gi).image 4) }

/-- Put the spare coaches of a replaced die in place, and rebuild its stripe members (R37, R375). -/
def State.replaceDie (s : State) (gi : Nat) (p : Nat × List Nat) : State :=
  let g := s.gang gi
  let model := g.surviving.headD 0
  let places := (List.range g.perDie).zip p.2
  let coaches := places.foldl (fun l q => setNth l (p.1 * g.perDie + q.1) q.2) g.coaches
  let g1 := { g with coaches := coaches, dies := setNth g.dies p.1 (dieOf (p.2.headD 0)) }
  let s1 := places.foldl (fun s q => s.placeSpare gi (p.1 * g.perDie + q.1) q.2 model) (s.setGang gi g1)
  (s1.stripes model).foldl (fun s e => s.rebuildStripe g1 p.1 e) s1

/-- A core returns to its restart state; its fault record and HPOL stay (R341, R374). -/
def Core.restarted (x : Core) (g : Gang) (dict : Bits 35) (line map : Nat) : Core :=
  let e := coreAtEntry g line dict (x.ctl.sr.get 0x051)
  let keep := [0x008, 0x040, 0x041] ++ span 0x048 7
  let sr := (Bits.puts e.ctl.sr (keep.map fun n => (n, x.ctl.sr.get n))).put 0x020 (mkFld 0 4 map)
  { e with ctl := { e.ctl with sr := sr, inStep := true } }

/-- Reset the cores of a coach for a re-issue: a core with a recorded line restarts there, also on a spare coach; any other had exited before its
step.begin and stays exited (R371, R374). -/
def State.restartCores (s : State) (gi coach map : Nat) : State :=
  let g := s.gang gi
  let home := gi / 64
  let dict := parseDict (s.sectionBytes home g.image 2)
  (coresOf coach).foldl (fun s c =>
    let x := s.core c
    match lookup? g.restarts ((s.coach coach).lco * 16 + coreIx c) with
    | some l => (s.setCore c (x.restarted g dict l map)).loadControl home g.image c
    | none =>
      let eng : Eng := { x.eng.discard with run := [], sigs := [], ops := [], shr := [] }
      s.setCore c { x with eng := eng, ctl := { x.ctl with acc := [], own := false } }) s

/-- Reset a coach for a re-issue: the recorded map is made true, OPEN is 1, REISS is one more, and the committed version is copied (R325,
R374). -/
def State.resetCoach (s : State) (gi coach : Nat) : State :=
  let g := s.gang gi
  let k := s.coach coach
  let map := lookupD k.ph.pht g.stepPh coach
  let now := if k.ph.prep then k.ph.from_ else k.ph.pht
  let f := setFld (setFld (setFld k.stepf 0 2 0) 12 4 (Nat.min 15 (fld k.stepf 12 4 + 1))) 2 1 1
  let shifted := if now = map then s else (s.shiftSet coach now map).foldl (fun s w => s.doWrite s.mem coach w) s
  let k1 : Coach := { Coach.reset with
    stand := .saved, gang := k.gang, lco := k.lco, phases := k.phases, stepf := f, ph := { Phase.reset with pht := map }
    fab := { Fab.reset with groups := k.fab.groups } }
  let s1 := shifted.setCoach coach k1
  (s1.stepCopies coach).foldl (fun s w => s.doWrite s.mem coach w) s1

/-- The re-issue of a gang's open step (R374). -/
def State.reissue (s : State) (gi : Nat) (plan : List (Nat × List Nat)) : State :=
  let g := s.gang gi
  let model := g.surviving.headD 0
  let s1 := plan.foldl (fun s p => s.replaceDie gi p) (s.clearStreams g.coaches)
  let coaches := (s1.gang gi).coaches
  let maps := coaches.map fun c => (c, lookupD (lookupD 0 g.stepPh model) g.stepPh c)
  let s2 := s1.setGang gi { s1.gang gi with lost := [], lostTclk := 0, fault := none, stepPh := maps }
  let s3 := coaches.foldl (fun s c => s.restartCores gi c (lookupD 0 maps c)) s2
  let s4 := coaches.foldl (fun s c => s.resetCoach gi c) s3
  s4.sendTicks gi (startTick s.cyc) false

/-- STATE of a gang's launch record; 0 for a launch by instruction (R21). -/
def State.recordState (s : State) (gi : Nat) : Nat :=
  match (s.gang gi).recAt with
  | some a => s.mem.num (.dev (gi / 64) (a + 96)) 1 % 16
  | none => 0

/-- A gang whose step is not re-issued ends FAULTED: its save areas have reason 2 (R360, R374). -/
def State.endSpoiled (s : State) (gi : Nat) : State :=
  let saved := (s.gang gi).surviving.foldl (fun m c => m.write (saveLoc c 4).key [2]) s.mem
  ({ s with mem := saved } : State).endFaulted gi

/-- STEP_REISSUE (R374, R375): a stopped gang whose step was spoiled restarts it; with no step open, after a deadline, or with a loss that cannot be
replaced, it ends FAULTED. The record of one that had not started becomes RUNNING first (R22). -/
def execStepReissue (gang : Nat) (s : State) : Host.Outcome State Fault Refusal :=
  let g := s.gang gang
  if g.stand = .stopping ∧ s.spoiled g = true ∧ (g.surviving.all fun c => (s.coach c).stand == .saved) = true then
    if s.recordState gang = 1 then .next (s.setRecord gang 0 2)
    else if g.open_ = false ∨ s.overdue g = true then .next (s.endSpoiled gang)
    else
      match s.sparePlan gang with
      | some plan => .next (s.reissue gang plan)
      | none => .next ((s.setGang gang { g with fault := some (mkFld 0 8 0x91) }).endSpoiled gang)
  else .next s

end Sys2Proof.Machine
end

