-- ==== Sys2Proof/Machine/Sha.lean ====
section
/-! DEFINITION. SHA-256, with which the management cluster measures and verifies (R384, R385). -/

namespace Sys2Proof.Machine

/-- The sixty-four round constants, packed from the most significant word down, in four numbers of sixteen words. -/
def shaConstants : List Nat :=
  [0x428a2f9871374491b5c0fbcfe9b5dba53956c25b59f111f1923f82a4ab1c5ed5d807aa9812835b01243185be550c7dc372be5d7480deb1fe9bdc06a7c19bf174,
   0xe49b69c1efbe47860fc19dc6240ca1cc2de92c6f4a7484aa5cb0a9dc76f988da983e5152a831c66db00327c8bf597fc7c6e00bf3d5a7914706ca635114292967,
   0x27b70a852e1b21384d2c6dfc53380d13650a7354766a0abb81c2c92e92722c85a2bfe8a1a81a664bc24b8b70c76c51a3d192e819d6990624f40e3585106aa070,
   0x19a4c1161e376c082748774c34b0bcb5391c0cb34ed8aa4a5b9cca4f682e6ff3748f82ee78a5636f84c878148cc7020890befffaa4506cebbef9a3f7c67178f2]

/-- The eight words of the initial hash value, packed in the same way. -/
def shaStart : Nat := 0x6a09e667bb67ae853c6ef372a54ff53a510e527f9b05688c1f83d9ab5be0cd19

/-- Words of 32 bits packed in a number, the most significant first. -/
def unpackWords (n v : Nat) : List (BitVec 32) := (List.range n).map fun i => BitVec.ofNat 32 (v >>> (32 * (n - 1 - i)))

/-- The big-endian word of four bytes. -/
def beWord (bs : List Byte) : BitVec 32 := BitVec.ofNat 32 (natOfBytes (bs.take 4).reverse)

/-- The big-endian bytes of a word. -/
def beBytes (w : BitVec 32) : List Byte := (bytesOf 4 w.toNat).reverse

/-- The words of n * 4 bytes. -/
def beWords : Nat → List Byte → List (BitVec 32)
  | 0, _ => []
  | n + 1, bs => beWord bs :: beWords n (bs.drop 4)

/-- The exclusive or of a word rotated right by each of some distances. -/
def mixed (x : BitVec 32) (by_ : List Nat) : BitVec 32 := by_.foldl (fun acc r => acc ^^^ x.rotateRight r) 0

/-- The message schedule of a block: sixteen words of the block, and each further word from those 2, 7, 15 and 16 places before it. The list
holds the newest word first. -/
def schedule : Nat → List (BitVec 32) → List (BitVec 32)
  | 0, ws => ws
  | n + 1, ws =>
    let back (k : Nat) : BitVec 32 := nthD 0 ws (k - 1)
    let low := mixed (back 15) [7, 18] ^^^ (back 15 >>> 3)
    let high := mixed (back 2) [17, 19] ^^^ (back 2 >>> 10)
    schedule n ((high + back 7 + low + back 16) :: ws)

/-- The working words of a round. -/
structure ShaWork where
  left  : BitVec 32 × BitVec 32 × BitVec 32 × BitVec 32
  right : BitVec 32 × BitVec 32 × BitVec 32 × BitVec 32

/-- One round with the sum of its constant and its schedule word: the right half gives the choice, the left half the majority. -/
def ShaWork.round (x : ShaWork) (kw : BitVec 32) : ShaWork :=
  let (p, q, r, t) := x.left
  let (u, v, w, z) := x.right
  let choice := w ^^^ (u &&& (v ^^^ w))
  let most := (p &&& (q ||| r)) ||| (q &&& r)
  let step := z + mixed u [6, 11, 25] + choice + kw
  { left := (step + mixed p [2, 13, 22] + most, p, q, r), right := (t + step, u, v, w) }

/-- One block of 64 bytes. -/
def shaBlock (h : List (BitVec 32)) (bs : List Byte) : List (BitVec 32) :=
  let ws := (schedule 48 (beWords 16 bs).reverse).reverse
  let g (i : Nat) : BitVec 32 := nthD 0 h i
  let sums := List.zipWith (· + ·) (shaConstants.flatMap (unpackWords 16)) ws
  let x := sums.foldl ShaWork.round { left := (g 0, g 1, g 2, g 3), right := (g 4, g 5, g 6, g 7) }
  [g 0 + x.left.1, g 1 + x.left.2.1, g 2 + x.left.2.2.1, g 3 + x.left.2.2.2,
   g 4 + x.right.1, g 5 + x.right.2.1, g 6 + x.right.2.2.1, g 7 + x.right.2.2.2]

/-- n blocks in turn. -/
def shaBlocks : Nat → List (BitVec 32) → List Byte → List (BitVec 32)
  | 0, h, _ => h
  | n + 1, h, bs => shaBlocks n (shaBlock h (bs.take 64)) (bs.drop 64)

/-- The SHA-256 digest of a list of bytes. -/
def sha256 (bs : List Byte) : List Byte :=
  let zeros := (119 - bs.length % 64) % 64
  let padded := bs ++ [0x80] ++ List.replicate zeros 0 ++ (bytesOf 8 (8 * bs.length)).reverse
  (shaBlocks (padded.length / 64) (unpackWords 8 shaStart) padded).flatMap beBytes

end Sys2Proof.Machine
end

