-- ==== Sys2Proof/Machine/Manage.lean ====
section
/-! DEFINITION. The host's registers (R24, R30, R31, R142, R187, R191, R285, R314, R341, R364, R386 to R389, R393) and the management cluster (R382 to R391). -/

namespace Sys2Proof.Machine

/-! ## Registers -/

/-- A register of a function, as it was last stored. -/
def Die.reg (d : Die) (fn off : Nat) : Word := d.regs.get (fn * 65536 + off)

/-- Store a register of a function. -/
def Die.putReg (d : Die) (fn off : Nat) (v : Word) : Die := { d with regs := d.regs.put (fn * 65536 + off) v }

/-- Replace the bits of a mask. -/
def merge (mask old new : Word) : Word := (old &&& ~~~mask) ||| (new &&& mask)

/-- What a write of TQ stores (R30). -/
def tqStored (v : Word) : Word :=
  mkFld 40 8 (Nat.min 64 (fld v 40 8)) ||| mkFld 16 12 (Nat.min 3072 (fld v 16 12)) ||| mkFld 0 1 (fld v 0 1)

/-- What a write of PCAP stores: PACE stays (R389). -/
def pcapStored (old v : Word) : Word :=
  mkFld 32 6 (fld old 32 6) ||| mkFld 16 1 (fld v 16 1) ||| mkFld 0 16 (Nat.min 3200 (Nat.max 1600 (fld v 0 16)))

/-- A plain write to a register of the physical function (R30, R31, R187, R341, R389). A write of POOL fixes the granules that the tenant's fast
pools leave out, those that are retired by then (R187, R387). -/
def Die.writePf (d : Die) (off : Nat) (v : Word) : Die :=
  if off % 8 ≠ 0 then d
  else if 0x2008 ≤ off ∧ off ≤ 0x2080 then d.putReg 0 off (tqStored v)
  else if 0x2108 ≤ off ∧ off ≤ 0x2180 then
    { d.putReg 0 off (v &&& 0x1FFFFFF) with laid := putKey d.laid ((off - 0x2100) / 8) d.mgmt.bad }
  else if 0x2208 ≤ off ∧ off ≤ 0x2280 then d.putReg 0 off (v &&& 1)
  else if 0x3000 ≤ off ∧ off < 0x3400 then
    d.putReg 0 off (v &&& (if off % 16 = 0 then 0xFFFF1FFF00000003 else 0xFFFFFFFFFFFF))
  else if off = 0x6000 then d.putReg 0 off (pcapStored (d.reg 0 off) v)
  else d

/-- The tenant whose fast pools a register of the physical function lays out (R187). -/
def poolTenant (off : Nat) : Option Nat := if off % 8 = 0 ∧ 0x2108 ≤ off ∧ off ≤ 0x2180 then some ((off - 0x2100) / 8) else none

/-- Whether a stack granule of a coach belongs to a tenant's pool there as it is laid out (R187, R387). -/
def State.inPool (s : State) (die tenant coach slot : Nat) : Bool :=
  decide (17315981 - s.poolSize die tenant ≤ slot) && !(badGranules (lookupD [] (s.die die).laid tenant) coach).contains slot

/-- A page leaves its pool: what was written while it was resident is written back (R189, R190, R393). -/
def State.leavePool (s : State) (die tenant page : Nat) : State :=
  let d := s.die die
  let key := pageKey tenant page
  let p := lookupD Page.reset d.pages key
  match p.coach with
  | none => s
  | some k =>
    let low := Loc.cap die (s.capBase die tenant * 4096 + page * 4096)
    { (s.setDie die { d with pages := putKey d.pages key { p with coach := none, dirty := false } }) with
      mem := if p.dirty && decide (page < d.capSize tenant) then s.mem.write low.key (s.mem.read (Loc.hbm k (p.slot * 4096)).key 4096)
        else s.mem }

/-- A tenant's fast pools are laid out anew: the pages that stand in granules which belong to them no more leave, and no move goes on into one (R187,
R387; that they leave at once is a DESIGN CHOICE, log 101). -/
def State.layPools (s : State) (die tenant : Nat) : State :=
  let out (coach slot : Nat) : Bool := !s.inPool die tenant coach slot
  let d := s.die die
  let moves := d.moves.filter fun m => !(m.tenant == tenant && out m.coach m.slot)
  let gone := d.pages.filter fun p => p.1 / 2 ^ 32 == tenant && (match p.2.coach with
    | some k => out k p.2.slot
    | none => false)
  gone.foldl (fun s p => s.leavePool die tenant (p.1 % 2 ^ 32)) (s.setDie die { d with moves := moves })

/-- A write to a register of the physical function that only stores, or lays out fast pools (R30, R31, R187, R341, R389). -/
def State.writePf (s : State) (die off : Nat) (v : Word) : State :=
  let s1 := s.setDie die ((s.die die).writePf off v)
  match poolTenant off with
  | some t => s1.layPools die t
  | none => s1

/-- A plain write to a register of a virtual function (R24, R142, R285, R364). -/
def Die.writeVf (d : Die) (fn off : Nat) (v : Word) : Die :=
  let scanning := flag (d.reg fn 0x100) 0
  if off = 0x100 then
    d.putReg fn off (if scanning then setFld (d.reg fn off) 0 1 (fld v 0 1) else v &&& 0xFFFFFFFFF001)
  else if off = 0x108 then
    if scanning then d else d.putReg fn off (mkFld 0 4 (if 9 ≤ fld v 0 4 then 8 else fld v 0 4))
  else if off = 0x110 then d.putReg fn off (v &&& 0xFFFFFFFFF001)
  else if off = 0x130 then d.putReg fn off (v &&& 1)
  else if off % 16 = 0 ∧ 0x200 ≤ off ∧ off ≤ 0x230 then
    if flag (d.reg fn (off + 8)) 63 then d else d.putReg fn off (v &&& 0x3FFFFFFF)
  else d

/-- Whether transfers under the slot that HREV names may still move a granule (R142, R143). -/
def State.revBusy (s : State) (die fn : Nat) : Bool :=
  let slot := fld ((s.die die).reg fn 0x118) 0 16
  (span (die * 128) 128).any fun c =>
    (s.gangOf (coachOf c)).tenant == fn &&
      (s.eng c).ops.any fun o => match o.e.ins with
        | .cph .. => hSlot o.e.v1 == slot && !o.done
        | _ => false

/-- MBXSTS of a die (R386). -/
def Mgmt.status (m : Mgmt) : Word := mkFld 5 3 m.stage ||| mkFld 4 1 (b2n m.err) ||| mkFld 0 1 (b2n (m.pending != 0))

/-- LNKS of a link of a die (R314). -/
def Link.status (x : Link) : Word := mkFld 32 8 x.retrn ||| mkFld 4 28 x.replay ||| mkFld 1 3 x.mode ||| mkFld 0 1 (b2n x.up)

/-- A register as a host read gives it: GCMD reads 0; HREV.BUSY, EVQB, LNKS and MBXSTS are computed, and the mailbox buffer stands at its place
(R142, R314, R364, R386). -/
def State.regRead (s : State) (die fn off : Nat) : Word :=
  let d := s.die die
  if fn = 0 ∧ 0x5000 ≤ off ∧ off ≤ 0x5028 then (s.link (die * 6 + (off - 0x5000) / 8)).status
  else if fn = 0 ∧ off = 0x7008 then d.mgmt.status
  else if fn = 0 ∧ 0x8000 ≤ off ∧ off < 0x9000 then s.mem.dword (.mbx die (off - 0x8000))
  else if fn ≠ 0 ∧ off = 0x118 then mkFld 63 1 (b2n (s.revBusy die fn)) ||| d.reg fn off
  else if fn ≠ 0 ∧ off = 0x138 then 0
  else if fn ≠ 0 ∧ off = 0x148 then lookupD 0 d.evqb fn
  else d.reg fn off

/-- Start a revocation: HREV takes the slot (R142). -/
def State.writeHrev (s : State) (die fn : Nat) (v : Word) : State := s.setDie die ((s.die die).putReg fn 0x118 (v &&& 0xFFFF))

/-- HREV_WRITE (R142, R383): a write starts the revocation of the slot; BUSY reads 1 while a transfer under it may still move a granule. -/
def execHrevWrite (die vf : Nat) (value : Word) (s : State) : Host.Outcome State Fault Refusal :=
  if (s.die die).vfUp then .next (s.writeHrev die vf value) else .next s

/-- EVQA_READ (R364, R383): pops an entry; EVQB takes its VALUE. The entry stands at EVQA's place, as the read gave it; an empty queue gives
0. -/
def execEvqaRead (die : Nat) (fn : FnId) (s : State) : Host.Outcome State Fault Refusal :=
  let d := s.die die
  match d.vfUp, d.events fn with
  | false, _ => .next s
  | true, [] => .next (s.setDie die (d.putReg fn 0x140 0))
  | true, (a, v) :: rest =>
    .next (s.setDie die ({ d with evq := putKey d.evq fn rest, evqb := putKey d.evqb fn v }.putReg fn 0x140 a))

/-- HFAQ_READ (R191): pops an entry of the fault-address queue; it stands at HFAQ's place, as the read gave it. -/
def execHfaqRead (die : Nat) (s : State) : Host.Outcome State Fault Refusal :=
  let d := s.die die
  match d.hfaq with
  | [] => .next (s.setDie die (d.putReg 0 0x4000 0))
  | a :: rest => .next (s.setDie die ({ d with hfaq := rest }.putReg 0 0x4000 a))

/-- Whether a tenant holds a slot of a die or has a pool in use there (R393). -/
def State.capInUse (s : State) (die tenant : Nat) : Bool :=
  ((slotsOf die).any fun g => (s.gang g).held && (s.gang g).tenant == tenant) ||
    (List.range 4).any fun p => flag ((s.die die).kvpb tenant p) 63

/-- A write of a doubleword of TCAP: BASEG, or SIZEG (R393). -/
def State.writeTcap (s : State) (die tenant : Nat) (size : Bool) (v : Word) : State :=
  let d := s.die die
  let base := if size then s.capBase die tenant else fld v 0 30
  let n := if size then fld v 0 31 else d.capSize tenant
  if s.capInUse die tenant ∨ d.mgmt.capGran < base + n then s
  else if size then s.setDie die (d.putReg 0 (0x2308 + 16 * tenant) (mkFld 0 31 n))
  else s.setDie die (d.putReg 0 (0x2300 + 16 * tenant) (mkFld 0 30 base))

/-- TCAP_WRITE (R393): ignored while the tenant uses the die, or when the allocation would leave the capacity memory. -/
def execTcapWrite (die tenant : Nat) (size : Bool) (value : Word) (s : State) : Host.Outcome State Fault Refusal :=
  .next (s.writeTcap die tenant size value)

/-- Whether the runtime firmware of a die runs: telemetry, power control and the mailbox are its work (R383). -/
def Die.firmware (d : Die) : Bool := d.unitOn

/-- A write to MBXCMD starts a command, unless one runs or no firmware takes it (R383, R386). -/
def Die.command (d : Die) (v : Word) : Die :=
  if d.firmware && d.mgmt.pending == 0 then { d with mgmt := { d.mgmt with pending := v.toNat + 1 } } else d

/-- A write to a register of a die (R24, R142, R285, R364, R386, R393). A virtual function exists once boot has passed stage 2 (R383). -/
def State.writeRegister (s : State) (die fn off : Nat) (v : Word) : Host.Outcome State Fault Refusal :=
  let d := s.die die
  if fn = 0 then
    if off = 0x7000 then .next (s.setDie die (d.command v))
    else if 0x8000 ≤ off ∧ off < 0x9000 then .next { s with mem := s.mem.setNum (.mbx die (off - 0x8000)) 8 v.toNat }
    else if 0x2310 ≤ off ∧ off < 0x2410 ∧ off % 8 = 0 then .next (s.writeTcap die ((off - 0x2300) / 16) (off % 16 == 8) v)
    else .next (s.writePf die off v)
  else if 16 < fn ∨ d.vfUp = false then .next s
  else if off = 0x118 then .next (s.writeHrev die fn v)
  else if off = 0x138 then
    match s.heldSlot die fn v 1, s.heldSlot die fn v 2 with
    | some gi, _ => .next (s.setGang gi { s.gang gi with stand := .resuming })
    | none, some gi => .next (s.endFaulted gi)
    | none, none => .next s
  else if off % 16 = 8 ∧ 0x208 ≤ off ∧ off ≤ 0x238 then execKvpbWrite die fn ((off - 0x208) / 16) v s
  else .next (s.setDie die (d.writeVf fn off v))

/-- REGISTER_WRITE: a host write to a register, whose table decides what it stores. -/
def execRegisterWrite (die : Nat) (fn : FnId) (offset : Nat) (value : Word) (s : State) : Host.Outcome State Fault Refusal :=
  s.writeRegister die fn offset value

/-- VIRTUAL_FUNCTION_RESET (R18): the retired slots of the function's handle table, those with generation 0xFFFF and V clear, start again at
generation 1 (DEDUCED, log 22); a function is there once boot has exposed it (R383). -/
def execVirtualFunctionReset (die vf : Nat) (s : State) : Host.Outcome State Fault Refusal :=
  if (s.die die).vfUp = false then .next s else
  let base := fld ((s.die die).reg vf 0x110) 12 36 * 4096
  let one (m : Mem) (slot : Nat) : Mem :=
    let l : Loc := .dev die (base + slot * 32 + 8)
    let w := m.dword l
    if fld w 32 16 = 0xFFFF ∧ flag w 63 = false then m.setNum l 8 (setFld w 32 16 1).toNat else m
  .next { s with mem := (List.range 65536).foldl one s.mem }

/-! ## Boot (R383, R384) -/

/-- The digest of a stage: its image and its header (R384). -/
def StageImage.digest (x : StageImage) : List Byte := sha256 (x.body ++ x.header)

/-- The version and the key slot in a stage's header: bytes 0 to 7, and byte 8 (DESIGN CHOICE, log 23). -/
def StageImage.version (x : StageImage) : Nat := natOfBytes (x.header.take 8)
/-- The key slot in a stage's header (DESIGN CHOICE, log 23). -/
def StageImage.slot (x : StageImage) : Nat := natOfBytes ((x.header.drop 8).take 1)

/-- Whether a stage is verified (R384). -/
def Mgmt.verified (m : Mgmt) (x : StageImage) : Bool :=
  (match m.slots[x.slot]? with
   | some (digest, revoked) => !revoked && sha256 x.key == digest
   | none => false) && P256.valid x.key x.digest x.sig && decide (m.counter ≤ x.version)

/-- Extend a measurement register (R385). -/
def Mgmt.extend (m : Mgmt) (k : Nat) (digest : List Byte) : Mgmt :=
  { m with mr := setNth m.mr k (sha256 (nthD [] m.mr k ++ digest)) }

/-- The digest of the bad-page list (R385). -/
def Mgmt.badDigest (m : Mgmt) : List Byte := sha256 (m.bad.flatMap fun w => bytesOf 8 w.toNat)

/-- A link of a die trains, when the die at its other end has come up as well: no die counts it as DOWN any more, and news that it was DOWN before is
void (R313, R315, R383). -/
def State.trainLink (s : State) (die link : Nat) : State :=
  let other := neighbour die link
  let o := s.die other
  let l := die * 6 + link
  let back := other * 6 + opposite link
  let up (x : Link) : Link := { x with mode := 0, up := true, retrain := false, wire := [], wait := [], tries := 0 }
  if s.present.contains other && o.vfUp then
    let s1 := (s.setLink l (up (s.link l))).setLink back (up (s.link back))
    { s1 with
      dies := s1.dies.map fun p => (p.1, { p.2 with downs := p.2.downs.filter fun x => x != l && x != back })
      net := s1.net.filter fun p => p.2.kind != .linkState l && p.2.kind != .linkState back }
  else s

/-- A link of a die that is reset, or whose boot fails, carries nothing until it trains: its flits are lost, and it returns to PAM4-16 in both
directions. `fresh` clears the die's own counts as well (R313, R314, R383). -/
def State.untrain (fresh : Bool) (die : Nat) (s : State) (link : Nat) : State :=
  let l := die * 6 + link
  let back := neighbour die link * 6 + opposite link
  let s1 := if (s.link l).dead then s else s.linkDown l
  let quiet (x : Link) : Link := { x with mode := 0, up := false, retrain := false, wire := [], wait := [], tries := 0 }
  (s1.setLink l (if fresh then Link.reset else quiet (s1.link l))).setLink back (quiet (s1.link back))

/-- A boot stops at its stage: ERR is set, and no link is trained (R383). -/
def State.bootFails (s : State) (die : Nat) : State :=
  let d := s.die die
  (List.range 6).foldl (State.untrain false die) (s.setDie die { d with mgmt := { d.mgmt with boot := 2, err := true } })

/-- The work of a stage (R383): 1 loads the bad-page list, 2 brings up the die and its links, 3 enables the launch unit. -/
def State.stageWork (s : State) (die k : Nat) : State :=
  let d := s.die die
  match k with
  | 1 => s.setDie die { d with mgmt := d.mgmt.extend 4 d.mgmt.badDigest }
  | 2 =>
    let gran := Nat.min (Config.capGranules die) (2 ^ 30)
    (List.range 6).foldl (fun s l => s.trainLink die l) (s.setDie die { d with mgmt := { d.mgmt with capGran := gran } })
  | _ => s

/-- Stages k, k + 1, ... of a boot: each is measured and started once the one before has verified it; a failure stops the boot there and
sets ERR (R383 to R385). A stage's own work fails as the outside says (log 6). -/
def State.bootFrom (s : State) (die : Nat) : Nat → List StageImage → State
  | _, [] =>
    let d := s.die die
    if d.mgmt.stage = 3 then
      let top := d.mgmt.stages.foldl (fun n x => Nat.max n x.version) d.mgmt.counter
      s.setDie die { d with mgmt := { d.mgmt with counter := top } }
    else s.bootFails die
  | k, x :: rest =>
    let d := s.die die
    if d.mgmt.verified x then
      let m := d.mgmt.extend k x.digest
      let (bad, s1) := (s.setDie die { d with mgmt := { m with stage := k } }).mishap
      if bad then s1.bootFails die
      else (s1.stageWork die k).bootFrom die (k + 1) rest
    else s.bootFails die

/-- Forget the storage of a die (DESIGN CHOICE, log 2). -/
def State.clearDie (s : State) (die : Nat) : State :=
  let wipe (m : Mem) (l : Loc) (n : Nat) : Mem := m.clear l.key n
  let coach (m : Mem) (k : Nat) : Mem := wipe (wipe m (.sram k 0) (2 ^ 64)) (.hbm k 0) (2 ^ 64)
  let m1 := (span (die * 8) 8).foldl coach s.mem
  let m2 := (span (die * 128) 128).foldl (fun m c => wipe m (.cmem c 0) (2 ^ 64)) m1
  { s with mem := (wipe (wipe (wipe m2 (.cap die 0) (2 ^ 64)) (.dev die 0) (2 ^ 64)) (.mbx die 0) (2 ^ 64)).clear (Loc.clu die 0).key (2 ^ 64) }

/-- The die after a reset, before its boot: what is not volatile stays (R383, R384, R387). -/
def Die.afterReset (d : Die) : Die :=
  let m := d.mgmt
  { Die.reset with mgmt := { Mgmt.reset with
      boot := 1, stages := m.stages, slots := m.slots, counter := m.counter, bad := m.bad, quotes := m.quotes } }

/-- What the reset of a package does to a gang: one with coaches on other dies loses this die, and the surviving dies take its home unit's part
over (R360); one that stands in this die's slots alone is gone. -/
def State.resetGang (die : Nat) (s : State) (gi : Nat) : State :=
  let g := s.gang gi
  let here := g.coaches.filter fun c => (s.coach c).gang == some gi
  if gi / 64 = die ∧ (here.all fun c => dieOf c == die) = true then
    ((here.foldl (fun s c => s.freeCoach c) (s.releaseHolds gi)).clearStreams here).setGang gi Gang.reset
  else
    match g.logicalOf die with
    | some l => s.loseFor gi l
    | none => s

/-- POWER_ON_RESET (R383 to R385): the package is reset and boots; its links start untrained (R313, R314); gangs with coaches on it and on
other dies lose a die. The whole boot is this one event (DESIGN CHOICE, log 6: R394 names no figure for it). -/
def execPowerOnReset (die : Nat) (s : State) : Host.Outcome State Fault Refusal :=
  let s0 := (List.range 6).foldl (State.untrain true die) { s with net := s.net.filter fun p => p.2.dst != die }
  let s1 := (s0.gangs.map (·.1)).foldl (State.resetGang die) s0
  let s2 := (span (die * 8) 8).foldl (fun s c => s.freeCoach c) s1
  let d0 := s2.die die
  let s3 := (s2.clearDie die).setDie die { d0.afterReset with downs := d0.downs }
  let s4 := { s3 with present := if s3.present.contains die then s3.present else s3.present ++ [die] }
  let d := s4.die die
  let s5 := s4.setDie die { d with mgmt := d.mgmt.extend 0 Config.romDigest }
  let (bad, s6) := s5.mishap
  if bad then .next (s6.bootFails die) else .next (s6.bootFrom die 1 (d.mgmt.stages))

/-! ## The mailbox (R386, R387) -/

/-- The buffer of a die's mailbox. -/
def State.mailbox (s : State) (die n : Nat) : List Byte := s.mem.read (Loc.mbx die 0).key n

/-- A doubleword of the buffer. -/
def State.mailWord (s : State) (die i : Nat) : Word := s.mem.dword (.mbx die (8 * i))

/-- A command completes: its output stands in the buffer, and ERR says how it went (R386). -/
def State.mailDone (s : State) (die : Nat) (m : Mgmt) (out : List Byte) (err : Bool) : State :=
  let s1 := s.setDie die { s.die die with mgmt := { m with pending := 0, err := err } }
  { s1 with mem := s1.mem.write (Loc.mbx die 0).key out }

/-- Whether a mailbox command of a die runs, on the firmware (R383, R386). -/
def State.mailRuns (s : State) (die cmd : Nat) : Bool := (s.die die).firmware && (s.die die).mgmt.pending == cmd + 1

/-- ARITHGEN, the part number and the serial number as a quote holds them (R385; DEDUCED, log 24). -/
def quoteTail (die : Nat) : List Byte :=
  bytesOf 8 1 ++ [0x47, 0x5A, 0x2D, 0x39, 0x36, 0x30] ++ bytesOf 8 (Config.serial die).toNat

/-- QUOTE (R385, R386): a signature over the nonce, the measurements and the package's identity. -/
def execQuote (die : Nat) (s : State) : Host.Outcome State Fault Refusal :=
  let m := (s.die die).mgmt
  if s.mailRuns die 1 then
    let mrs := m.mr.flatMap fun r => r
    let sig := bytesOf 64 (Config.attest (sha256 (s.mailbox die 32 ++ mrs ++ quoteTail die)) m.quotes).toNat
    .next (s.mailDone die { m with quotes := m.quotes + 1 } (mrs ++ bytesOf 8 (Config.serial die).toNat ++ sig) false)
  else .next s

/-- READ_BAD_PAGE_LIST (R386, R387): up to 511 entries from a start index; the first doubleword is their number (DESIGN CHOICE, log
23). -/
def execReadBadPageList (die : Nat) (s : State) : Host.Outcome State Fault Refusal :=
  let m := (s.die die).mgmt
  if s.mailRuns die 2 then
    let l := (m.bad.drop (s.mailWord die 0).toNat).take 511
    .next (s.mailDone die m (bytesOf 8 l.length ++ l.flatMap fun w => bytesOf 8 w.toNat) false)
  else .next s

/-- Whether a doubleword is an entry of the bad-page list (R387). -/
def badOk (w : Word) : Bool := fld w 28 36 == 0 && decide (fld w 0 25 ≤ 17578124)

/-- Append entries: a full list takes none and sets ERR; duplicates are ignored; what is no entry sets ERR (R387). -/
def addBad : List Word → List Word → Nat → Bool → List Word × Nat × Bool
  | [], l, n, e => (l, n, e)
  | w :: rest, l, n, e =>
    if 65536 ≤ l.length then (l, n, true)
    else if l.contains w then addBad rest l n e
    else if badOk w = false then addBad rest l n true
    else addBad rest (l ++ [w]) (n + 1) e

/-- RETIRE_GRANULES (R386, R387): the entries of the buffer join the list, and the number added stands in the buffer. -/
def execRetireGranules (die : Nat) (s : State) : Host.Outcome State Fault Refusal :=
  let m := (s.die die).mgmt
  if s.mailRuns die 3 then
    let n := (s.mailWord die 0).toNat
    if 511 < n ∨ 65536 ≤ m.bad.length then .next (s.mailDone die m (bytesOf 8 0) true)
    else
      let r := addBad ((List.range n).map fun i => s.mailWord die (i + 1)) m.bad 0 false
      .next (s.mailDone die { m with bad := r.1 } (bytesOf 8 r.2.1) r.2.2)
  else .next s

/-- STAGE_UPDATE (R386): a piece of a signed stage image; the last piece checks the image as boot does and writes its partition. The
form of the pieces is the model's (DESIGN CHOICE, log 23): in the first doubleword bits 1:0 hold the stage, bit 8 the last piece and
bits 31:16 its length; the whole is header, key, signature and body. -/
def execStageUpdate (die : Nat) (s : State) : Host.Outcome State Fault Refusal :=
  let m := (s.die die).mgmt
  if s.mailRuns die 4 then
    let w := s.mailWord die 0
    let all := m.upd ++ ((s.mailbox die 4096).drop 8).take (fld w 16 16)
    let k := fld w 0 2
    if flag w 8 then
      let x : StageImage :=
        { header := all.take 64, key := (all.drop 64).take 64, sig := (all.drop 128).take 64, body := all.drop 192 }
      if k ≠ 0 ∧ m.verified x = true then
        let stages := m.stages ++ List.replicate (k - m.stages.length) x
        .next (s.mailDone die { m with upd := [], stages := setNth stages (k - 1) x } (bytesOf 8 0) false)
      else .next (s.mailDone die { m with upd := [] } (bytesOf 8 1) true)
    else .next (s.mailDone die { m with upd := all } (bytesOf 8 0) false)
  else .next s

/-- MAILBOX_INVALID_COMMAND (R386): any other command sets ERR, and nothing is done. -/
def execMailboxInvalidCommand (die : Nat) (s : State) : Host.Outcome State Fault Refusal :=
  let d := s.die die
  let p := d.mgmt.pending
  if d.firmware = false ∨ p = 0 ∨ p = 2 ∨ p = 3 ∨ p = 4 ∨ p = 5 then .next s
  else .next (s.setDie die { d with mgmt := { d.mgmt with pending := 0, err := true } })

/-! ## Telemetry and power (R388 to R391) -/

/-- TELEMETRY_SAMPLE (R383, R388): while the firmware runs, the registers take the latest complete sample; a temperature word holds THBM and TDIE. -/
def execTelemetrySample (die watts : Nat) (temps : List Nat) (s : State) : Host.Outcome State Fault Refusal :=
  let d := (s.die die).putReg 0 0x6008 (mkFld 0 16 watts)
  if d.firmware then
    .next (s.setDie die (((List.range 8).zip temps).foldl (fun d p => d.putReg 0 (0x6010 + 8 * p.1) (mkFld 0 32 p.2)) d))
  else .next s

/-- TDIE of a coach of a die (R388). -/
def Die.tdie (d : Die) (c : Nat) : Nat := fld (d.reg 0 (0x6010 + 8 * c)) 0 16

/-- Whether some coach of a die has reached a temperature, in 0.125 °C (R391). -/
def Die.hot (d : Die) (t : Nat) : Bool := (List.range 8).any fun c => decide (t ≤ d.tdie c)

/-- PACE of a die (R389). -/
def Die.paceNow (d : Die) : Nat := fld (d.reg 0 0x6000) 32 6

/-- Set PACE of a die. -/
def Die.setPace (d : Die) (n : Nat) : Die := d.putReg 0 0x6000 (setFld (d.reg 0 0x6000) 32 6 n)

/-- PACE_UPDATE (R383, R389, R391): once in a millisecond (3,000,000 cycles) the cluster chooses PACE, at most 48, and at most 8 away from
what it was; without EN it goes to 0; a die at 105 °C keeps 48. -/
def execPaceUpdate (die pace : Nat) (s : State) : Host.Outcome State Fault Refusal :=
  let d := s.die die
  let old := d.paceNow
  let goal := if flag (d.reg 0 0x6000) 16 then Nat.min 48 pace else 0
  if d.firmware = false ∨ s.cyc < d.paceAt ∨ d.hot 840 = true then .next s
  else .next (s.setDie die { d.setPace (Nat.min (old + 8) (Nat.max (old - 8) goal)) with paceAt := s.cyc + 3000000 })

/-- PACE_WINDOW (R389): at a multiple of 64 cycles, PACE is the number of paced cycles of the window that starts. -/
def execPaceWindow (die : Nat) (s : State) : Host.Outcome State Fault Refusal :=
  .next (if s.cyc % 64 = 0 then s.setDie die { s.die die with pace := (s.die die).paceNow } else s)

/-- THERMAL_LIMIT (R383, R391): at 105 °C PACE is 48; at 115 °C the die stops, and its gangs see a die loss. -/
def execThermalLimit (die : Nat) (s : State) : Host.Outcome State Fault Refusal :=
  let d := s.die die
  if d.firmware = false then .next s
  else if d.hot 920 then execDieLost die s
  else if d.hot 840 then .next (s.setDie die (d.setPace 48))
  else .next s

/-! ## Errors of storage (R191, R360) -/

/-- Queue an entry of the fault-address queue; in a full queue it is lost, and OVF is set on the next one (R191). -/
def Die.pushError (d : Die) (w : Word) : Die :=
  if d.hfaq.length < 256 then { d with hfaq := d.hfaq ++ [setFld w 27 1 (b2n d.hfOvf)], hfOvf := false }
  else { d with hfOvf := true }

/-- The place of a stack byte in HFAQ's fields: PC, BANK, ROW and COL (R178, R191). -/
def errorPlace (coach off : Nat) : Word :=
  let p := off / 32768 * 256 + off % 256
  mkFld 63 1 1 ||| mkFld 59 3 (coach % 8) ||| mkFld 52 7 (pcOf off) ||| mkFld 48 4 (p / 1024 % 16) ||| mkFld 32 16 (p / 16384) |||
    mkFld 28 4 (p / 64 % 16)

/-- CORRECTABLE_ERROR (R191): a corrected error of a row of a coach's stack, at a byte; the fourth since reset is queued. -/
def execCorrectableError (coach : Nat) (info : Word) (s : State) : Host.Outcome State Fault Refusal :=
  let die := dieOf coach
  let d := s.die die
  let w := errorPlace coach (fld info 0 48)
  let key := fld w 32 30
  let n := lookupD 0 d.corr key + 1
  let d1 := { d with corr := putKey d.corr key n }
  .next (s.setDie die (if n = 4 then d1.pushError w else d1))

/-- UNCORRECTABLE_ERROR (R191, R360, R362): `info` has FADDR's SOURCE and offset; bits 59:55 hold the core whose own access met the error, plus
one, and 0 for none, whose part core 0 takes. -/
def execUncorrectableError (coach : Nat) (info : Word) (s : State) : Host.Outcome State Fault Refusal :=
  let die := dieOf coach
  let d := s.die die
  let d1 := if fld info 60 4 = 1 then d.pushError (errorPlace coach (fld info 0 48) ||| mkFld 62 1 1) else d
  let s1 := s.setDie die d1
  let core := coach * 16 + (fld info 55 5 - 1) % 16
  match (s1.coach coach).gang with
  | none => .next s1
  | some _ => .next (s1.raise core 0x90 (mkFld 60 4 (fld info 60 4) ||| mkFld 0 48 (fld info 0 48)))

end Sys2Proof.Machine
end

