-- ==== Sys2Proof/Machine/Lane.lean ====
section
/-! DEFINITION. The instructions of a line, and the heads of the queues, carried out one by one: the meanings that the lanes of a line call (R86), and the entries as they issue (R91). An event is no instruction of a line. -/

namespace Sys2Proof.Machine

/-- Carry out an instruction of the seven queues on the core that the focus names: at a line's dispatch, or, with an issued entry in the
focus, at its issue. -/
def laneExec (i : Instr) (s : State) : Host.Outcome State Fault Refusal :=
  match i with
  | .add d a b => execAdd d a b s
  | .sub d a b => execSub d a b s
  | .mul d a b => execMul d a b s
  | .mulh d a b => execMulh d a b s
  | .mulhn d a b => execMulhn d a b s
  | .div d a b => execDiv d a b s
  | .rem d a b => execRem d a b s
  | .and d a b => execAnd d a b s
  | .or d a b => execOr d a b s
  | .xor d a b => execXor d a b s
  | .shl d a b => execShl d a b s
  | .shr d a b => execShr d a b s
  | .sra d a b => execSra d a b s
  | .min d a b => execMin d a b s
  | .max d a b => execMax d a b s
  | .sel d a b c => execSel d a b c s
  | .cmpeq d a b => execCmpeq d a b s
  | .cmplt d a b => execCmplt d a b s
  | .cmplo d a b => execCmplo d a b s
  | .clz d a => execClz d a s
  | .pop d a => execPop d a s
  | .addi d a i => execAddi d a i s
  | .andi d a i => execAndi d a i s
  | .ori d a i => execOri d a i s
  | .xori d a i => execXori d a i s
  | .shli d a n => execShli d a n s
  | .shri d a n => execShri d a n s
  | .srai d a n => execSrai d a n s
  | .cmpi d a k v => execCmpi d a k v s
  | .li d i => execLi d i s
  | .lih d i => execLih d i s
  | .id d s0 => execId d s0 s
  | .cyc d => execCyc d s
  | .tbase d a i => execTbase d a i s
  | .sget d n => execSget d n s
  | .sset a n => execSset a n s
  | .br o => execBr o s
  | .call d o => execCall d o s
  | .jr a => execJr a s
  | .ret a => execRet a s
  | .beq a b o => execBeq a b o s
  | .bne a b o => execBne a b o s
  | .blt a b o => execBlt a b o s
  | .bge a b o => execBge a b o s
  | .blo a b o => execBlo a b o s
  | .bhs a b o => execBhs a b o s
  | .loop a b o => execLoop a b o s
  | .loopPre a b o => execLoopPre a b o s
  | .loopp a b o => execLoopp a b o s
  | .looppPre a b o => execLooppPre a b o s
  | .lbrk a => execLbrk a s
  | .lds d a z q o => execLds d a z q o s
  | .sts v a z q o => execSts v a z q o s
  | .amo d a b c o z p => execAmo d a b c o z p s
  | .wfa k => execWfa k s
  | .gridShrink n => execGridShrink n s
  | .phPrep a n => execPhPrep a n s
  | .phAdv a n => execPhAdv a n s
  | .fmtPush a y => execFmtPush a y s
  | .kgSet n a b => execKgSet n a b s
  | .qWait q n k => execQWait q n k s
  | .qSig q aw k => execQSig q aw k s
  | .launch d a w k => execLaunch d a w k s
  | .exit x => execExit x s
  | .trap c => execTrap c s
  | .yield => execYield s
  | .hret => execHret s
  | .bar s0 => execBar s0 s
  | .fenceSc s0 => execFenceSc s0 s
  | .stepBegin => execStepBegin s
  | .stepCommit d => execStepCommit d s
  | .stepAbort => execStepAbort s
  | .ld g b o k => execLd g b o k s
  | .ldt m g b o k => execLdt m g b o k s
  | .ldg sc g b cb nr k => execLdg sc g b cb nr k s
  | .cp d s0 n w k => execCp d s0 n w k s
  | .rput m l a k => execRput m l a k s
  | .rtake d l k => execRtake d l k s
  | .ldx d s0 p w k => execLdx d s0 p w k s
  | .tlRun s0 k => execTlRun s0 k s
  | .st g b o k => execSt g b o k s
  | .stt m g b o k => execStt m g b o k s
  | .stg sc g b cb nr k => execStg sc g b cb nr k s
  | .stStr g b s0 r o k => execStStr g b s0 r o k s
  | .sttStr m g b s0 r o k => execSttStr m g b s0 r o k s
  | .mld y b k => execMld y b k s
  | .mmul z c y a n k => execMmul z c y a n k s
  | .mmulCh z c y a n k => execMmulCh z c y a n k s
  | .mmulCf f z c y n k => execMmulCf f z c y n k s
  | .mrd c g b o k => execMrd c g b o k s
  | .mclr m c y n k => execMclr m c y n k s
  | .mattn z c a n k => execMattn z c a n k s
  | .mresc c y x n k => execMresc c y x n k s
  | .msplLd b n s0 k => execMsplLd b n s0 k s
  | .msplEv j z c a n k => execMsplEv j z c a n k s
  | .msplDx j z c a d n k => execMsplDx j z c a d n k s
  | .msplGs j z w a d n k => execMsplGs j z w a d n k s
  | .msplRf j k => execMsplRf j k s
  | .msplRd n s0 b o k => execMsplRd n s0 b o k s
  | .vadd t d a b k => execVadd t d a b k s
  | .vsub t d a b k => execVsub t d a b k s
  | .vmul t d a b k => execVmul t d a b k s
  | .vfma t d a b k => execVfma t d a b k s
  | .vfnm t d a b k => execVfnm t d a b k s
  | .vmin t d a b k => execVmin t d a b k s
  | .vmax t d a b k => execVmax t d a b k s
  | .vabs t d a k => execVabs t d a k s
  | .vneg t d a k => execVneg t d a k s
  | .vdiv t d a b k => execVdiv t d a b k s
  | .vsqrt t d a k => execVsqrt t d a k s
  | .vrsqrt t d a k => execVrsqrt t d a k s
  | .vrcp t d a k => execVrcp t d a k s
  | .vexp2 t d a k => execVexp2 t d a k s
  | .vlog2 t d a k => execVlog2 t d a k s
  | .vtanh t d a k => execVtanh t d a k s
  | .vcmp t c i p a b k => execVcmp t c i p a b k s
  | .vsel d a b k => execVsel d a b k s
  | .vclamp t d a b k => execVclamp t d a b k s
  | .viadd t d a b k => execViadd t d a b k s
  | .visub t d a b k => execVisub t d a b k s
  | .vimul t d a b k => execVimul t d a b k s
  | .viand t d a b k => execViand t d a b k s
  | .vior t d a b k => execVior t d a b k s
  | .vixor t d a b k => execVixor t d a b k s
  | .vishl t d a b k => execVishl t d a b k s
  | .vishr t d a b k => execVishr t d a b k s
  | .visra t d a b k => execVisra t d a b k s
  | .vimin t d a b k => execVimin t d a b k s
  | .vimax t d a b k => execVimax t d a b k s
  | .vcvt r d a dst src k => execVcvt r d a dst src k s
  | .vmxp m d a b k => execVmxp m d a b k s
  | .vmxu m d a b k => execVmxu m d a b k s
  | .vmov d a k => execVmov d a k s
  | .vbc t d a n k => execVbc t d a n k s
  | .vperm d a b k => execVperm d a b k s
  | .vrot d a n k => execVrot d a n k s
  | .vred t d a i o k => execVred t d a i o k s
  | .vscan t d a i e o k => execVscan t d a i e o k s
  | .vhist t d a b k => execVhist t d a b k s
  | .vtop t n p a x k => execVtop t n p a x k s
  | .vsmxMerge d a b k => execVsmxMerge d a b k s
  | .vadam d a b k => execVadam d a b k s
  | .vchk t a k => execVchk t a k s
  | .vamax t d a k => execVamax t d a k s
  | .flLd sz aq d a o u => execFlLd sz aq d a o u s
  | .fam ord op z a b d u => execFam ord op z a b d u s
  | .fcollSet g b o u => execFcollSet g b o u s
  | .fred op g t b n u => execFred op g t b n u s
  | .fbar u => execFbar u s
  | .cph m d h n u => execCph m d h n u s
  | .spanOpen tag ra u => execSpanOpen tag ra u s
  | .spanApp ra rb u => execSpanApp ra rb u s
  | .spanRt mode tag ra rb u => execSpanRt mode tag ra rb u s
  | .kvWalk m g b d u => execKvWalk m g b d u s
  | .kvPlan blk nc b o u => execKvPlan blk nc b o u s
  | .kvFork m ra rb rc u => execKvFork m ra rb rc u s
  | .kvDrop ra u => execKvDrop ra u s
  | .kvHint prio ra rb rc u => execKvHint prio ra rb rc u s
  | .jobLogScan .. | .gangPlacement .. | .holdRequest .. | .holdCommit .. | .contextLoaded .. | .startTick ..
  | .preemptionRequest .. | .eviction .. | .childEnd .. | .launchAnswer .. | .lineDispatch .. | .timedIssue ..
  | .timedWritePerform .. | .ringBeatPark .. | .handlerEntry .. | .scalarAccessComplete .. | .cpComplete ..
  | .ldxComplete .. | .deadlineFault .. | .shiftGranuleWrite .. | .phAdvComplete .. | .timelineWord .. | .landingWrite ..
  | .tierLookupAnswer .. | .tierMoveComplete .. | .uncorrectableError .. | .kOperationApply .. | .fQueueIssue ..
  | .linkRetrain .. | .linkStateMessage .. | .flitReceive .. | .flitForward .. | .remoteWriteArrive ..
  | .acknowledgementArrive .. | .releasedWriteSend .. | .retransmitTimeout .. | .breakNotice .. | .remoteReadArrive ..
  | .readDataArrive .. | .remoteLoadTimeout .. | .remoteAtomicArrive .. | .atomicResultArrive .. | .fredContribution ..
  | .fredComplete .. | .fredTimeout .. | .fbarComplete .. | .cphGranule .. | .cphComplete .. | .dieLost .. | .stopMessage ..
  | .coachSave .. | .gangResume .. | .stepBeginRelease .. | .stepCommitDecision .. | .stepReissue .. | .barComplete ..
  | .fenceComplete .. | .coreExited .. | .gangDone .. | .hrevWrite .. | .gcmdResume .. | .gcmdEnd .. | .evqaRead ..
  | .hfaqRead .. | .kvpbWrite .. | .tcapWrite .. | .registerWrite .. | .powerOnReset .. | .quote .. | .readBadPageList ..
  | .retireGranules .. | .stageUpdate .. | .mailboxInvalidCommand .. | .telemetrySample .. | .paceUpdate .. | .paceWindow ..
  | .thermalLimit .. | .correctableError .. | .retrainComplete .. | .freezeRowRestore .. | .virtualFunctionReset .. => .next s

/-- The state after an instruction of a line; no instruction of the seven queues ends in anything but a next state. -/
def State.lane (s : State) (i : Instr) : State :=
  match laneExec i s with
  | .next t => t
  | _ => s

end Sys2Proof.Machine
end

