-- ==== Sys2Proof/Machine/Line.lean ====
section
/-! DEFINITION. Fetch lines: the lanes and dictionary pairs of a line, the checks of R44 to R51, the waits of R86, the dispatch of a whole line, its end (R100, R107), and the entry of the arrival handler (R167). -/

namespace Sys2Proof.Machine

/-! ## A line and its parts (R43 to R50) -/

/-- Lane k of a line of control memory, as instruction fetch sees it (R43, R173). -/
def State.laneWord (s : State) (core line k : Nat) : Cell32 :=
  BitVec.ofNat 32 (natOfBytes ((span (line * 32 + 4 * k) 4).map fun o => (s.ctl core).fetchByte s.mem core o))

/-- An instruction of a line: its lane, whether it is the second code of a pair, its queue, its first word, and what the decoder makes of
it. -/
structure Item where
  lane : Nat
  half : Bool
  q    : Queue
  w    : Cell32
  ins  : Except Reject Instr
  deriving DecidableEq

/-- What a lane or a code of a pair contributes: an instruction, or an illegal-line fault at its place. -/
inductive Part where
  | bad (lane : Nat) (half : Bool)
  | item (i : Item)
  deriving DecidableEq

/-- Whether bits 23:16 of a first word are a grid operand (R50, R61 to R64). -/
def gridFirst (q : Queue) (w : Cell32) : Bool :=
  let op := Sys2Proof.opOf w
  match q with
  | .l => op == 0x01 || op == 0x02 || op == 0x03 || op == 0x06
  | .m => op == 0x05
  | .v => decide (1 ≤ op) && decide (op ≤ 0x2E) && op != 0x11 && op != 0x2A && op != 0x2D
  | .s => decide (1 ≤ op) && decide (op ≤ 0x05)
  | _ => false

/-- Add a patch modulo 64 to the field of a word that takes it (R50). -/
def patched (q : Queue) (w : Cell32) (p : Nat) : Cell32 :=
  let lo := if gridFirst q w then 16 else 0
  let old := (w.toNat >>> lo) % 64
  BitVec.ofNat 32 (w.toNat - old * 2 ^ lo + ((old + p) % 64) * 2 ^ lo)

/-- What a code of a dictionary pair contributes (R49). -/
def codePart (c : Ctl) (lane : Nat) (half : Bool) (code : Nat) : Part :=
  let e := c.dict.get (code % 1024)
  match Queue.ofTag? (e.toNat / 2 ^ 32) with
  | none => .bad lane half
  | some q =>
    let w := patched q (BitVec.ofNat 32 e.toNat) (code / 1024 % 64)
    .item { lane := lane, half := half, q := q, w := w, ins := decode q w none }

/-- The parts of lanes given as tags and words, in dispatch order; `lane` is the lane of the first (R45, R46, R48, R49). The fuel is the
number of lanes. -/
def lineParts (c : Ctl) : Nat → Nat → List (Nat × Cell32) → List Part
  | 0, _, _ => []
  | _, _, [] => []
  | f + 1, lane, (t, w) :: rest =>
    match Queue.ofTag? t with
    | none =>
      if t = 0 then if w = 0 then lineParts c f (lane + 1) rest else .bad lane false :: lineParts c f (lane + 1) rest
      else if t = 9 then
        codePart c lane false (w.toNat % 65536) :: codePart c lane true (w.toNat / 65536) :: lineParts c f (lane + 1) rest
      else .bad lane false :: lineParts c f (lane + 1) rest
    | some q =>
      let one (k : Option Cell32) : Part := .item { lane := lane, half := false, q := q, w := w, ins := decode q w k }
      match lenClass q w, rest with
      | .short, _ => one none :: lineParts c f (lane + 1) rest
      | .long, (8, k) :: rest' => one (some k) :: lineParts c f (lane + 2) rest'
      | .both, (8, k) :: rest' => one (some k) :: lineParts c f (lane + 2) rest'
      | .long, _ => .bad lane false :: lineParts c f (lane + 1) rest
      | .both, _ => one none :: lineParts c f (lane + 1) rest

/-- The header word of a line. -/
def State.header (s : State) (core line : Nat) : Nat := (s.laneWord core line 0).toNat

/-- The parts of a line of a core. -/
def State.parts43 (s : State) (core line : Nat) : List Part :=
  let h := s.header core line
  lineParts (s.ctl core) 7 1 ((span 1 7).map fun k => ((h >>> (4 * k)) % 16, s.laneWord core line k))

/-- The instructions among parts. -/
def itemsOf : List Part → List Item
  | [] => []
  | .bad _ _ :: rest => itemsOf rest
  | .item i :: rest => i :: itemsOf rest

/-! ## Illegal lines (R44 to R49) -/

/-- Whether a C word changes the flow of control (R48). DESIGN CHOICE (log 106): a word with the opcode of a flow change counts here whatever
its other fields hold, so a line with two of them is illegal (0x01) before a field of one of them that is not valid (0x02) is looked at. -/
def isFlow (w : Cell32) : Bool :=
  let op := Sys2Proof.opOf w
  let sys := (w.toNat >>> 21) % 32
  (decide (0x10 ≤ op) && decide (op ≤ 0x1E)) || (op == 0x3F && decide (1 ≤ sys) && decide (sys ≤ 4))

/-- The first place, in dispatch order, at which a line is illegal by its lanes or by a limit of R48. `hnd` is whether the arrival handler
runs. -/
def firstIllegal (hnd : Bool) (seen : List Item) : List Part → Option (Nat × Bool)
  | [] => none
  | .bad l h :: _ => some (l, h)
  | .item i :: rest =>
    let full := decide (4 ≤ (seen.filter fun j => j.q == i.q).length)
    let two := i.q == .c && isFlow i.w && seen.any fun j => j.q == .c && isFlow j.w
    if full || two || (hnd && i.q.timed) then some (i.lane, i.half) else firstIllegal hnd (seen ++ [i]) rest

/-- Whether a line of the main stream lies in the body of the innermost level, from FIRST to LAST modulo 2048, and that level is a loopp
(R47, R99, R101; DEDUCED, log 46). -/
def Ctl.inPipeline (c : Ctl) (line : Nat) : Bool :=
  let cfg := c.sr.get (0x014 + (c.depth - 1))
  let first := fld cfg 11 11
  !c.inHandler && c.depth != 0 && flag cfg 41 && decide ((line + 2048 - first) % 2048 ≤ (fld cfg 0 11 + 2048 - first) % 2048)

/-- The bound below which a line's STAGE must lie: the stage count of the innermost level in its body when it is a loopp, else 1; 1 in
the handler (R47, R102, R167). -/
def Ctl.stageLimit (c : Ctl) (line : Nat) : Nat :=
  if c.inPipeline line then fld (c.sr.get (0x014 + (c.depth - 1))) 38 3 + 1 else 1

/-- Where a line is illegal: the header first, else the first place in dispatch order (R51, R52). -/
def State.illegalAt (s : State) (core line : Nat) (ps : List Part) : Option (Nat × Bool) :=
  let h := s.header core line
  let c := s.ctl core
  if h.testBit 3 || decide (c.stageLimit line ≤ h % 8) then some (0, false) else firstIllegal c.inHandler [] ps

/-! ## What a line waits for (R86, R88, R163, R165, R243) -/

/-- Whether the loopp stage of a line enables its engine instructions (R101). -/
def Ctl.stageOn (c : Ctl) (line stage : Nat) : Bool :=
  if c.inPipeline line then
    let k := c.depth - 1
    let iter := fld (c.sr.get (0x010 + k)) 0 32
    let lsti := c.sr.get (0x018 + k)
    decide (fld lsti 0 32 + stage ≤ iter) && decide (iter < fld lsti 32 32 + stage)
  else true

/-- The instructions of a line that its stage does not drop. -/
def Ctl.enabled (c : Ctl) (line stage : Nat) (is : List Item) : List Item :=
  is.filter fun i => i.q == .c || c.stageOn line stage

/-- Whether a queue of a core lacks room for a line's entries (R86). -/
def Eng.fullFor (x : Eng) (is : List Item) (q : Queue) : Bool :=
  let n := (is.filter fun i => i.q == q).length
  decide (0 < n) && decide ((if q.timed then 64 else 32) < (x.queue q).length + n)

/-- The arrival words that an item registers on. -/
def Item.words (i : Item) : List Nat :=
  match i.ins with
  | .ok ins => (awOf ins).toList
  | .error _ => []

/-- Whether an instruction counts among the bulk copies: a cp, a stride gather, a host copy (R163, R186, R334). -/
def countsAsCopy (i : Instr) : Bool :=
  match i with
  | .cp .. | .ldx .. | .cph .. => true
  | _ => false

/-- Whether an item counts among the bulk copies. -/
def Item.isCopy (i : Item) : Bool :=
  match i.ins with
  | .ok ins => countsAsCopy ins
  | .error _ => false

/-- Whether an item pushes a format word for an array. -/
def Item.pushes (y : Bool) (i : Item) : Bool :=
  match i.ins with
  | .ok (.fmtPush _ z) => z == y
  | _ => false

/-- Whether an array's format FIFO lacks room for a line's pushes (R243). -/
def Dat.fifoFull (d : Dat) (y : Bool) (is : List Item) : Bool :=
  let n := (is.filter (Item.pushes y)).length
  decide (0 < n) && decide (16 < (d.fifo y).length + (d.held y).length + n)

/-- The copies of a core that are enqueued and not complete (R163). -/
def Eng.copies (x : Eng) : Nat := ((x.ql ++ x.qf ++ x.ops.map (·.e)).filter fun e => countsAsCopy e.ins).length

/-- Whether a line stalls: no room in a timed queue or a format FIFO, or an arrival word that would have too many operations (R86,
R165, R243). -/
def State.stalls (s : State) (core : Nat) (is : List Item) : Bool :=
  let x := s.eng core
  let d := s.dat core
  let ws := is.flatMap Item.words
  x.fullFor is .l || x.fullFor is .m || x.fullFor is .v || x.fullFor is .s || d.fifoFull false is || d.fifoFull true is ||
    ws.any fun k => decide (2047 < fld ((s.ctl core).sr.get (0x080 + k)) 52 11 + countOf k ws)

/-- Whether a core is blocked by its next line: a full F or K queue, or too many copies (R88, R163). -/
def State.lineBlocks (s : State) (core : Nat) (is : List Item) : Bool :=
  let x := s.eng core
  let n := (is.filter Item.isCopy).length
  x.fullFor is .f || x.fullFor is .k || (decide (0 < n) && decide (512 < x.copies + n))

/-! ## Dispatch (R51, R86, R89) -/

/-- The state with an item in the focus. -/
def State.focusOn (s : State) (core line stage : Nat) (i : Item) : State :=
  { s with focus := { core := core, line := line, lane := i.lane, half := i.half, stage := stage, cur := none } }

/-- The codes that a C instruction raises with the ranks of enqueue faults (R127). -/
def ranksLate (code : Nat) : Bool := decide (0x20 ≤ code) && decide (code ≤ 0x24)

/-- The code and address of the fault that a core has raised of its own. -/
def Ctl.ownFault (c : Ctl) : Option (Nat × Word) := if c.own then some (fld (c.sr.get 0x040) 0 8, c.sr.get 0x041) else none

/-- The fault that R51 gives an item at dispatch, on the state before the line. -/
def State.itemFault (s : State) (core line stage : Nat) (i : Item) : Option (Nat × Word) :=
  match i.ins with
  | .error r => some (r.fcode, placeAt52 line i.lane i.half)
  | .ok ins =>
    if i.q == .c then
      match (((s.focusOn core line stage i).lane ins).ctl core).ownFault with
      | some (code, a) => if ranksLate code then none else some (code, a)
      | none => none
    else
      match ins with
      | .rput m _ _ _ => if m.toNat = idCore core then some (0x02, placeAt52 line i.lane i.half) else none
      | _ => none

/-- Carry out one item; an sget reads the state registers as they stood before the line (R107). -/
def State.runItem (s0 : State) (core line stage : Nat) (s : State) (i : Item) : State :=
  match i.ins with
  | .error _ => s
  | .ok ins =>
    let f := s.focusOn core line stage i
    match ins with
    | .sget d n => f.result d 1 (s0.srRead core n.toNat)
    | ins => f.lane ins

/-- Carry out the items of a line in turn, up to the first fault. A second ph.prep or ph.adv of a line is judged also on the state that the
first has left, and its fault is the line's (DESIGN CHOICE, log 91). -/
def runItems (s0 : State) (core line stage : Nat) : List Item → State → State
  | [], s => s
  | i :: rest, s => if (s.ctl core).own then s else runItems s0 core line stage rest (s0.runItem core line stage s i)

/-- Whether an item is step.begin: it acts on the state before the line (R371). -/
def Item.isStep (i : Item) : Bool :=
  match i.ins with
  | .ok .stepBegin => true
  | _ => false

/-- Write the state registers that a line has put off (R107). -/
def Ctl.applyDefer (c : Ctl) : Ctl :=
  c.defer.foldl (fun c p => c.setSr p.1 (srStore p.1 (c.sr.get p.1) p.2)) { c with defer := [] }

/-- The counts that a dispatched line moves: results, stores as fetch sees them, and accesses (R87, R173). -/
def Ctl.countDispatch (c : Ctl) (hnd : Bool) : Ctl :=
  let f := c.fst.map fun (x : FetchStore) => { x with left := x.left - 1 }
  let a := c.acc.map fun (x : Access) => if x.hnd == hnd then { x with left := x.left - 1 } else x
  let keep := f.filter fun x => x.left != 0 || a.any fun y => y.id == x.id
  Ctl.countLine { c with fst := keep, acc := a } hnd

/-- The signals of a stream come one line nearer (R118). -/
def Eng.countSigs (x : Eng) (hnd : Bool) : Eng :=
  { x with sigs := x.sigs.map fun (g : Sig) => if g.hnd == hnd then { g with left := g.left - 1 } else g }

/-- The end of a dispatched line: the registers it put off, the counts, the iteration boundary of the main stream, and the next line
(R86, R100, R107, R167). -/
def State.finishLine (s : State) (core line : Nat) (hnd : Bool) : State :=
  let s1 := match (s.ctl core).stand with
    | .exiting _ => s.discard core
    | _ => s
  let c := (s1.ctl core).applyDefer.countDispatch hnd
  let next := c.flow.getD ((line + 1) % 2048)
  let c1 : Ctl := { c with flow := none }
  let c2 : Ctl :=
    if hnd then { c1 with pc := next }
    else
      let b := boundary (s1.coach (coachOf core)).preReq line 5 c1 next
      let stand := if b.stop then .stopped else b.ctl.stand
      { b.ctl with pc := b.next, lines := (b.ctl.lines + 1) % 2 ^ 48, stand := stand, brk := false }
  ((s1.setCtl core c2).setEng core ((s1.eng core).countSigs hnd)).settleSigs core

/-- What the next line of a core comes to. -/
inductive Dispatch where
  | wait
  | fault (code : Nat) (addr : Word)
  | go (s : State)

/-- The dispatch of a core's next line: illegal lines first, then the waits, then the faults of R51, then those of enqueue, else the whole
line (R51, R86, R89). -/
def State.dispatch (s : State) (core : Nat) : Dispatch :=
  let c := s.ctl core
  let line := c.pc
  let hnd := c.inHandler
  let stage := s.header core line % 8
  let ps := s.parts43 core line
  match s.illegalAt core line ps with
  | some p => .fault 0x01 (placeAt52 line p.1 p.2)
  | none =>
    let all := itemsOf ps
    let is := c.enabled line stage all
    if s.stalls core is || s.lineBlocks core is then .wait
    else
      match all.findSome? (s.itemFault core line stage) with
      | some f => .fault f.1 f.2
      | none =>
        let t := runItems s core line stage (is.filter Item.isStep ++ is.filter fun i => !i.isStep) s
        match (t.ctl core).ownFault with
        | some f => .fault f.1 f.2
        | none => .go (t.finishLine core line hnd)

/-! ## The events -/

/-- What the stream that runs waits for (R88, R169). -/
def Ctl.streamBlocks (c : Ctl) : List Block := if c.inHandler then c.hblocks else c.blocks

/-- Whether an access of the running stream holds its next line back (R173). -/
def Ctl.accessHolds (c : Ctl) : Bool := c.acc.any fun a => a.hnd == c.inHandler && a.left == 0

/-- Whether the arrival handler is pending, by the lowest word that calls it (R167). -/
def Ctl.calling (c : Ctl) : Option Nat :=
  (List.range 64).find? fun k => (c.sr.get 0x028).getLsbD k && flag (c.sr.get (0x080 + k)) 63

/-- Whether a core's control side is live in this cycle: its coach runs, or takes its stop in this very cycle (R361, R362). -/
def State.coreLive (s : State) (core : Nat) : Bool :=
  let k := s.coach (coachOf core)
  let g := s.gangOf (coachOf core)
  (k.stand == .running || (k.stand == .stopping && g.fault.isSome && g.faultAt == s.cyc)) && (s.ctl core).stand == .running &&
    !(s.ctl core).own

/-- The dispatch of a core's next line, when the core is not blocked. -/
def State.tryDispatch (s : State) (core : Nat) : Dispatch :=
  let c := s.ctl core
  if c.streamBlocks = [] ∧ c.accessHolds = false then s.dispatch core else .wait

/-- Whether the arrival handler is pending and not running (R167). -/
def Ctl.handlerPending (c : Ctl) : Bool := !c.inHandler && c.calling.isSome

/-- LINE_DISPATCH (R86): a core dispatches its next line, or takes the precise fault the line raises; a pending arrival handler is entered
in its place (R167). -/
def execLineDispatch (core : Nat) (s : State) : Host.Outcome State Fault Refusal :=
  if s.coreLive core then
    match s.tryDispatch core with
    | .wait => .next s
    | .fault code a => .next (s.raise core code a)
    | .go t => if (s.ctl core).handlerPending then .next s else .next t
  else .next s

/-- Enter the arrival handler (R167). -/
def Ctl.enterHandler (c : Ctl) (k : Nat) : Ctl :=
  let ahv := c.sr.get 0x029
  { c.setSr 0x029 (setFld (setFld ahv 63 1 1) 16 6 k) with mainPc := c.pc, pc := fld ahv 0 11 }

/-- HANDLER_ENTRY (R167): a pending arrival handler is entered; a fault of the line that would dispatch takes precedence. -/
def execHandlerEntry (core : Nat) (s : State) : Host.Outcome State Fault Refusal :=
  let c := s.ctl core
  match c.calling with
  | none => .next s
  | some k =>
    if s.coreLive core && !c.inHandler then
      match s.tryDispatch core with
      | .fault _ _ => .next s
      | _ => .next (s.setCtl core (c.enterHandler k))
    else .next s

end Sys2Proof.Machine
end

