-- ==== Sys2Proof/Machine/Issue.lean ====
section
/-! DEFINITION. The timed domain: token counters (R92), when a head may issue (R91, R93), grid ports (R98), the bank rule (R148), the opening of a TCLK cycle with the faults it raises, issue, what issued entries do in a cycle, the freeze line (R94, R184, R389), timeline words, and the issue of the untimed queues (R294, R327). -/

namespace Sys2Proof.Machine

/-! ## When a head may issue (R91, R93) -/

/-- The timed queues in the order of R98. -/
def timedQueues : List Queue := [.l, .m, .v, .s]

/-- The head of a queue of a core. -/
def State.headOf (s : State) (core : Nat) (q : Queue) : Option Entry := ((s.eng core).queue q).head?

/-- Whether a head's turn has come: its nominal cycle in timed mode, its bound in token mode (R91, R93). The same holds for the freeze (b) of R94:
in token mode a head has reached its turn by its bound alone, whatever its counters and its distance from dispatch (DESIGN CHOICE, log
90). -/
def State.turnCome (s : State) (core : Nat) (q : Queue) (e : Entry) : Bool :=
  let t := (s.coach (coachOf core)).tclk
  if s.tokenMode core then
    match lookup? (s.eng core).lastA q.tag with
    | some (a, p) => decide (a + e.n ≤ t + p)
    | none => true
  else decide (e.n ≤ t)

/-- The operations that a timed or untimed q.wait counts: those that its queue has issued and that set an arrival word (R117). -/
def Eng.waitCount (x : Eng) (q : Queue) : Nat := (x.ops.filter fun o => o.q == q).length + (x.sigs.filter fun g => g.q == q).length

/-- The stream-write allowance of the rows of a scatter: the rows from k on that move (R156, R319). -/
def State.scatterUse (s : State) (core map sc cb n : Nat) (base mask : Word) (x : List Byte) (k : Nat) : List Nat :=
  (span k (n - k)).flatMap fun i =>
    match gatherRow ((s.ctl core).sr.get (0x030 + cb)) mask base x sc i with
    | .go a => s.walUse core map a.toNat 0 1
    | _ => []

/-- The predicate and index line of a gather or scatter as they stand now, in the form its issue keeps them. -/
def State.gatherData (s : State) (core : Nat) (k : Cont) : List Byte :=
  bytesOf 8 (predMask (s.ctl core) (predOf (some k))).toNat ++ lineBytes (readLine (s.dat core) (xgOp k))

/-- An entry as it would be in its issue cycle. -/
def State.probe (s : State) (core : Nat) (q : Queue) (e : Entry) : Run :=
  let data := match e.ins with
    | .ldg _ _ _ _ _ k | .stg _ _ _ _ _ k => s.gatherData core k
    | _ => []
  { e := e, q := q, t := (s.coach (coachOf core)).tclk, k := 0, last := 0, push := 0, wr := [], data := data, data2 := []
    tile := none, tile2 := none, src := none, snaps := [], seen := true, early := [] }

/-- The remote writes that an entry of the S queue still has to make from its cycle k on, by allowance register (R319). -/
def State.entryUse (s : State) (core : Nat) (r : Run) : List Nat :=
  let lines (l : Nat) : List Nat := s.walUse core r.e.map r.e.v0.toNat r.k l
  match r.e.ins with
  | .st .. | .stStr .. => lines 1
  | .stt m _ _ _ _ => lines (tileLines m)
  | .sttStr m _ _ _ _ _ _ => lines (tileLines m)
  | .stg sc _ _ cb nr _ =>
    if r.e.cut then [] else s.scatterUse core r.e.map sc.toNat cb.toNat (nr.toNat + 1) r.e.v0 r.mask (r.data.drop 8) r.k
  | _ => []

/-- The writes counted in an allowance register whose first acknowledgement arrives in this cycle: it counts before the issue check (R319,
R338). -/
def State.acksDue (s : State) (core k : Nat) : Nat :=
  let due := s.net.filter fun p => p.2.kind == .ack && p.2.data.isEmpty && p.2.dstCo == coachOf core && decide (p.2.due ≤ s.cyc)
  ((s.coach (coachOf core)).fab.out.filter fun w => w.core == core && w.wal == k && due.any fun p => p.2.id == w.id).length

/-- Whether a store's remote writes would exceed an allowance: OUT, and what issued entries still have to send, count (R319). -/
def State.walWaits (s : State) (core : Nat) (e : Entry) : Bool :=
  let c := s.ctl core
  let use := s.entryUse core (s.probe core .s e)
  if use.isEmpty then false
  else
    let later := (s.eng core).run.flatMap (s.entryUse core)
    (span 0 16).any fun k =>
      decide (0 < countOf k use) && decide (walLim c k + s.acksDue core k < fld (c.sr.get (0x070 + k)) 32 11 + countOf k later + countOf k use)

/-- Whether a head waits on a condition outside the timetable domain: q.wait, an exhausted allowance, a tier lookup (R91, R117, R188,
R319). -/
def State.headWaits (s : State) (core : Nat) (q : Queue) (e : Entry) : Bool :=
  match e.ins with
  | .qWait _ n _ => decide (n.toNat < (s.eng core).waitCount q)
  | .cp .. => e.lookupWaits
  | _ => q == .s && s.walWaits core e

/-- Whether the V queue is held by an issued vmxp or vmxu (R226, R227). -/
def Eng.busyV (x : Eng) : Bool :=
  x.run.any fun r =>
    match r.e.ins with
    | .vmxp m _ _ _ _ | .vmxu m _ _ _ _ => decide (1 ≤ r.k) && decide (r.k < mxLines m)
    | _ => false

/-- Whether an operand that a head needs is absent: four parked beats, a feeder, the end of a busy span (R160, R226, R252). -/
def State.absent (s : State) (core : Nat) (q : Queue) (e : Entry) : Bool :=
  match e.ins with
  | .rtake _ l _ => decide (((s.coach (coachOf core)).parked core l.toNat).length < 4)
  | .mmulCf .. => !e.part && (s.feeder core e).isNone
  | _ => q == .v && (s.eng core).busyV

/-- Whether some counter that a head pops is zero (R92). -/
def State.popsZero (s : State) (core : Nat) (q : Queue) (e : Entry) : Bool :=
  !e.part && (popsOf q e.ins).any fun i => (s.ctl core).token i == 0

/-- The CAUSE of the schedule miss of a head whose cycle takes place: 3 when its cycle has passed, then distance, counters and operands
(R91, R104). That a head which misses for several reasons records them in this order is a DESIGN CHOICE (log 103: R104 gives none). -/
def State.missCause (s : State) (core : Nat) (q : Queue) (e : Entry) : Option Nat :=
  if e.n < (s.coach (coachOf core)).tclk then some 3
  else if s.cyc < e.disp + 4 then some 0
  else if s.popsZero core q e then some 1
  else if s.absent core q e then some 2
  else none

/-- The issue layout of R104. -/
def issueFaddr (q : Nat) (cause bank cycle : Nat) : Word :=
  mkFld 61 3 q ||| mkFld 58 3 cause ||| mkFld 56 2 bank ||| mkFld 0 48 cycle

/-! ## Grid ports (R98) -/

/-- The grid lines that an issued entry reads in its current cycle (R98, R154, R156, R215, R226). -/
def State.portLines (s : State) (core : Nat) (r : Run) : List GridOp :=
  let k := r.k
  let line (l : Nat) (g : GridOp) : List GridOp := if k < l then [gridNext g k] else []
  let now (gs : List GridOp) : List GridOp := if k = 0 then gs else []
  match r.e.ins with
  | .st g _ _ _ => line 1 g
  | .stStr g _ _ _ _ _ => line 1 g
  | .stt m g _ _ _ => line (tileLines m) g
  | .sttStr m g _ _ _ _ _ => line (tileLines m) g
  | .ldg _ _ _ _ _ c => now [xgOp c]
  | .stg sc g _ cb nr c =>
    now [xgOp c] ++
      (if r.e.cut then []
       else match s.runRow core cb.toNat sc.toNat r with
         | .go _ => line (nr.toNat + 1) g
         | _ => [])
  | .rput _ _ a _ => now [a]
  | .mresc _ _ x _ _ => now [x]
  | .vadd _ _ a b _ | .vsub _ _ a b _ | .vmul _ _ a b _ | .vmin _ _ a b _ | .vmax _ _ a b _ | .vdiv _ _ a b _ => now [a, b]
  | .viadd _ _ a b _ | .visub _ _ a b _ | .vimul _ _ a b _ | .viand _ _ a b _ | .vior _ _ a b _ | .vixor _ _ a b _
  | .vishl _ _ a b _ | .vishr _ _ a b _ | .visra _ _ a b _ | .vimin _ _ a b _ | .vimax _ _ a b _ | .vhist _ _ a b _ =>
    now [a, b]
  | .vperm _ a b _ | .vsel _ a b _ => now [a, b]
  | .vcmp _ _ _ _ a b _ => now [a, b]
  | .vfma _ _ a b c | .vfnm _ _ a b c | .vclamp _ _ a b c => now [a, b, xgOp c]
  | .vsmxMerge d a b c | .vadam d a b c => now [d, a, b, xgOp c]
  | .vabs _ _ a _ | .vneg _ _ a _ | .vsqrt _ _ a _ | .vrsqrt _ _ a _ | .vrcp _ _ a _ | .vexp2 _ _ a _ | .vlog2 _ _ a _
  | .vtanh _ _ a _ | .vmov _ a _ | .vbc _ _ a _ _ | .vrot _ a _ _ | .vred _ _ a _ _ _ | .vscan _ _ a _ _ _ _
  | .vcvt _ _ a _ _ _ => now [a]
  | .vamax _ d a _ => now [d, a]
  | .vtop _ _ _ a _ _ => now [a]
  | .vchk _ a _ => now [a]
  | .vmxp m _ a _ _ => line (mxLines m) a
  | .vmxu _ _ a b _ => now [a, b]
  | _ => []

/-- The banks that a read of a line takes a port of (R98). -/
def portBanks (g : GridOp) : List Nat := if g.dir = .h then [g.idx.toNat % 4] else [0, 1, 2, 3]

/-- The port reads of entries in flight and of entries that would issue, on one core. -/
def State.portLoad (s : State) (core : Nat) (due : List (Queue × Entry)) : List Nat :=
  (((s.eng core).run ++ due.map fun p => s.probe core p.1 p.2).flatMap (s.portLines core)).flatMap portBanks

/-- The lowest bank that needs more than its two ports (R98). -/
def overBank (l : List Nat) : Option Nat := (List.range 4).find? fun b => decide (2 < countOf b l)

/-! ## The bank rule (R148) -/

/-- Accesses of one entry, or of a landing, in a TCLK cycle: the core, the lane tag (0 for a landing), the identity of the entry, and the
units. -/
structure BankAcc where
  core  : Nat
  tag   : Nat
  id    : Nat
  units : List Nat
  deriving DecidableEq, Repr

/-- The stretches of an A stream that are read in cycle k (R247). -/
def streamSpans (a sc t n : Nat) (c : Nat × Nat) (mx : Bool) (k : Nat) : List (Nat × Nat) :=
  let u := streamUnits t n c k
  (if u.2 = 0 then [] else [(a + 64 * u.1, 64 * u.2)]) ++
    (if mx then (scaleUnits n c k).map fun v => (sc + 64 * v, Nat.min 64 (2 * n - 64 * v)) else [])

/-- The stretches of context addresses that an issued entry reads from its blocks in its current cycle (R154, R156, R247, R250, R270,
R271). -/
def State.readSpans (s : State) (core : Nat) (r : Run) : List (Nat × Nat) :=
  let e := r.e
  let k := r.k
  let a := e.v0.toNat
  let w := nthD 0 e.cap 0
  match e.ins with
  | .ld .. => if k < 1 then [(a, 256)] else []
  | .ldt m _ _ _ _ => if k < tileLines m then [(a + 256 * k, 256)] else []
  | .ldg sc _ _ cb nr _ =>
    if e.cut = true ∨ nr.toNat < k then []
    else match s.runRow core cb.toNat sc.toNat r with
      | .go x => [(x.toNat, 256)]
      | _ => []
  | .mld .. =>
    let t := fwB w
    if k < rowBytes t / 2 then [(a + 128 * k, 128)]
    else if k = rowBytes t / 2 ∧ isMx t = true then [(e.v1.toNat, 128)]
    else []
  | .mmul .. | .mmulCh .. => streamSpans a e.v1.toNat (fwA w) e.rem (cadence (fwA w)) (isMx (fwA w)) k
  | .mattn .. => streamSpans a e.v1.toNat (fwA w) e.rem (attnShape e).2.2 (isMx (fwA w)) k
  | .msplEv .. => streamSpans a 0 (fwA e.spl.w) e.rem (splCadence e) false k
  | .msplDx .. | .msplGs .. =>
    streamSpans a 0 (fwA e.spl.w) e.rem (splCadence e) false k ++
      streamSpans e.v1.toNat 0 (fwA e.spl.w) e.rem (splCadence e) false k
  | .msplLd _ n _ _ => if k < 64 * (n.toNat + 1) then [(a + 128 * k, 128)] else []
  | _ => []

/-- The units that an issued entry reads and writes in its current cycle. -/
def State.runUnits (s : State) (core : Nat) (r : Run) : List Nat :=
  ((s.readSpans core r).flatMap fun p => s.ctxUnits (coachOf core) r.e.map r.e.ver p.1 p.2) ++
    (r.wr.flatMap fun w =>
      match w with
      | (t, .mem _ us) => if t = r.k then us else []
      | _ => [])

/-- Whether accesses to the banks of a block break the rule (R148). -/
def banksBad (l : List Nat) : Bool := decide (4 < l.length) || (List.range 16).any fun i => decide (2 ≤ countOf i l)

/-- Whether units may be accessed in one cycle (R148). -/
def unitsOk (us : List Nat) : Bool := (List.range 16).all fun b => !banksBad ((us.filter fun u => u / 32768 == b).map (· % 16))

/-- The longest prefix of units that goes into one cycle after some others (R148). -/
def unitsFit (acc : List Nat) : List Nat → List Nat
  | [] => acc
  | u :: rest => if unitsOk (acc ++ [u]) then unitsFit (acc ++ [u]) rest else acc

/-- The units of an issued entry's current cycle that it has still to access (R148). -/
def State.unitsLeft (s : State) (core : Nat) (r : Run) : List Nat := (s.runUnits core r).drop (r.early.length / 64)

/-- The units that an issued entry accesses in the TCLK cycle, if nothing defers it: in token mode no more than go together (R148). -/
def State.unitsNow (s : State) (core : Nat) (r : Run) : List Nat :=
  if s.tokenMode core then unitsFit [] (s.unitsLeft core r) else s.unitsLeft core r

/-- The counted accesses of a core in the cycle, in the order L, M, S: those of issued entries, and of entries that would issue. -/
def State.coreAccs (s : State) (core : Nat) (due : List (Queue × Entry)) : List BankAcc :=
  let runs := (s.eng core).run ++ due.map fun p => s.probe core p.1 p.2
  let of (q : Queue) : List BankAcc :=
    (runs.filter fun r => r.q == q).map fun r => { core := core, tag := q.tag, id := r.e.id, units := s.unitsNow core r }
  (of .l ++ of .m ++ of .s).filter fun a => !a.units.isEmpty

/-- The landings of a coach in the cycle: a unit written by a RD of 96 cycles before, a unit read by a WR (R179). -/
def State.landAccs (s : State) (coach : Nat) : List BankAcc :=
  let k := s.coach coach
  (k.tl.land.filter fun l => l.1 == k.tclk).map fun l => { core := l.2.1, tag := 0, id := 0, units := [l.2.2.1 / 64] }

/-- The banks of a block that accesses touch, one for each access: block by carriage * 8 + block (R145). -/
def blockBanks (accs : List BankAcc) (b : Nat) : List Nat :=
  accs.flatMap fun a => (a.units.filter fun u => u / 32768 == b).map (· % 16)

/-- The first block that breaks the rule among those that some access of a list touches. -/
def badBlock (accs mine : List BankAcc) : Option Nat :=
  (List.range 16).find? fun b => banksBad (blockBanks accs b) && !(blockBanks mine b).isEmpty

/-- FADDR of a bank conflict of a core (R174). -/
def bankFaddr (accs mine : List BankAcc) (b cycle : Nat) : Word :=
  let l := blockBanks accs b
  let bank := ((List.range 16).find? fun i => decide (2 ≤ countOf i l)).getD (l.foldl Nat.max 0)
  let tag := ((mine.filter fun a => a.tag != 0 && !(blockBanks [a] b).isEmpty).map (·.tag)).headD 0
  mkFld 61 3 tag ||| mkFld 57 4 bank ||| mkFld 54 3 (b % 8) ||| mkFld 53 1 (b / 8) ||| mkFld 0 48 cycle

/-- Whether an access touches a block. -/
def BankAcc.touches (a : BankAcc) (b : Nat) : Bool := !(blockBanks [a] b).isEmpty

/-- The accesses of entries that take part in a conflict in a block: those on a bank with two accesses, or else, with more than four in the
block, all of them. A landing is never deferred (R148). -/
def clashing (accs : List BankAcc) (b : Nat) : List BankAcc :=
  let l := blockBanks accs b
  let mine := accs.filter fun a => a.tag != 0 && a.touches b
  let onBank := mine.filter fun a => (blockBanks [a] b).any fun i => decide (2 ≤ countOf i l)
  if onBank.isEmpty then (if 4 < l.length then mine else []) else onBank

/-- The entries whose accesses token mode defers in the cycle: while a block has a conflict with an entry's access in it, the access of the
highest core, and on it of the last queue, among those in conflict is deferred (R148). The fuel is the number of accesses. -/
def deferrals : Nat → List BankAcc → List Nat
  | 0, _ => []
  | f + 1, accs =>
    match ((List.range 16).flatMap fun b => (clashing accs b).getLast?.toList).head? with
    | none => []
    | some a => a.id :: deferrals f (accs.filter fun x => !(x.id == a.id && x.tag == a.tag))

/-! ## Rows of gathers and scatters (R138, R156) -/

/-- The fault of the row that an issued gather or scatter comes to in its current cycle. -/
def State.gatherFault (s : State) (core : Nat) (r : Run) : Option (Nat × Nat) :=
  let row (sc cb n : Nat) (store : Bool) : Option (Nat × Nat) :=
    if r.e.cut = true ∨ n ≤ r.k then none
    else
      match s.runRow core cb sc r with
      | .go a => s.rowFault core r.e.map store a
      | _ => none
  match r.e.ins with
  | .ldg sc _ _ cb nr _ => row sc.toNat cb.toNat (nr.toNat + 1) false
  | .stg sc _ _ cb nr _ => row sc.toNat cb.toNat (nr.toNat + 1) true
  | _ => none

/-- Stop an issued gather or scatter at its failing row: what it has already read is still written, it pushes no token, and it is saved at
the head of its queue with PART 1 (R138). -/
def State.cutGathers (s : State) (core : Nat) : State :=
  let x := s.eng core
  let bad (r : Run) : Bool := (s.gatherFault core r).isSome
  let last (r : Run) : Nat := (r.wr.map (·.1)).foldl Nat.max r.k
  let back (q : Queue) : List Entry := (x.run.filter fun r => r.q == q && bad r).map fun r => { r.e with part := true }
  let run := x.run.map fun r => if bad r then { r with e := { r.e with cut := true }, last := last r, push := last r + 1 } else r
  s.setEng core { x with run := run, ql := back .l ++ x.ql, qs := back .s ++ x.qs }

/-! ## The faults of a TCLK cycle -/

/-- A coach whose timed queues issue (R361). -/
def Coach.issues (k : Coach) : Bool := k.stand == .running || k.stand == .stopping

/-- The heads of a core whose turn has come, in queue order. -/
def State.turnHeads (s : State) (core : Nat) : List (Queue × Entry) :=
  timedQueues.filterMap fun q =>
    match s.headOf core q with
    | some e => if s.turnCome core q e then some (q, e) else none
    | none => none

/-- The longest prefix of entries, in queue order, that the ports of a core can serve; `l` holds the banks already read, and the first
entry always goes with no more than its own reads (R93, R98). -/
def portFit (s : State) (core : Nat) (l : List Nat) : List (Queue × Entry) → List (Queue × Entry)
  | [] => []
  | p :: rest =>
    let l1 := l ++ (s.portLines core (s.probe core p.1 p.2)).flatMap portBanks
    if (overBank l1).isSome then [] else p :: portFit s core l1 rest

/-- The entries of a core that issue in the cycle, if no fault arises (R91, R93). -/
def State.dueOf (s : State) (core : Nat) : List (Queue × Entry) :=
  let heads := s.turnHeads core
  if s.tokenMode core then
    let ok (p : Queue × Entry) : Bool :=
      decide (p.2.disp + 4 ≤ s.cyc) && !s.popsZero core p.1 p.2 && !s.absent core p.1 p.2 && !s.headWaits core p.1 p.2 &&
        (p.1 != .m || ((s.eng core).arrayBusy p.2).isNone)
    portFit s core (s.portLoad core []) (heads.filter ok)
  else heads

/-- The schedule miss of a core: of the first queue that has one (R91, R104). -/
def State.missFault (s : State) (core : Nat) (due : List (Queue × Entry)) : Option (Nat × Word) :=
  due.findSome? fun p =>
    (s.missCause core p.1 p.2).map fun c => (0x11, issueFaddr p.1.tag c 0 (s.coach (coachOf core)).tclk)

/-- The port overrun of a core (R98, R104). When only later reads of entries that issued before overrun, no queue is due and QUEUE is 0 (DESIGN CHOICE,
log 51). -/
def State.portFault (s : State) (core : Nat) (due : List (Queue × Entry)) : Option (Nat × Word) :=
  (overBank (s.portLoad core due)).map fun b =>
    let last := (due.map fun p => p.1.tag).foldl Nat.max 0
    (0x12, issueFaddr last 0 b (s.coach (coachOf core)).tclk)

/-- The array-busy fault of a core (R249, R261). -/
def State.busyFault (s : State) (core : Nat) (due : List (Queue × Entry)) : Option (Nat × Word) :=
  due.findSome? fun p =>
    if p.1 = .m then ((s.eng core).arrayBusy p.2).map fun c => (0x52, issueFaddr 3 c 0 (s.coach (coachOf core)).tclk) else none

/-- The lanes whose park buffers a core empties of four beats in the cycle. -/
def takesOn (due : List (Queue × Entry)) : List Nat :=
  due.filterMap fun p => match p.2.ins with
    | .rtake _ l _ => some l.toNat
    | _ => none

/-- The ring fault of a core: a beat of its rput that meets a beat, in timed mode, or a beat that meets its full park buffer (R158,
R159). -/
def State.ringFault (s : State) (core : Nat) (due : List (Queue × Entry)) : Option (Nat × Word) :=
  let coach := coachOf core
  let k := s.coach coach
  let moved := moveBeats k.beats
  let full := (arrived moved).any fun b =>
    beatCore coach b == core &&
      decide (4 ≤ (k.parked core b.lane).length - (if (takesOn due).contains b.lane then 4 else 0))
  let beats := enteringBeats (s.eng core)
  let k1 : Coach := { k with beats := moved.filter fun b => b.pos != b.target }
  let x1 := (enterBeats core beats k1 (s.eng core)).2
  let stuck := x1.run.any fun r => beats.any fun b => b.1 == r.e.id && decide ((4 - r.k) * 64 < r.data.length)
  if stuck && !s.tokenMode core then some (0x32, issueFaddr 2 0 0 k.tclk)
  else if full then some (0x32, issueFaddr 2 1 0 k.tclk)
  else none

/-- The timeline fault that a tl.run raises at its issue: a segment that runs, also one started by a lower core in this cycle, or a word
that would act in the handover at once (R181, R192). -/
def State.runFault (s : State) (core : Nat) (due : List (Queue × Entry)) (taken : Bool) : Option (Nat × Word) :=
  let k := s.coach (coachOf core)
  due.findSome? fun p =>
    match p.2.ins with
    | .tlRun seg _ =>
      if k.segmentBusy || taken then some (0x40, tlFaddr 1 0 0 k.tclk)
      else
        let base := (s.tlWord (coachOf core) (1 + seg.toNat)).toNat
        (s.earlyWord (coachOf core) 1024 base 0).map fun i => (0x40, tlFaddr i.1 i.2.1 i.2.2 k.tclk)
    | _ => none

/-- The row fault of a core: of the first issued or issuing gather that has one (R138). -/
def State.rowsFault (s : State) (core : Nat) (due : List (Queue × Entry)) : Option (Nat × Word) :=
  ((s.eng core).run ++ due.map fun p => s.probe core p.1 p.2).findSome? fun r =>
    (s.gatherFault core r).map fun f => (f.1, r.e.place ||| mkFld 0 48 f.2)

/-- Whether a list of entries holds a tl.run. -/
def startsSegment (due : List (Queue × Entry)) : Bool :=
  due.any fun p => match p.2.ins with
    | .tlRun .. => true
    | _ => false

/-- The first of two results. -/
def orElse {α : Type} (a b : Option α) : Option α :=
  match a with
  | some x => some x
  | none => b

/-- The fault that a core raises in a TCLK cycle, in the order of the rules; a draining coach has no entries due (R361). `accs` are all
accesses of the coach in the cycle, `taken` whether a lower core starts a segment. -/
def State.cycleFault (s : State) (core : Nat) (live : Bool) (due : List (Queue × Entry)) (accs : List BankAcc) (taken : Bool) :
    Option (Nat × Word) :=
  let timed := !s.tokenMode core
  let mine := accs.filter fun a => a.core == core
  let bank := if timed then (badBlock accs mine).map fun b => (0x31, bankFaddr accs mine b (s.coach (coachOf core)).tclk) else none
  let early := if timed && live then orElse (s.missFault core due) (s.portFault core due) else none
  let busy := if timed then s.busyFault core due else none
  orElse early (orElse bank (orElse busy (orElse (s.ringFault core due)
    (orElse (s.runFault core due taken) (s.rowsFault core due)))))

/-- The faults of a coach's TCLK cycle, lowest core first. `dues` are the entries due on each core. -/
def State.cycleFaults (s : State) (live : Bool) (accs : List BankAcc) :
    Bool → List (Nat × List (Queue × Entry)) → List (Nat × Nat × Word)
  | _, [] => []
  | taken, (core, due) :: rest =>
    let more := s.cycleFaults live accs (taken || startsSegment due) rest
    match s.cycleFault core live due accs taken with
    | some f => (core, f.1, f.2) :: more
    | none => more

/-! ## Opening a TCLK cycle -/

/-- Whether a head of a coach came to wait in this very cycle: the cycle does not take place (R91, R94). -/
def State.lateHold (s : State) (coach : Nat) : Bool :=
  (s.coach coach).issues && (coresOf coach).any fun c => (s.turnHeads c).any fun p => s.headWaits c p.1 p.2 && !s.tokenMode c

/-- Whether the TCLK cycle of a coach takes place in this core clock cycle (R5, R94, R361). -/
def State.takesPlace (s : State) (coach : Nat) : Bool :=
  let k := s.coach coach
  (k.issues || k.stand == .draining) && !k.frozen && (k.opened == some s.cyc || !s.lateHold coach)

/-- The entries due on each core of a coach; none while it drains. -/
def State.duesOf (s : State) (coach : Nat) : List (Nat × List (Queue × Entry)) :=
  (coresOf coach).map fun c => (c, if (s.coach coach).issues then s.dueOf c else [])

/-- The due gathers and scatters of a core whose first row fails: they have issued in part, so they pop their counters and stay at the head
of their queue with PART 1 (R138, R360). -/
def State.cutDue (s : State) (core : Nat) (due : List (Queue × Entry)) : State :=
  due.foldl (fun s p =>
    if (s.gatherFault core (s.probe core p.1 p.2)).isSome then
      let x := s.eng core
      (s.setEng core (x.setQueue p.1 ({ p.2 with part := true } :: (x.queue p.1).drop 1))).setCtl core
        ((s.ctl core).pops (popsOf p.1 p.2.ins))
    else s) s

/-- What the entries due on a core leave when the core's fault of the cycle is that of a row (R138). -/
def State.cutFailed (s : State) (core : Nat) (due : List (Queue × Entry)) (fs : List (Nat × Nat × Word)) : State :=
  if fs.any fun f => f.1 == core && (s.rowsFault core due == some f.2) then s.cutDue core due else s

/-- Open the TCLK cycle of a coach: the entries that issue in it are fixed, or its faults are raised, and the cycle is the coach's stop
cycle (R91, R98, R148, R361). -/
def State.openCycle (s : State) (coach : Nat) : State :=
  let k := s.coach coach
  if k.opened = some s.cyc then s
  else
    let live := k.issues
    let dues := s.duesOf coach
    let accs := dues.flatMap (fun d => s.coreAccs d.1 d.2) ++ s.landAccs coach
    match s.cycleFaults live accs false dues with
    | [] =>
      let due := (dues.flatMap fun d => d.2.map fun p => d.1 * 8 + p.1.tag) ++ if live then [] else s.drainDues coach
      s.setCoach coach { k with opened := some s.cyc, due := due }
    | fs =>
      let s1 := s.setCoach coach { k with opened := some s.cyc, due := if live then [] else s.drainDues coach }
      let s2 := dues.foldl (fun s d => s.cutFailed d.1 d.2 fs) s1
      let s3 := (coresOf coach).foldl (fun s c => s.cutGathers c) (fs.foldl (fun s f => s.raise f.1 f.2.1 f.2.2) s2)
      if live then s3.beginDrain coach else s3

/-! ## Issue -/

/-- An entry that has issued and writes nothing in the timetable: it completes in its issue cycle (R92). -/
def State.bareRun (s : State) (core : Nat) (q : Queue) (e : Entry) : State :=
  let x := s.eng core
  if x.run.any fun r => r.e.id == e.id && r.k == 0 then s
  else s.setEng core { x with run := x.run ++ [s.probe core q e] }

/-- The state with an entry in the focus. -/
def State.focusEntry (s : State) (core : Nat) (e : Entry) : State :=
  { s with focus := { core := core, line := fld e.place 53 11, lane := fld e.place 50 3, half := flag e.place 49, stage := 0,
                      cur := some e } }

/-- Carry out an entry that has left its queue. -/
def State.carryOut (s : State) (core : Nat) (e : Entry) : State :=
  let t := (s.focusEntry core e).lane e.ins
  { t with focus := { t.focus with cur := none } }

/-- Issue the head of a timed queue: it pops its counters and starts (R91, R92, R93). -/
def State.issueHead (s : State) (core : Nat) (q : Queue) : State :=
  let x := s.eng core
  match x.queue q with
  | [] => s
  | e :: rest =>
    let k := s.coach (coachOf core)
    let c := s.ctl core
    let c1 := if e.part then c else c.pops (popsOf q e.ins)
    let x1 := x.setQueue q rest
    let x2 : Eng := if s.tokenMode core then { x1 with lastA := putKey x1.lastA q.tag (k.tclk, e.n) } else x1
    let k1 : Coach := { k with due := k.due.filter fun d => d != core * 8 + q.tag }
    (((s.setCoach (coachOf core) k1).setCtl core c1).setEng core x2 |>.carryOut core e).bareRun core q e

/-- TIMED_ISSUE (R91, R93): the head of a timed queue issues in the TCLK cycle that takes place. -/
def execTimedIssue (core : Nat) (q : Queue) (s : State) : Host.Outcome State Fault Refusal :=
  let kc := coachOf core
  if s.takesPlace kc then
    let t := s.openCycle kc
    if (t.coach kc).due.contains (core * 8 + q.tag) then .next (t.issueHead core q) else .next s
  else .next s

/-- RING_BEAT_PARK (R158): the ring lanes of a coach move in a TCLK cycle that takes place; nothing while its freeze line is asserted. -/
def execRingBeatPark (coach : Nat) (s : State) : Host.Outcome State Fault Refusal :=
  if s.takesPlace coach then
    let t := s.openCycle coach
    if (t.coach coach).due = [] then .next (t.ringCycle coach) else .next s
  else .next s

/-! ## What issued entries do in a cycle -/

/-- What an issued entry reads in its current cycle, and the writes it leads to. -/
def State.runRead (s : State) (core : Nat) (r : Run) : Run :=
  let w := nthD 0 r.e.cap 0
  let stream : Run := s.streamRead core (fwA w) r.e.rem (cadence (fwA w)) (isMx (fwA w)) r
  match r.e.ins with
  | .ld g _ _ _ => s.ldRow core 1 g r
  | .ldt m g _ _ _ => s.ldRow core (tileLines m) g r
  | .st g _ _ _ => s.stRow core 1 g 0 false r
  | .stt m g _ _ _ => s.stRow core (tileLines m) g 0 false r
  | .stStr g _ t rel _ _ => s.stRow core 1 g t.toNat rel r
  | .sttStr m g _ t rel _ _ => s.stRow core (tileLines m) g t.toNat rel r
  | .ldg sc g _ cb nr _ => if r.e.cut then r else s.ldgRow core sc.toNat g cb.toNat (nr.toNat + 1) r
  | .stg sc g _ cb nr _ => if r.e.cut then r else s.stgRow core sc.toNat g cb.toNat (nr.toNat + 1) r
  | .mld y _ _ => s.mldRow core y r
  | .mmul .. => stream
  | .mmulCh .. => stream
  | .mmulCf .. => s.followRead r
  | .mattn .. => s.attnRead core r
  | .mrd _ g _ _ _ => s.mrdRead core (GridOp.ofBits g) r
  | .msplEv .. => s.splRead core r
  | .msplDx .. => s.splRead core r
  | .msplGs .. => s.splRead core r
  | .msplLd _ n s0 _ => s.splLoad core (n.toNat + 1) s0.toNat r
  | .msplRd n _ _ _ _ => s.splStore core (n.toNat + 1) r
  | .vmxp m d a b _ => mxpWrites m d b (mxpRead (s.dat core) m a r)
  | _ => r

/-- An entry that token mode defers in its issue cycle has made none of its accesses: it keeps the predicate and index line it holds from
its issue (R148). -/
def Run.unread (r : Run) : Run :=
  if r.k = 0 then
    let data := match r.e.ins with
      | .ldg .. | .stg .. => r.data
      | .ld .. | .ldt .. | .mattn .. => r.data.take 8
      | _ => []
    { r with wr := [], data := data, data2 := [], snaps := [], seen := false }
  else { r with seen := false }

/-- The entries of a coach whose accesses are deferred in the cycle (R148). -/
def State.deferred (s : State) (coach : Nat) : List Nat :=
  if s.tokenMode (coach * 16) then
    let accs := s.landAccs coach ++ (coresOf coach).flatMap fun c => s.coreAccs c []
    deferrals accs.length accs
  else []

/-- Whether token mode lets an issued entry make only some of its accesses of the cycle, since its own do not go together (R148). -/
def State.splits (s : State) (core : Nat) (r : Run) : Bool := decide ((s.unitsNow core r).length < (s.unitsLeft core r).length)

/-- The issued entries of a coach that make only some of their accesses in the cycle (R148). -/
def State.halves (s : State) (coach : Nat) (late : List Nat) : List Nat :=
  (coresOf coach).flatMap fun c => ((s.eng c).run.filter fun r => !late.contains r.e.id && s.splits c r).map (·.e.id)

/-- An issued entry makes those accesses that go together; the others, and all that follows, come later (R148). -/
def State.readSome (s : State) (core : Nat) (r : Run) : Run :=
  let cells := (s.unitsNow core r).flatMap fun u =>
    let k := (Loc.sram (coachOf core) (u * 64)).key
    cellsAt k (s.mem.read k 64)
  { r.unread with early := r.early ++ cells }

/-- An issued entry makes the rest of its accesses of the cycle; what it has accessed before stays as it stood then (R148). -/
def State.readRest (s : State) (core : Nat) (r : Run) : Run :=
  { ({ s with mem := s.mem.writeCells r.early } : State).runRead core r with seen := true, early := [] }

/-- The issued entries of a core in the cycle, after their reads. -/
def State.readRuns (s : State) (late halves : List Nat) (core : Nat) : List Run :=
  (s.eng core).run.map fun r =>
    if late.contains r.e.id then r.unread
    else if halves.contains r.e.id then s.readSome core r
    else if r.seen then r else s.readRest core r

/-- The effects of an issued entry that perform in its current cycle. -/
def Run.now (r : Run) : List WEff := r.wr.filterMap fun w => if w.1 = r.k then some w.2 else none

/-- The grid writes of runs. -/
def gridWrites (runs : List Run) : List (Nat × Cell32) :=
  runs.flatMap fun r => r.now.flatMap fun w => match w with
    | .grid cs => cs
    | _ => []

/-- Runs in the order in which their writes to the grid apply: L, M, V (R215). -/
def byQueue (runs : List Run) : List Run :=
  (runs.filter fun r => r.q == .l) ++ (runs.filter fun r => r.q == .m) ++ (runs.filter fun r => r.q == .v) ++
    runs.filter fun r => r.q == .s

/-- The tiles and coefficients that runs write (R250, R268). -/
def Dat.storeEff (d : Dat) (w : WEff) : Dat :=
  match w with
  | .tile arr t => { d with tiles := setNth d.tiles (2 * arr + 1) t }
  | .coef cs => { d with coef := d.coef.puts cs }
  | _ => d

/-- The data side of a core after a cycle, with the runs that the softmax stage has led on: the writes to plane rows, rmx and rsm in the
order of R258 and R277; a clear of the cycle comes before what an accumulate reads (R263). -/
def datCycle (start : Dat) (runs : List Run) : Dat × List Run :=
  let d0 : Dat := { start with grid := start.grid.puts (gridWrites (byQueue runs)) }
  let d1 := runs.foldl mclrRun d0
  let d2 := runs.foldl mrdClear d1
  let d3 := runs.foldl (accumRun d2) d2
  let d4 := runs.foldl (trailRun d2) d3
  let p := runs.foldl (fun (x : Dat × List Run) r =>
    let y := softRun d2 x.1 r
    (y.1, x.2 ++ [y.2])) (d4, [])
  let d5 := p.2.foldl (rescRun d2) p.1
  let d6 := p.2.foldl (splineRun start) d5
  (p.2.foldl (fun d r => r.now.foldl Dat.storeEff d) d6, p.2)

/-- The registers that an effect writes: predicates, bitmaps, amax registers (R157, R222, R259). -/
def Ctl.regEff (c : Ctl) (w : WEff) : Ctl :=
  match w with
  | .pred p mask val =>
    let old := c.sr.get (0x0C8 + p)
    c.setSr (0x0C8 + p) ((old &&& ~~~mask) ||| (val &&& mask))
  | .cb k i => c.setSr (0x030 + k) (c.sr.get (0x030 + k) ||| mkFld i 1 1)
  | .amax r v init =>
    let old := fld (c.sr.get (0x038 + r)) 0 32
    let new := if init then v.toNat else fp32.round .rne (Val.fmax (fp32.decode old) (fp32.decode v.toNat))
    c.setSr (0x038 + r) (BitVec.ofNat 64 new)
  | _ => c

/-- Whether some effect sets the step flag NF (R235, R236). -/
def setsNf (runs : List Run) : Bool := runs.any fun r => r.now.any fun w => w == .nf

/-- An effect outside the core: bytes of SRAM, and remote writes (R149, R318). -/
def State.outEff (core : Nat) (r : Run) (s : State) (w : WEff) : State :=
  match w with
  | .mem cells _ => s.storeCells (coachOf core) core r.e.map cells
  | .post a m data stream rel => s.postPiece r core a m data stream rel
  | _ => s

/-- Whether an issued entry stays where it is: a token-mode put that waits for a free lane position (R159). -/
def Run.held (r : Run) : Bool :=
  match r.e.ins with
  | .rput .. => decide (1 ≤ r.k) && decide ((4 - r.k) * 64 < r.data.length)
  | _ => false

/-- The token pushes that take effect with the cycle (R92). -/
def duePushes (late : List Nat) (runs : List Run) : List Nat :=
  runs.flatMap fun r => if r.k = r.push ∧ late.contains r.e.id = false ∧ r.held = false ∧ r.e.cut = false then pushesOf r.q r.e.ins else []

/-- The issued entries after the cycle. -/
def nextRuns (late : List Nat) (runs : List Run) : List Run :=
  (runs.map fun r => if late.contains r.e.id || r.held then r else { r with k := r.k + 1, seen := false }).filter fun r =>
    decide (r.k ≤ r.last)

/-- The cycle of one core: registers, data and bytes; `runs` have made their reads (R148, R149, R215, R258). -/
def State.coreCycle (late : List Nat) (s : State) (core : Nat) (runs : List Run) : State :=
  let act := runs.filter fun r => !late.contains r.e.id
  let p := datCycle (s.dat core) act
  let c := (byQueue act).foldl (fun c r => r.now.foldl Ctl.regEff c) (s.ctl core)
  let c1 := c.pushes (duePushes late runs)
  let kept := runs.map fun r => (p.2.find? fun x => x.e.id == r.e.id && x.k == r.k).getD r
  let s1 := ((s.setCtl core c1).setDat core p.1).setEng core { s.eng core with run := nextRuns late kept }
  let kc := coachOf core
  let s2 := if setsNf act then s1.setCoach kc { s1.coach kc with stepf := (s1.coach kc).stepf ||| 1 } else s1
  (byQueue act).foldl (fun s r => r.now.foldl (State.outEff core r) s) s2

/-- What follows the end of runs on a core: signals and shrinks (R118, R152). -/
def State.settleCore (s : State) (core : Nat) : State :=
  let t := s.settleSigs core
  t.setCore core (t.core core).settleShrinks

/-- TIMED_WRITE_PERFORM (R95, R148, R154, R215): the issued entries of a coach make the reads and perform the writes of the TCLK cycle,
their token pushes take effect, and the cycle ends. -/
def State.performCycle (s : State) (coach : Nat) : State :=
  let late := s.deferred coach
  let halves := s.halves coach late
  let all := (coresOf coach).map fun c => (c, s.readRuns late halves c)
  let s1 := all.foldl (fun t p => if p.2.isEmpty then t else t.coreCycle (late ++ halves) p.1 p.2) s
  let k := s1.coach coach
  let s2 := s1.setCoach coach { k with tclk := k.tclk + 1 }
  all.foldl (fun t p => if p.2.isEmpty then t else t.settleCore p.1) s2

/-- TIMED_WRITE_PERFORM (R95): the TCLK cycle of a coach takes place, once every due entry has issued. -/
def execTimedWritePerform (coach : Nat) (s : State) : Host.Outcome State Fault Refusal :=
  if s.takesPlace coach then
    let t := s.openCycle coach
    if (t.coach coach).due = [] then .next (t.performCycle coach) else .next s
  else .next s

/-! ## Timeline words (R177 to R181) -/

/-- Whether a word of the running segment acts in the TCLK cycle. -/
def State.wordDue (s : State) (coach : Nat) : Bool :=
  let k := s.coach coach
  k.issues && !k.frozen && k.tl.running && decide (k.tl.at_ ≤ k.tclk) && (k.opened == some s.cyc || !s.lateHold coach)

/-- A timeline fault: the segment stops, and the cycle is the coach's stop cycle (R181, R192, R361). -/
def State.tlFault (s : State) (coach : Nat) (c : Nat × Nat) : State :=
  let k := s.coach coach
  let a := tlFaddr c.1 c.2 k.tl.word k.tclk
  (((s.setCoach coach (k.stopSegment s.cyc)).raise k.tl.core 0x40 a).beginDrain coach)

/-- TIMELINE_WORD (R177, R180, R181): the next word of the running segment acts, or raises the fault of the rule it breaks. -/
def execTimelineWord (coach : Nat) (s : State) : Host.Outcome State Fault Refusal :=
  if s.wordDue coach then
    let k := s.coach coach
    let x := s.tlWord coach (k.tl.base + k.tl.word)
    match k.tl.cause x k.tl.at_ (s.poolByte coach) with
    | some c => .next (s.tlFault coach c)
    | none => .next (s.tlAct coach x)
  else .next s

/-! ## The freeze line (R94, R184, R368, R389) -/

/-- Whether a core's control core is blocked (R88). -/
def State.coreBlocked (s : State) (core : Nat) : Bool :=
  let c := s.ctl core
  c.stand == .running &&
    (c.inHandler || !c.blocks.isEmpty || c.accessHolds ||
      s.lineBlocks core (c.enabled c.pc (s.header core c.pc % 8) (itemsOf (s.parts43 core c.pc))))

/-- R94(a) for a core: blocked, with no queued entry of nominal cycle c + 4 or later. -/
def State.freezesA (s : State) (core : Nat) : Bool :=
  let x := s.eng core
  let t := (s.coach (coachOf core)).tclk
  s.coreBlocked core && !((x.ql ++ x.qm ++ x.qv ++ x.qs).any fun e => decide (t + 4 ≤ e.n))

/-- R94(b) for a core: a head whose turn has come waits on a condition outside the timetable domain. A head whose N has passed freezes the
coach first too, and raises its miss when the wait has ended (DESIGN CHOICE, log 90). -/
def State.freezesB (s : State) (core : Nat) : Bool := (s.turnHeads core).any fun p => s.headWaits core p.1 p.2

/-- Whether a resumed coach still waits for its cores' first four lines (R368). -/
def State.warming (s : State) (coach : Nat) : Bool :=
  (s.coach coach).warm.any fun p =>
    (s.ctl p.1).stand == .running && decide ((s.ctl p.1).lines < p.2) && !s.coreBlocked p.1

/-- Whether a condition of R94, or a resumption, asserts the freeze line of a coach. -/
def State.conditions (s : State) (coach : Nat) : Bool :=
  s.warming coach || (coresOf coach).any fun c => s.freezesA c || s.freezesB c

/-- Whether the power unit paces a die in the cycle (R389): the first cycles of the window that runs. -/
def State.paceAsserts (s : State) (die : Nat) : Bool :=
  let d := s.die die
  decide (s.cyc % 64 < (if s.cyc % 64 = 0 then d.paceNow else d.pace))

/-- The freeze line of a coach for the cycle that begins (R94, R184, R389); while a segment runs, its controller holds the line after a
freeze. -/
def State.freezeLine (s : State) (coach : Nat) : State :=
  let k := s.coach coach
  let paced := s.paceAsserts (dieOf coach)
  match k.stand with
  | .running =>
    let f := paced || k.tl.hold || s.conditions coach
    let tl : Timeline := { k.tl with hold := k.tl.hold || (f && k.tl.running) }
    s.setCoach coach { k with frozen := f, tl := tl, warm := if s.warming coach then k.warm else [] }
  | .stopping => if paced then s.setCoach coach { k with frozen := true } else s.beginDrain coach
  | .draining => s.setCoach coach { k with frozen := paced }
  | _ => s

/-- FREEZE_ROW_RESTORE (R184): once the conditions of R94 have ended, the controller restores the open rows and lets the freeze line go; it
takes as many cycles as the durations of R394 say (log 6). -/
def execFreezeRowRestore (coach : Nat) (s : State) : Host.Outcome State Fault Refusal :=
  let k := s.coach coach
  if k.stand == .running && k.tl.hold && !s.paceAsserts (dieOf coach) && !s.conditions coach then
    let d := s.delay 0xFFFFFFFF
    if d.1 = 0 then .next (d.2.setCoach coach { k with frozen := false, tl := { k.tl with hold := false } })
    else .next d.2
  else .next s

/-! ## The start tick (R35, R368) -/

/-- A core at its start tick: it dispatches, unless it has exited before (R35, R374). -/
def Ctl.start (c : Ctl) (t : Nat) (again : Bool) : Ctl :=
  let c1 := if again then c else c.setSr 0x008 (BitVec.ofNat 64 t)
  match c1.stand with
  | .idle => { c1 with stand := .running }
  | _ => c1

/-- A coach starts at a tick; at its first start tick the capacity that its maps home is cleared (R35, R124, R368). A pre-emption request that came while
the gang was held still stands (R38, log 98). -/
def State.startCoach (s : State) (coach gi t : Nat) (resume : Bool) : State :=
  let k := s.coach coach
  let g := s.gang gi
  let again := resume || g.open_
  let cores := coresOf coach
  let s1 := cores.foldl (fun s c => s.setCtl c ((s.ctl c).start t again)) s
  let warm := if resume then cores.map fun c => (c, (s.ctl c).lines + 4) else []
  let k1 : Coach :=
    { k with stand := .running, tclk := if resume then k.tsave else 0, frozen := false, opened := none, due := [], warm := warm
             stopDue := none, preReq := g.preTmo != 0 }
  let s2 := ((s1.setCoach coach k1).setGang gi { g with stand := if g.preTmo = 0 then .running else .preempting }).setRecord gi 0 2
  (if again then s2 else s2.clearCap coach).freezeLine coach

/-- The tick has reached a coach in time; a gang that stops meanwhile does not start (R35, R361). -/
def State.takeTick (s : State) (coach gi t : Nat) (resume : Bool) : State :=
  let k := s.coach coach
  let g := s.gang gi
  if g.stand = .stopping then s.setCoach coach { k with stand := .drained }
  else if s.cyc < t then s.setCoach coach { k with stand := .ready t 0 resume }
  else s.startCoach coach gi t resume

/-- START_TICK (R35, R360, R368): the tick reaches a coach, and at its cycle the coach starts; one that receives it too late is treated as lost with
its die. To a die that no route leads to the tick does not come. -/
def execStartTick (coach : Nat) (s : State) : Host.Outcome State Fault Refusal :=
  let k := s.coach coach
  match k.stand, k.gang with
  | .ready t rx resume, some gi =>
    if rx = 0 then if s.cyc < t then .next s else .next (s.takeTick coach gi t resume)
    else if s.cyc < rx ∨ s.hearsHome coach = false then .next s
    else if t < s.cyc then .next (s.loseFor gi (k.lco / (s.gang gi).perDie))
    else .next ((s.noteAnswer (dieOf coach)).takeTick coach gi t resume)
  | _, _ => .next s

/-! ## The untimed queues (R294, R327) -/

/-- Take the head of an untimed queue and carry it out. -/
def State.issueUntimed (s : State) (core : Nat) (q : Queue) : State :=
  let x := s.eng core
  match x.queue q with
  | [] => s
  | e :: rest => (s.setEng core (x.setQueue q rest)).carryOut core e

/-- Whether any entry of an untimed queue may issue: the stores and atomics of the core's earlier lines have performed, and no acquire of the
F queue holds its later entries (R346, R347). -/
def State.untimedOpen (s : State) (core : Nat) (q : Queue) (e : Entry) : Bool :=
  s.storesDone core e && (q != .f || s.noAcquire core)

/-- Whether the head of an untimed queue may issue: q.wait once few enough earlier entries are incomplete, q.sig at once, an operation as
its queue lets it (R117, R118, R294, R327). -/
def State.untimedReady (s : State) (core : Nat) (q : Queue) (e : Entry) : Bool :=
  match e.ins with
  | .qWait _ n _ => s.untimedOpen core q e && decide ((s.eng core).waitCount q ≤ n.toNat)
  | .qSig .. => s.untimedOpen core q e
  | _ => if q = .f then s.fReady core e else s.kReady core e

/-- F_QUEUE_ISSUE (R327): the head of a core's F queue issues. -/
def execFQueueIssue (core : Nat) (s : State) : Host.Outcome State Fault Refusal :=
  match s.headOf core .f with
  | some e =>
    if (s.coach (coachOf core)).stand == .running && s.untimedReady core .f e then .next ((s.issueUntimed core .f).settleSigs core)
    else .next s
  | none => .next s

/-- K_OPERATION_APPLY (R294): the head of a core's K queue issues; an issued operation is applied, whole, and completes later. -/
def execKOperationApply (core n : Nat) (s : State) : Host.Outcome State Fault Refusal :=
  match (s.eng core).op? n with
  | some o =>
    if o.q ≠ .k ∨ s.cyc < o.due then .next s
    else if o.done then .next (s.resultK core o)
    else
      let r := s.applyK core o
      let d := r.1.delay 0xFFFFFFFF
      .next (d.2.setOp core { r.2 with due := s.cyc + d.1 })
  | none =>
    match s.headOf core .k with
    | some e =>
      if e.id == n && (s.coach (coachOf core)).stand == .running && s.untimedReady core .k e then
        .next ((s.issueUntimed core .k).settleSigs core)
      else .next s
    | none => .next s

end Sys2Proof.Machine
end

