-- ==== Sys2Proof/Machine/Dispatch.lean ====
section
/-! DEFINITION. The dispatcher: one arm for each row of the opcode table, each a direct call of that row's meaning. -/

namespace Sys2Proof.Machine

-- Carry out one instruction (on the core the focus names) or one event.
def exec (i : Instr) (s : State) : Host.Outcome State Fault Refusal :=
  match i with
  | .add d a b => Sys2Proof.Machine.execAdd d a b s
  | .sub d a b => Sys2Proof.Machine.execSub d a b s
  | .mul d a b => Sys2Proof.Machine.execMul d a b s
  | .mulh d a b => Sys2Proof.Machine.execMulh d a b s
  | .mulhn d a b => Sys2Proof.Machine.execMulhn d a b s
  | .div d a b => Sys2Proof.Machine.execDiv d a b s
  | .rem d a b => Sys2Proof.Machine.execRem d a b s
  | .and d a b => Sys2Proof.Machine.execAnd d a b s
  | .or d a b => Sys2Proof.Machine.execOr d a b s
  | .xor d a b => Sys2Proof.Machine.execXor d a b s
  | .shl d a b => Sys2Proof.Machine.execShl d a b s
  | .shr d a b => Sys2Proof.Machine.execShr d a b s
  | .sra d a b => Sys2Proof.Machine.execSra d a b s
  | .min d a b => Sys2Proof.Machine.execMin d a b s
  | .max d a b => Sys2Proof.Machine.execMax d a b s
  | .sel d a b c => Sys2Proof.Machine.execSel d a b c s
  | .cmpeq d a b => Sys2Proof.Machine.execCmpeq d a b s
  | .cmplt d a b => Sys2Proof.Machine.execCmplt d a b s
  | .cmplo d a b => Sys2Proof.Machine.execCmplo d a b s
  | .clz d a => Sys2Proof.Machine.execClz d a s
  | .pop d a => Sys2Proof.Machine.execPop d a s
  | .addi d a i0 => Sys2Proof.Machine.execAddi d a i0 s
  | .andi d a i0 => Sys2Proof.Machine.execAndi d a i0 s
  | .ori d a i0 => Sys2Proof.Machine.execOri d a i0 s
  | .xori d a i0 => Sys2Proof.Machine.execXori d a i0 s
  | .shli d a n => Sys2Proof.Machine.execShli d a n s
  | .shri d a n => Sys2Proof.Machine.execShri d a n s
  | .srai d a n => Sys2Proof.Machine.execSrai d a n s
  | .cmpi d a k v => Sys2Proof.Machine.execCmpi d a k v s
  | .li d i0 => Sys2Proof.Machine.execLi d i0 s
  | .lih d i0 => Sys2Proof.Machine.execLih d i0 s
  | .id d s0 => Sys2Proof.Machine.execId d s0 s
  | .cyc d => Sys2Proof.Machine.execCyc d s
  | .tbase d a i0 => Sys2Proof.Machine.execTbase d a i0 s
  | .sget d n => Sys2Proof.Machine.execSget d n s
  | .sset a n => Sys2Proof.Machine.execSset a n s
  | .br o => Sys2Proof.Machine.execBr o s
  | .call d o => Sys2Proof.Machine.execCall d o s
  | .jr a => Sys2Proof.Machine.execJr a s
  | .ret a => Sys2Proof.Machine.execRet a s
  | .beq a b o => Sys2Proof.Machine.execBeq a b o s
  | .bne a b o => Sys2Proof.Machine.execBne a b o s
  | .blt a b o => Sys2Proof.Machine.execBlt a b o s
  | .bge a b o => Sys2Proof.Machine.execBge a b o s
  | .blo a b o => Sys2Proof.Machine.execBlo a b o s
  | .bhs a b o => Sys2Proof.Machine.execBhs a b o s
  | .loop a b o => Sys2Proof.Machine.execLoop a b o s
  | .loopPre a b o => Sys2Proof.Machine.execLoopPre a b o s
  | .loopp a b o => Sys2Proof.Machine.execLoopp a b o s
  | .looppPre a b o => Sys2Proof.Machine.execLooppPre a b o s
  | .lbrk a => Sys2Proof.Machine.execLbrk a s
  | .lds d a z q o => Sys2Proof.Machine.execLds d a z q o s
  | .sts v a z q o => Sys2Proof.Machine.execSts v a z q o s
  | .amo d a b c o z p => Sys2Proof.Machine.execAmo d a b c o z p s
  | .wfa k => Sys2Proof.Machine.execWfa k s
  | .gridShrink n => Sys2Proof.Machine.execGridShrink n s
  | .phPrep a n => Sys2Proof.Machine.execPhPrep a n s
  | .phAdv a n => Sys2Proof.Machine.execPhAdv a n s
  | .fmtPush a y => Sys2Proof.Machine.execFmtPush a y s
  | .kgSet n a b => Sys2Proof.Machine.execKgSet n a b s
  | .qWait q n k => Sys2Proof.Machine.execQWait q n k s
  | .qSig q aw k => Sys2Proof.Machine.execQSig q aw k s
  | .launch d a w k => Sys2Proof.Machine.execLaunch d a w k s
  | .exit x => Sys2Proof.Machine.execExit x s
  | .trap c => Sys2Proof.Machine.execTrap c s
  | .yield => Sys2Proof.Machine.execYield s
  | .hret => Sys2Proof.Machine.execHret s
  | .bar s0 => Sys2Proof.Machine.execBar s0 s
  | .fenceSc s0 => Sys2Proof.Machine.execFenceSc s0 s
  | .stepBegin => Sys2Proof.Machine.execStepBegin s
  | .stepCommit d => Sys2Proof.Machine.execStepCommit d s
  | .stepAbort => Sys2Proof.Machine.execStepAbort s
  | .ld g b o k => Sys2Proof.Machine.execLd g b o k s
  | .ldt m g b o k => Sys2Proof.Machine.execLdt m g b o k s
  | .ldg sc g b cb nr k => Sys2Proof.Machine.execLdg sc g b cb nr k s
  | .cp d s0 n w k => Sys2Proof.Machine.execCp d s0 n w k s
  | .rput m l a k => Sys2Proof.Machine.execRput m l a k s
  | .rtake d l k => Sys2Proof.Machine.execRtake d l k s
  | .ldx d s0 p w k => Sys2Proof.Machine.execLdx d s0 p w k s
  | .tlRun s0 k => Sys2Proof.Machine.execTlRun s0 k s
  | .st g b o k => Sys2Proof.Machine.execSt g b o k s
  | .stt m g b o k => Sys2Proof.Machine.execStt m g b o k s
  | .stg sc g b cb nr k => Sys2Proof.Machine.execStg sc g b cb nr k s
  | .stStr g b s0 r o k => Sys2Proof.Machine.execStStr g b s0 r o k s
  | .sttStr m g b s0 r o k => Sys2Proof.Machine.execSttStr m g b s0 r o k s
  | .mld y b k => Sys2Proof.Machine.execMld y b k s
  | .mmul z c y a n k => Sys2Proof.Machine.execMmul z c y a n k s
  | .mmulCh z c y a n k => Sys2Proof.Machine.execMmulCh z c y a n k s
  | .mmulCf f z c y n k => Sys2Proof.Machine.execMmulCf f z c y n k s
  | .mrd c g b o k => Sys2Proof.Machine.execMrd c g b o k s
  | .mclr m c y n k => Sys2Proof.Machine.execMclr m c y n k s
  | .mattn z c a n k => Sys2Proof.Machine.execMattn z c a n k s
  | .mresc c y x n k => Sys2Proof.Machine.execMresc c y x n k s
  | .msplLd b n s0 k => Sys2Proof.Machine.execMsplLd b n s0 k s
  | .msplEv j z c a n k => Sys2Proof.Machine.execMsplEv j z c a n k s
  | .msplDx j z c a d n k => Sys2Proof.Machine.execMsplDx j z c a d n k s
  | .msplGs j z w a d n k => Sys2Proof.Machine.execMsplGs j z w a d n k s
  | .msplRf j k => Sys2Proof.Machine.execMsplRf j k s
  | .msplRd n s0 b o k => Sys2Proof.Machine.execMsplRd n s0 b o k s
  | .vadd t d a b k => Sys2Proof.Machine.execVadd t d a b k s
  | .vsub t d a b k => Sys2Proof.Machine.execVsub t d a b k s
  | .vmul t d a b k => Sys2Proof.Machine.execVmul t d a b k s
  | .vfma t d a b k => Sys2Proof.Machine.execVfma t d a b k s
  | .vfnm t d a b k => Sys2Proof.Machine.execVfnm t d a b k s
  | .vmin t d a b k => Sys2Proof.Machine.execVmin t d a b k s
  | .vmax t d a b k => Sys2Proof.Machine.execVmax t d a b k s
  | .vabs t d a k => Sys2Proof.Machine.execVabs t d a k s
  | .vneg t d a k => Sys2Proof.Machine.execVneg t d a k s
  | .vdiv t d a b k => Sys2Proof.Machine.execVdiv t d a b k s
  | .vsqrt t d a k => Sys2Proof.Machine.execVsqrt t d a k s
  | .vrsqrt t d a k => Sys2Proof.Machine.execVrsqrt t d a k s
  | .vrcp t d a k => Sys2Proof.Machine.execVrcp t d a k s
  | .vexp2 t d a k => Sys2Proof.Machine.execVexp2 t d a k s
  | .vlog2 t d a k => Sys2Proof.Machine.execVlog2 t d a k s
  | .vtanh t d a k => Sys2Proof.Machine.execVtanh t d a k s
  | .vcmp t c i0 p a b k => Sys2Proof.Machine.execVcmp t c i0 p a b k s
  | .vsel d a b k => Sys2Proof.Machine.execVsel d a b k s
  | .vclamp t d a b k => Sys2Proof.Machine.execVclamp t d a b k s
  | .viadd t d a b k => Sys2Proof.Machine.execViadd t d a b k s
  | .visub t d a b k => Sys2Proof.Machine.execVisub t d a b k s
  | .vimul t d a b k => Sys2Proof.Machine.execVimul t d a b k s
  | .viand t d a b k => Sys2Proof.Machine.execViand t d a b k s
  | .vior t d a b k => Sys2Proof.Machine.execVior t d a b k s
  | .vixor t d a b k => Sys2Proof.Machine.execVixor t d a b k s
  | .vishl t d a b k => Sys2Proof.Machine.execVishl t d a b k s
  | .vishr t d a b k => Sys2Proof.Machine.execVishr t d a b k s
  | .visra t d a b k => Sys2Proof.Machine.execVisra t d a b k s
  | .vimin t d a b k => Sys2Proof.Machine.execVimin t d a b k s
  | .vimax t d a b k => Sys2Proof.Machine.execVimax t d a b k s
  | .vcvt r d a dst src k => Sys2Proof.Machine.execVcvt r d a dst src k s
  | .vmxp m d a b k => Sys2Proof.Machine.execVmxp m d a b k s
  | .vmxu m d a b k => Sys2Proof.Machine.execVmxu m d a b k s
  | .vmov d a k => Sys2Proof.Machine.execVmov d a k s
  | .vbc t d a n k => Sys2Proof.Machine.execVbc t d a n k s
  | .vperm d a b k => Sys2Proof.Machine.execVperm d a b k s
  | .vrot d a n k => Sys2Proof.Machine.execVrot d a n k s
  | .vred t d a i0 o k => Sys2Proof.Machine.execVred t d a i0 o k s
  | .vscan t d a i0 e o k => Sys2Proof.Machine.execVscan t d a i0 e o k s
  | .vhist t d a b k => Sys2Proof.Machine.execVhist t d a b k s
  | .vtop t n p a x k => Sys2Proof.Machine.execVtop t n p a x k s
  | .vsmxMerge d a b k => Sys2Proof.Machine.execVsmxMerge d a b k s
  | .vadam d a b k => Sys2Proof.Machine.execVadam d a b k s
  | .vchk t a k => Sys2Proof.Machine.execVchk t a k s
  | .vamax t d a k => Sys2Proof.Machine.execVamax t d a k s
  | .flLd sz aq d a o u => Sys2Proof.Machine.execFlLd sz aq d a o u s
  | .fam ord op z a b d u => Sys2Proof.Machine.execFam ord op z a b d u s
  | .fcollSet g b o u => Sys2Proof.Machine.execFcollSet g b o u s
  | .fred op g t b n u => Sys2Proof.Machine.execFred op g t b n u s
  | .fbar u => Sys2Proof.Machine.execFbar u s
  | .cph m d h n u => Sys2Proof.Machine.execCph m d h n u s
  | .spanOpen tag ra u => Sys2Proof.Machine.execSpanOpen tag ra u s
  | .spanApp ra rb u => Sys2Proof.Machine.execSpanApp ra rb u s
  | .spanRt mode tag ra rb u => Sys2Proof.Machine.execSpanRt mode tag ra rb u s
  | .kvWalk m g b d u => Sys2Proof.Machine.execKvWalk m g b d u s
  | .kvPlan blk nc b o u => Sys2Proof.Machine.execKvPlan blk nc b o u s
  | .kvFork m ra rb rc u => Sys2Proof.Machine.execKvFork m ra rb rc u s
  | .kvDrop ra u => Sys2Proof.Machine.execKvDrop ra u s
  | .kvHint prio ra rb rc u => Sys2Proof.Machine.execKvHint prio ra rb rc u s
  | .jobLogScan die vf => Sys2Proof.Machine.execJobLogScan die vf s
  | .gangPlacement die => Sys2Proof.Machine.execGangPlacement die s
  | .holdRequest msg => Sys2Proof.Machine.execHoldRequest msg s
  | .holdCommit gang => Sys2Proof.Machine.execHoldCommit gang s
  | .contextLoaded coach => Sys2Proof.Machine.execContextLoaded coach s
  | .startTick coach => Sys2Proof.Machine.execStartTick coach s
  | .preemptionRequest gang => Sys2Proof.Machine.execPreemptionRequest gang s
  | .eviction gang => Sys2Proof.Machine.execEviction gang s
  | .childEnd gang => Sys2Proof.Machine.execChildEnd gang s
  | .launchAnswer core => Sys2Proof.Machine.execLaunchAnswer core s
  | .lineDispatch core => Sys2Proof.Machine.execLineDispatch core s
  | .timedIssue core q => Sys2Proof.Machine.execTimedIssue core q s
  | .timedWritePerform coach => Sys2Proof.Machine.execTimedWritePerform coach s
  | .ringBeatPark coach => Sys2Proof.Machine.execRingBeatPark coach s
  | .handlerEntry core => Sys2Proof.Machine.execHandlerEntry core s
  | .scalarAccessComplete core n => Sys2Proof.Machine.execScalarAccessComplete core n s
  | .cpComplete core n => Sys2Proof.Machine.execCpComplete core n s
  | .ldxComplete core n => Sys2Proof.Machine.execLdxComplete core n s
  | .deadlineFault gang => Sys2Proof.Machine.execDeadlineFault gang s
  | .shiftGranuleWrite coach => Sys2Proof.Machine.execShiftGranuleWrite coach s
  | .phAdvComplete core => Sys2Proof.Machine.execPhAdvComplete core s
  | .timelineWord coach => Sys2Proof.Machine.execTimelineWord coach s
  | .landingWrite coach => Sys2Proof.Machine.execLandingWrite coach s
  | .tierLookupAnswer core => Sys2Proof.Machine.execTierLookupAnswer core s
  | .tierMoveComplete die n => Sys2Proof.Machine.execTierMoveComplete die n s
  | .uncorrectableError coach info => Sys2Proof.Machine.execUncorrectableError coach info s
  | .kOperationApply core n => Sys2Proof.Machine.execKOperationApply core n s
  | .fQueueIssue core => Sys2Proof.Machine.execFQueueIssue core s
  | .linkRetrain die link => Sys2Proof.Machine.execLinkRetrain die link s
  | .linkStateMessage msg => Sys2Proof.Machine.execLinkStateMessage msg s
  | .flitReceive die link => Sys2Proof.Machine.execFlitReceive die link s
  | .flitForward die link => Sys2Proof.Machine.execFlitForward die link s
  | .remoteWriteArrive msg => Sys2Proof.Machine.execRemoteWriteArrive msg s
  | .acknowledgementArrive msg => Sys2Proof.Machine.execAcknowledgementArrive msg s
  | .releasedWriteSend core n => Sys2Proof.Machine.execReleasedWriteSend core n s
  | .retransmitTimeout coach n => Sys2Proof.Machine.execRetransmitTimeout coach n s
  | .breakNotice msg => Sys2Proof.Machine.execBreakNotice msg s
  | .remoteReadArrive msg => Sys2Proof.Machine.execRemoteReadArrive msg s
  | .readDataArrive msg => Sys2Proof.Machine.execReadDataArrive msg s
  | .remoteLoadTimeout core n => Sys2Proof.Machine.execRemoteLoadTimeout core n s
  | .remoteAtomicArrive msg => Sys2Proof.Machine.execRemoteAtomicArrive msg s
  | .atomicResultArrive msg => Sys2Proof.Machine.execAtomicResultArrive msg s
  | .fredContribution msg => Sys2Proof.Machine.execFredContribution msg s
  | .fredComplete core n => Sys2Proof.Machine.execFredComplete core n s
  | .fredTimeout core n => Sys2Proof.Machine.execFredTimeout core n s
  | .fbarComplete gang => Sys2Proof.Machine.execFbarComplete gang s
  | .cphGranule core n => Sys2Proof.Machine.execCphGranule core n s
  | .cphComplete core n => Sys2Proof.Machine.execCphComplete core n s
  | .dieLost die => Sys2Proof.Machine.execDieLost die s
  | .stopMessage coach => Sys2Proof.Machine.execStopMessage coach s
  | .coachSave coach => Sys2Proof.Machine.execCoachSave coach s
  | .gangResume gang => Sys2Proof.Machine.execGangResume gang s
  | .stepBeginRelease gang => Sys2Proof.Machine.execStepBeginRelease gang s
  | .stepCommitDecision gang => Sys2Proof.Machine.execStepCommitDecision gang s
  | .stepReissue gang => Sys2Proof.Machine.execStepReissue gang s
  | .barComplete gang s0 group => Sys2Proof.Machine.execBarComplete gang s0 group s
  | .fenceComplete core => Sys2Proof.Machine.execFenceComplete core s
  | .coreExited core => Sys2Proof.Machine.execCoreExited core s
  | .gangDone gang => Sys2Proof.Machine.execGangDone gang s
  | .hrevWrite die vf value => Sys2Proof.Machine.execHrevWrite die vf value s
  | .gcmdResume die fn value => Sys2Proof.Machine.execGcmdResume die fn value s
  | .gcmdEnd die fn value => Sys2Proof.Machine.execGcmdEnd die fn value s
  | .evqaRead die fn => Sys2Proof.Machine.execEvqaRead die fn s
  | .hfaqRead die => Sys2Proof.Machine.execHfaqRead die s
  | .kvpbWrite die vf pool value => Sys2Proof.Machine.execKvpbWrite die vf pool value s
  | .tcapWrite die tenant size value => Sys2Proof.Machine.execTcapWrite die tenant size value s
  | .registerWrite die fn offset value => Sys2Proof.Machine.execRegisterWrite die fn offset value s
  | .powerOnReset die => Sys2Proof.Machine.execPowerOnReset die s
  | .quote die => Sys2Proof.Machine.execQuote die s
  | .readBadPageList die => Sys2Proof.Machine.execReadBadPageList die s
  | .retireGranules die => Sys2Proof.Machine.execRetireGranules die s
  | .stageUpdate die => Sys2Proof.Machine.execStageUpdate die s
  | .mailboxInvalidCommand die => Sys2Proof.Machine.execMailboxInvalidCommand die s
  | .telemetrySample die watts temps => Sys2Proof.Machine.execTelemetrySample die watts temps s
  | .paceUpdate die pace => Sys2Proof.Machine.execPaceUpdate die pace s
  | .paceWindow die => Sys2Proof.Machine.execPaceWindow die s
  | .thermalLimit die => Sys2Proof.Machine.execThermalLimit die s
  | .correctableError coach info => Sys2Proof.Machine.execCorrectableError coach info s
  | .retrainComplete die link => Sys2Proof.Machine.execRetrainComplete die link s
  | .freezeRowRestore coach => Sys2Proof.Machine.execFreezeRowRestore coach s
  | .virtualFunctionReset die vf => Sys2Proof.Machine.execVirtualFunctionReset die vf s

end Sys2Proof.Machine
end

