-- ==== Sys2Proof/Machine/Agenda.lean ====
section
/-! DEFINITION. The agenda of a core clock cycle: which events may happen, in which order (R5, R26, R149; DESIGN CHOICE, log 4), the clock advance between two cycles, and how a word comes to stand where the next line is fetched. -/

namespace Sys2Proof.Machine

/-! ## Candidates -/

/-- An event that may happen: its place in the cycle, whether it may come again at that place, and the event. -/
structure Cand where
  pos   : Nat
  again : Bool
  ev    : Instr

/-- The room of one stage of the agenda among the places. -/
def stageRoom : Nat := 2 ^ 96

/-- The place of an entity in a stage. -/
def placeIn (stage entity : Nat) : Nat := stage * stageRoom + entity

/-- The place of a numbered part of an entity in a stage. -/
def placeSub (stage entity n : Nat) : Nat := stage * stageRoom + entity * 2 ^ 64 + n

/-- An event that happens at most once at its place. -/
def cand (stage entity : Nat) (e : Instr) : Cand := ⟨placeIn stage entity, false, e⟩

/-- A list with one candidate when a condition holds. -/
def candIf (b : Bool) (c : Cand) : List Cand := if b then [c] else []

/-- The coaches that hold a context. -/
def State.busyCoaches (s : State) : List Nat := (s.coaches.filter fun p => p.2.stand != .idle).map (·.1)

/-- The cores of the coaches that hold a context. -/
def State.busyCores (s : State) : List Nat := s.busyCoaches.flatMap coresOf

/-- The gangs of the domain. -/
def State.gangIds (s : State) : List Nat := s.gangs.map (·.1)

/-- The dies that are present, each with its place in their list. -/
def State.numbered (s : State) : List (Nat × Nat) := (List.range s.present.length).zip s.present

/-- Stage 0: reset of packages, windows of pacing, row restoring. -/
def State.cands0 (s : State) : List Cand :=
  (s.numbered.flatMap fun p => candIf ((s.die p.2).mgmt.boot == 0) (cand 0 (2 * p.1) (.powerOnReset p.2)) ++
    candIf (s.cyc % 64 == 0) (cand 0 (2 * p.1 + 1) (.paceWindow p.2))) ++
  s.busyCoaches.flatMap fun c => candIf (s.coach c).tl.hold (cand 0 (10000 + c) (.freezeRowRestore c))

/-- Whether a message acknowledges a remote write: it counts before the issue check of the cycle in which it arrives (R319, R338). -/
def Msg.acks (m : Msg) : Bool := m.kind == .ack && m.data.isEmpty

/-- Stage 1: start ticks, deadlines, stop messages, dies that have been silent for too long (R360), acknowledgements. -/
def State.cands1 (s : State) : List Cand :=
  (s.busyCoaches.map fun c => cand 1 c (.startTick c)) ++
  (s.gangIds.flatMap fun g => candIf (s.gang g).late (cand 1 (10000 + g) (.deadlineFault g))) ++
  (s.busyCoaches.flatMap fun c => candIf (s.coach c).stopDue.isSome (cand 1 (100000 + c) (.stopMessage c))) ++
  (s.numbered.flatMap fun p => (s.silent p.2).toList.map fun d => cand 1 (200000 + p.1) (.dieLost d)) ++
  s.net.flatMap fun p => candIf p.2.acks (cand 1 (2 ^ 32 + p.1) (.acknowledgementArrive p.1))

/-- The event of a core's dispatch slot: the entry of a pending handler, unless the next line faults, or the next line (R167). -/
def State.slotEvent (s : State) (core : Nat) : Instr :=
  if (s.ctl core).handlerPending then
    match s.tryDispatch core with
    | .fault _ _ => .lineDispatch core
    | _ => .handlerEntry core
  else .lineDispatch core

/-- Stage 2: the dispatch slots of the cores. -/
def State.cands2 (s : State) : List Cand :=
  s.busyCores.flatMap fun c => candIf (s.coreLive c) (cand 2 c (s.slotEvent c))

/-- Stage 3: the untimed queues issue. -/
def State.cands3 (s : State) : List Cand :=
  s.busyCores.flatMap fun c =>
    candIf (s.headOf c .f).isSome (cand 3 (2 * c) (.fQueueIssue c)) ++
      (match s.headOf c .k with
       | some e => [cand 3 (2 * c + 1) (.kOperationApply c e.id)]
       | none => [])

/-- The events of the timed domain of a coach: words of the running segment, issue in queue order, ring lanes, writes, landings. -/
def State.coachCands (s : State) (c : Nat) : List Cand :=
  let at_ (n : Nat) (e : Instr) : Cand := cand 4 (c * 256 + n) e
  (if s.wordDue c then [⟨placeIn 4 (c * 256), true, .timelineWord c⟩] else []) ++
  (if s.takesPlace c then
    ((coresOf c).flatMap fun k => timedQueues.flatMap fun q =>
      candIf (s.headOf k q).isSome (at_ (1 + coreIx k * 8 + q.tag) (.timedIssue k q))) ++
      [at_ 200 (.ringBeatPark c), at_ 201 (.timedWritePerform c)]
   else []) ++
  candIf (!(s.coach c).tl.land.isEmpty) (at_ 202 (.landingWrite c))

/-- Stage 4: the timed domains, coach by coach. -/
def State.cands4 (s : State) : List Cand := s.busyCoaches.flatMap s.coachCands

/-- Stage 5: the shift engines (R149). -/
def State.cands5 (s : State) : List Cand := s.busyCoaches.map fun c => cand 5 c (.shiftGranuleWrite c)

/-- The events of an operation of a core. -/
def opEvents (core : Nat) (o : Op) : List Instr :=
  match o.e.ins with
  | .cp .. => [.cpComplete core o.id]
  | .ldx .. => [.ldxComplete core o.id]
  | .flLd .. => [.remoteLoadTimeout core o.id]
  | .fred .. => [.fredComplete core o.id, .fredTimeout core o.id]
  | .cph .. => [.cphGranule core o.id, .cphComplete core o.id]
  | _ => if o.q = .k then [.kOperationApply core o.id] else []

/-- Events paired with places that follow one another. -/
def placed (stage entity : Nat) : Nat → List Instr → List Cand
  | _, [] => []
  | n, e :: rest => ⟨placeSub stage entity n, false, e⟩ :: placed stage entity (n + 1) rest

/-- Stage 6: bulk copies, gathers, F and K operations, tier lookups, core by core. -/
def State.cands6 (s : State) : List Cand :=
  s.busyCores.flatMap fun c =>
    let x := s.eng c
    candIf (x.ql.any Entry.lookupWaits) ⟨placeSub 6 c 0, false, .tierLookupAnswer c⟩ ++
      x.ops.flatMap fun o => placed 6 c (2 * o.id + 1) (opEvents c o)

/-- Stage 7: moves between tiers. -/
def State.cands7 (s : State) : List Cand :=
  s.dies.flatMap fun p => p.2.moves.map fun m => ⟨placeSub 7 p.1 m.id, false, .tierMoveComplete p.1 m.id⟩

/-- The event of a message at its die. -/
def msgEvent (n : Nat) (m : Msg) : Instr :=
  match m.kind with
  | .holdReq .. => .holdRequest n
  | .linkState _ => .linkStateMessage n
  | .write => if m.opnd = [] then .remoteWriteArrive n else .remoteAtomicArrive n
  | .parity => .remoteWriteArrive n
  | .ack => if m.acks then .acknowledgementArrive n else .atomicResultArrive n
  | .read => .remoteReadArrive n
  | .readData => .readDataArrive n
  | .collective => .fredContribution n
  | .brk => .breakNotice n

/-- Stage 8: the other messages at their dies, in the order in which they were sent. -/
def State.cands8 (s : State) : List Cand := s.net.flatMap fun p => candIf (!p.2.acks) (cand 8 p.1 (msgEvent p.1 p.2))

/-- The events of a link: receiving at its far end, sending, retraining after more than eight tries (R315). -/
def linkCands (l : Nat) (x : Link) : List Cand :=
  let far := neighbour (l / 6) (l % 6)
  candIf (!x.wire.isEmpty) (cand 9 (l * 4) (.flitReceive far (opposite (l % 6)))) ++
  candIf (!x.wait.isEmpty) (cand 9 (l * 4 + 1) (.flitForward (l / 6) (l % 6))) ++
  candIf (decide (9 ≤ x.tries) && !x.retrain) (cand 9 (l * 4 + 2) (.linkRetrain (l / 6) (l % 6))) ++
  candIf x.retrain (cand 9 (l * 4 + 3) (.retrainComplete (l / 6) (l % 6)))

/-- Stage 9: links. -/
def State.cands9 (s : State) : List Cand := s.links.flatMap fun p => linkCands p.1 p.2

/-- Stage 10: remote writes that are held or unanswered. -/
def State.cands10 (s : State) : List Cand :=
  s.busyCoaches.flatMap fun c => (s.coach c).fab.out.flatMap fun w =>
    [⟨placeSub 10 c (2 * w.id), false, if w.sent then .retransmitTimeout c w.id else .releasedWriteSend w.core w.id⟩]

/-- Stage 11: scalar accesses, lowest core first, each core's in order (R149, R173). -/
def State.cands11 (s : State) : List Cand :=
  s.busyCores.flatMap fun c =>
    match s.accessReady c with
    | some a => [⟨placeIn 11 c, true, .scalarAccessComplete c a.id⟩]
    | none => []

/-- The event that may end a wait. -/
def Block.waitEvent (core : Nat) (b : Block) : Option Instr :=
  match b with
  | .fence _ => some (.fenceComplete core)
  | .phAdv => some (.phAdvComplete core)
  | .launch .. => some (.launchAnswer core)
  | _ => none

/-- The events that may end the waits of a core's two streams: a wait of the main stream ends also while the handler runs (R88). -/
def Ctl.waitEvents (c : Ctl) (core : Nat) : List Instr :=
  (c.blocks ++ c.hblocks).filterMap (Block.waitEvent core) ++
  (match c.stand with
   | .exiting _ => [.coreExited core]
   | _ => [])

/-- Stage 12: waits of single cores. -/
def State.cands12 (s : State) : List Cand := s.busyCores.flatMap fun c => placed 12 c 0 ((s.ctl c).waitEvents c)

/-- The barrier event that may end a wait of a core: that of its carriage, coach or die. -/
def Block.barEvent (gi core : Nat) (b : Block) : Option Instr :=
  match b with
  | .bar sc _ _ =>
    some (.barComplete gi (BitVec.ofNat 3 sc) (if sc = 1 then core / 8 else if sc = 2 then core / 16 else core / 128))
  | _ => none

/-- The barrier events of a gang: every carriage, coach and die with a waiting core. -/
def State.barEvents (s : State) (gi : Nat) : List Instr :=
  ((s.gang gi).cores.flatMap fun c => (s.ctl c).blocks.filterMap (Block.barEvent gi c)).eraseDups

/-- Stage 13: what the cores of a gang do together. -/
def State.cands13 (s : State) : List Cand :=
  s.gangIds.flatMap fun g => placed 13 g 0 ([.fbarComplete g, .stepBeginRelease g, .stepCommitDecision g] ++ s.barEvents g)

/-- Stage 14: ends of gangs, before saves, so that the exit of the last core wins over a pre-emption (R42); resumptions, re-issues. -/
def State.cands14 (s : State) : List Cand :=
  (s.gangIds.map fun g => cand 14 g (.gangDone g)) ++
  (s.busyCoaches.map fun c => cand 14 (2 ^ 32 + c) (.coachSave c)) ++
  s.gangIds.flatMap fun g => placed 14 (1 + g) 0 [.gangResume g, .eviction g, .stepReissue g, .childEnd g]

/-- Whether some launch of the domain waits for coaches (R31, R32). -/
def State.launchWaits (s : State) : Bool := s.gangs.any fun p => p.2.stand == .waiting || p.2.stand == .preempted

/-- Stage 15: launch units. -/
def State.cands15 (s : State) : List Cand :=
  (s.numbered.flatMap fun p =>
    (if s.cyc % 4096 = 0 then (span 1 16).map fun v => cand 15 (p.1 * 32 + v) (.jobLogScan p.2 v) else []) ++
      candIf s.launchWaits (cand 15 (p.1 * 32 + 31) (.gangPlacement p.2))) ++
  (s.gangIds.flatMap fun g => candIf ((s.gang g).stand == .holding) (cand 15 (100000 + g) (.holdCommit g))) ++
  s.busyCoaches.map fun c => cand 15 (200000 + c) (.contextLoaded c)

/-- Stage 16: the management clusters. A mailbox command is carried out at the end of the cycle that brings it (DESIGN CHOICE, log 6: R386 names no
time, and R394 none). -/
def State.cands16 (s : State) : List Cand :=
  s.numbered.flatMap fun p =>
    (if (s.die p.2).mgmt.pending = 0 then [] else placed 16 p.1 0
      [.quote p.2, .readBadPageList p.2, .retireGranules p.2, .stageUpdate p.2, .mailboxInvalidCommand p.2]) ++
    candIf ((s.die p.2).hot 840) ⟨placeSub 16 p.1 16, false, .thermalLimit p.2⟩

/-- The candidates of a stage, in the order of their places. -/
def State.cands (s : State) (stage : Nat) : List Cand :=
  match stage with
  | 0 => s.cands0 | 1 => s.cands1 | 2 => s.cands2 | 3 => s.cands3 | 4 => s.cands4 | 5 => s.cands5 | 6 => s.cands6
  | 7 => s.cands7 | 8 => s.cands8 | 9 => s.cands9 | 10 => s.cands10 | 11 => s.cands11 | 12 => s.cands12 | 13 => s.cands13
  | 14 => s.cands14 | 15 => s.cands15 | _ => s.cands16

/-- The first candidate at or after the turn, from a stage on; the fuel is the number of stages left. -/
def State.seek (s : State) : Nat → Nat → Option Cand
  | 0, _ => none
  | f + 1, stage =>
    match (s.cands stage).find? fun c => decide (s.turn ≤ c.pos) with
    | some c => some c
    | none => s.seek f (stage + 1)

/-- The next event of the cycle, if any is left. -/
def State.nextEvent (s : State) : Option Cand := s.seek (17 - s.turn / stageRoom) (s.turn / stageRoom)

/-! ## The clock advance -/

/-- Whether a wait of a core ends with the cycle: wfa once its word is set, q.wait once few enough of the operations it counts are left (R117,
R166). -/
def Core.woken (x : Core) (b : Block) : Bool :=
  match b with
  | .wfa k => flag (x.ctl.sr.get (0x080 + k)) 63
  | .qWait n ids => decide ((x.eng.wordOps.filter fun i => ids.contains i).length ≤ n)
  | _ => false

/-- The signals that a handler line gave wait for no further line once the handler has ended (R118, R169). -/
def Eng.endHandler (x : Eng) : Eng :=
  { x with sigs := x.sigs.map fun (g : Sig) => if g.hnd then { g with left := 0 } else g }

/-- The waits of a core that end with the cycle: wfa, q.wait, hret (R117, R166, R169). -/
def Core.wake (x : Core) : Core :=
  let c := x.ctl.unblock x.woken
  if c.hretDone then { x with ctl := c.finishHret, eng := x.eng.endHandler } else { x with ctl := c }

/-- A core between two cycles: its waits, its bitmaps as the next cycle finds them, no byte written in it yet. -/
def State.tickCore (s : State) (core : Nat) : State :=
  let x := s.core core
  let s1 := if (s.coach (coachOf core)).stand = .running then (s.setCore core x.wake).settleSigs core else s
  let c := s1.ctl core
  s1.setCtl core { c with cbs := c.sr.filter fun p => decide (0x030 ≤ p.1) && decide (p.1 ≤ 0x037), wrote := [] }

/-- A draining coach that has performed every write is drained: TEND is its TCLK (R361). -/
def State.endDrain (s : State) (coach : Nat) : State :=
  let k := s.coach coach
  if k.stand = .draining ∧ s.drainedNow coach = true then
    let d := s.delay 47999
    d.2.setCoach coach { k with stand := .drained, tend := k.tclk, saveAt := s.cyc + 1 + d.1 }
  else s

/-- No byte has landed in the cycle that begins (R149). -/
def State.forgetLandings (s : State) (coach : Nat) : State := s.setCoach coach { s.coach coach with landed := [] }

/-- A coach between two cycles: its landings, the end of its drain, its freeze line. -/
def State.tickCoach (s : State) (coach : Nat) : State := ((s.forgetLandings coach).endDrain coach).freezeLine coach

/-- Whether a coach waits for a resume tick. -/
def CStand.resumes (c : CStand) : Bool :=
  match c with
  | .ready _ _ resume => resume
  | _ => false

/-- Whether the cycle that ends counts toward BUSED: from the start tick on, also while a step waits for the tick of its re-issue, but not
while the gang is pre-empted or held (R97, R374). -/
def State.budgetRuns (s : State) (g : Gang) : Bool :=
  match g.stand with
  | .running | .preempting => decide (g.tick < s.cyc)
  | .stopping => decide (0 < g.bused) || g.open_ || (decide (0 < g.tick) && decide (g.tick < s.cyc))
  | .starting => g.open_ && !(g.coaches.any fun c => (s.coach c).stand.resumes)
  | _ => false

/-- BUSED of a gang counts the cycle that ends, until its last core has exited (R21, R97, R378). -/
def State.tickGang (s : State) (gi : Nat) : State :=
  let g := s.gang gi
  if s.budgetRuns g && !(g.cores.all fun c => (s.ctl c).hasExited) then s.setGang gi { g with bused := (g.bused + 1) % 2 ^ 48 } else s

/-- A die between two cycles: its pools still to be discarded, and how long it has not answered (R285, R360). -/
def State.tickDie (s : State) (die : Nat) : State := (s.settleClosing die).tickAsked die

/-- The clock advance (R5): waits end, CYC counts, the storage that the reads of the new cycle see is fixed (R149), slots that are free again are
forgotten, budgets count, drains end, freeze lines take their values. -/
def State.tick (s : State) : State :=
  let s1 := s.busyCores.foldl State.tickCore s
  let cyc := s1.cyc + 1
  let s2 : State := { s1 with cyc := cyc, turn := 0, was := s1.mem, slots := s1.slots.filter fun p => decide (cyc < p.2) }
  let s3 := s2.gangIds.foldl State.tickGang s2
  let s4 := s3.present.foldl State.tickDie s3
  s4.busyCoaches.foldl State.tickCoach s4

/-! ## Events from outside -/

/-- The die that an event from outside names, when it names one. -/
def namedDie (i : Instr) : Nat :=
  match i with
  | .hrevWrite d _ _ | .gcmdResume d _ _ | .gcmdEnd d _ _ | .evqaRead d _ | .hfaqRead d | .kvpbWrite d _ _ _
  | .tcapWrite d _ _ _ | .registerWrite d _ _ _ | .powerOnReset d | .telemetrySample d _ _ | .paceUpdate d _
  | .virtualFunctionReset d _ | .dieLost d | .linkRetrain d _ => d
  | _ => 0

/-- An event from outside: it happens, or the machine stops when it names a die that no domain has (R4, R308). -/
def outsideEvent (i : Instr) (s : State) : Host.Outcome State Fault Refusal :=
  if namedDie i < 384 then exec i s else .fault .noSuchPart

/-- One event of the agenda, or the clock advance. -/
def State.advance (s : State) : Host.Outcome State Fault Refusal :=
  match s.nextEvent with
  | some c => exec c.ev { s with turn := if c.again then c.pos else c.pos + 1 }
  | none => .next s.tick

/-! ## Placing a word (the fetch of the next line) -/

/-- The words of a line that holds one instruction in lane 1, with its continuation in lane 2, given as the opcode table numbers its
bits (log 8). -/
def lineOf (nbits w : Nat) : List Cell32 :=
  let first := BitVec.ofNat 32 w
  let k := if nbits ≤ 32 then 0 else BitVec.ofNat 32 (w / 2 ^ 32)
  let q := match decodeTableWord nbits w with
    | some i => (i.queue?).getD .c
    | none => .c
  let long := match lenClass q first with
    | .long => true
    | .short => false
    | .both => k != 0
  let header : Cell32 := BitVec.ofNat 32 (q.tag * 16 + (if long then 8 * 256 else 0))
  [header, first, if long then k else 0, 0, 0, 0, 0, 0]

/-- Core 0 of coach 0 of die 0 about to dispatch its next line, which holds one given word. -/
def State.placeWord (s : State) (nbits w : Nat) : State :=
  let k := s.coach 0
  let c := s.ctl 0
  let c1 : Ctl := { c with stand := .running, blocks := [], hblocks := [], own := false, acc := [], fst := [], sr := c.sr.put 0x028 0 }
  let s1 := (s.setCoach 0 { k with stand := .running }).setCtl 0 c1
  let bytes := (lineOf nbits w).flatMap fun x => bytesOf 4 x.toNat
  { s1 with inbox := [], turn := placeIn 2 0, mem := s1.mem.write (Loc.cmem 0 (c.pc * 32)).key bytes }

end Sys2Proof.Machine
end

