-- ==== Sys2Proof/Machine/Step.lean ====
section
/-! DEFINITION. One step of the machine: an event from outside, the next event of the cycle's agenda, or the clock advance. -/

namespace Sys2Proof.Machine

/-- One step: the oldest event from outside, when one waits, else the next event of the cycle, else the clock advance. -/
def step (s : State) : Host.Outcome State Fault Refusal :=
  match s.inbox with
  | i :: rest => outsideEvent i { s with inbox := rest }
  | [] => s.advance

/-- The state with a word, given as the opcode table numbers its bits, as the only instruction of the next line of core 0 of coach 0, which
is about to dispatch (log 8). -/
def State.withFetchWord (s : State) (nbits w : Nat) : State := s.placeWord nbits w

end Sys2Proof.Machine
end

