-- ==== Sys2Proof/Safety.lean ====
section
/-! DEFINITION. The terms in which claims speak: what an instruction leaves alone, when a result is visible, what an issued entry is to write, and the invariant of storage. -/

namespace Sys2Proof.Machine

/-! ## What an instruction leaves alone -/

/-- Every byte of every storage reads as before. -/
def SameBytes (s t : State) : Prop := ∀ k, t.mem.byte k = s.mem.byte k

/-- Only the cores differ, and of these only core c. -/
def OnlyCore (s t : State) (c : Nat) : Prop := t = { s with cores := t.cores } ∧ ∀ i, i ≠ c → t.core i = s.core i

/-- Only the control side of core c differs. -/
def OnlyCtl (s t : State) (c : Nat) : Prop := OnlyCore s t c ∧ t.core c = { s.core c with ctl := t.ctl c }

/-- Only the pending results of core c differ: no register, no state register, no accumulator, no byte. -/
def OnlyPend (s t : State) (c : Nat) : Prop := OnlyCtl s t c ∧ t.ctl c = { s.ctl c with pend := (t.ctl c).pend } ∧ SameBytes s t

/-! ## When a result is visible (R87) -/

/-- A control side after a number of lines of a stream, as far as its results go (R87). -/
def Ctl.afterLines (c : Ctl) (hnd : Bool) : Nat → Ctl
  | 0 => c
  | n + 1 => (c.countLine hnd).afterLines hnd n

/-- Between control sides x and y, register d takes the value v after exactly `lat` lines of the stream that runs: until then every
register reads in y as it would in x, and then only d reads otherwise. Register s0 takes nothing. -/
def ResultSeen (x y : Ctl) (d : Reg) (lat : Nat) (v : Word) : Prop :=
  (∀ n r, n < lat → (y.afterLines x.inHandler n).reg r = (x.afterLines x.inHandler n).reg r) ∧
  (∀ r, (y.afterLines x.inHandler lat).reg r = if r = d ∧ d ≠ 0 then v else (x.afterLines x.inHandler lat).reg r)

/-- An instruction of the control queue answers a next state that differs in one pending result: d takes v after `lat` lines. -/
def GivesResult (i : Instr) (s : State) (d : Reg) (lat : Nat) (v : Word) : Prop :=
  ∃ t, exec i s = .next t ∧ OnlyPend s t s.me ∧ ResultSeen (s.ctl s.me) (t.ctl s.me) d lat v

/-! ## Answers -/

/-- An instruction or event answers a next state of which a property holds. -/
def Answers (i : Instr) (s : State) (p : State → Prop) : Prop := ∃ t, exec i s = .next t ∧ p t

/-- An instruction of a line takes a precise fault: the core raises it, with its code and FADDR, and nothing else happens (R51, R361). -/
def TakesFault (i : Instr) (s : State) (code : Nat) (faddr : Word) : Prop := exec i s = .next (s.raise s.me code faddr)

/-- A line index some lines on, forward or back, modulo 2048 (R43). -/
def lineFrom (line : Nat) (off : Int) : Nat := (((line : Int) + off) % 2048).toNat

/-- An instruction changes the control side of its own core only, and that as a function says. -/
def ChangesCtl (i : Instr) (s : State) (f : Ctl → Ctl) : Prop :=
  Answers i s fun t => OnlyCtl s t s.me ∧ SameBytes s t ∧ t.ctl s.me = f (s.ctl s.me)

/-- The stream being dispatched waits for one thing more, and nothing else has changed: the main stream in `blocks`, the arrival handler in
`hblocks`. -/
def BlocksOn (i : Instr) (s : State) (b : Block) : Prop :=
  ChangesCtl i s fun c => if c.inHandler then { c with hblocks := c.hblocks ++ [b] } else { c with blocks := c.blocks ++ [b] }

/-! ## Enqueue (R89, R90) -/

/-- Every grid operand lies inside the allotment: all of the file for 64 lines, else the h lines below GALLOC (R151). -/
def Inside (s : State) (gs : List GridOp) : Prop := ∀ g ∈ gs, s.galloc s.me = 64 ∨ (g.dir = .h ∧ g.idx.toNat < s.galloc s.me)

/-- The nominal issue cycle n lies after that of the queue's entry before (R90). -/
def InOrder (s : State) (q : Queue) (n : Nat) : Prop := ∀ p, lookup? (s.eng s.me).lastN q.tag = some p → p < n

/-- State t is s with an entry of instruction i at the tail of queue q of the core whose line dispatches: with the nominal issue cycle n,
the cycle of the dispatch, the map and version of the line, and the values fs. Beyond the entry only what is named here differs: the
data side is d, the deferred writes of the line are df, the durations read are those before dl, and an arrival word aw has registered the
operation (R89, R164). -/
def Joins (i : Instr) (s t : State) (q : Queue) (n : Nat) (fs : Fields) (d : Dat) (df : List (Nat × Word)) (dl : List Nat)
    (aw : Option Nat) : Prop :=
  (∃ e : Entry, (t.eng s.me).queue q = (s.eng s.me).queue q ++ [e] ∧ e.ins = i ∧ e.id = s.uid ∧ e.n = n ∧ e.disp = s.cyc ∧
    e.map = s.mapNow s.me ∧ e.ver = s.verNow s.me ∧ e.v0 = fs.v0 ∧ e.v1 = fs.v1 ∧ e.v2 = fs.v2 ∧ e.v3 = fs.v3 ∧ e.cap = fs.cap ∧
    e.rem = fs.rem ∧ e.zr = fs.zr ∧ e.p0 = 0 ∧ e.part = false ∧ e.cut = false ∧ e.place = s.place) ∧
  (∀ p, p ≠ q → (t.eng s.me).queue p = (s.eng s.me).queue p) ∧
  (∀ p, lookup? (t.eng s.me).lastN p = if q.timed = true ∧ p = q.tag then some n else lookup? (s.eng s.me).lastN p) ∧
  (t.eng s.me).run = (s.eng s.me).run ∧ (t.eng s.me).ops = (s.eng s.me).ops ∧ (t.eng s.me).sigs = (s.eng s.me).sigs ∧
  (t.eng s.me).shr = (s.eng s.me).shr ∧ t.dat s.me = d ∧
  t.ctl s.me = { s.ctl s.me with sr := (t.ctl s.me).sr, defer := df } ∧
  (∀ r, (t.ctl s.me).sr.get r =
    if ∃ a, aw = some a ∧ r = 0x080 + a then awRegister ((s.ctl s.me).sr.get r) else (s.ctl s.me).sr.get r) ∧
  OnlyCore s { t with uid := s.uid, delays := s.delays } s.me ∧ t.uid = s.uid + 1 ∧ t.delays = dl ∧ SameBytes s t

/-- The nominal issue cycle that an instruction's entry would have: none in F and K (R90). -/
def nominalOf (s : State) (q : Queue) (k : Option Cont) : Nat := if q.timed then s.nominal s.me q k else 0

/-- An engine instruction of a line: outside its allotment a grid operand takes 0x30 with the operand in ADDR, then an issue cycle out of
order takes 0x10; with neither, p holds of what it answers (R89, R90, R151). -/
def WhenPlaced (i : Instr) (s : State) (q : Queue) (k : Option Cont) (gs : List GridOp) (p : Prop) : Prop :=
  s.focus.cur = none →
    (∀ pre g post, gs = pre ++ g :: post → Inside s pre → ¬ Inside s [g] →
      TakesFault i s 0x30 (s.place ||| mkFld 0 48 g.bits.toNat)) ∧
    (Inside s gs → q.timed = true → ¬ InOrder s q (nominalOf s q k) → TakesFault i s 0x10 s.place52) ∧
    (Inside s gs → (q.timed = true → InOrder s q (nominalOf s q k)) → p)

/-- An instruction takes a fault of enqueue: with the address layout of R127, or with the plain layout of R52. -/
def TakesFlt (i : Instr) (s : State) (f : Flt) : Prop :=
  match f with
  | .at127 code a => TakesFault i s code (s.place ||| mkFld 0 48 a)
  | .at52 code => TakesFault i s code s.place52

/-- The first of some checks that fails. -/
def firstFault : List (Option Flt) → Option Flt
  | [] => none
  | some f :: _ => some f
  | none :: rest => firstFault rest

/-- An engine instruction of a line whose checks beyond grid operands and issue cycle come to chk: the first that fails takes its fault,
and otherwise the instruction is enqueued with the values fs, and the data side is d (R89). -/
def EnqueuesWith (i : Instr) (s : State) (q : Queue) (k : Option Cont) (gs : List GridOp) (chk : Option Flt) (fs : Fields) (d : Dat)
    (aw : Option Nat) : Prop :=
  WhenPlaced i s q k gs
    (match chk with
     | some f => TakesFlt i s f
     | none => Answers i s fun t => Joins i s t q (nominalOf s q k) fs d (s.ctl s.me).defer s.delays aw)

/-- As before, with the data side left alone. -/
def EnqueuesChecked (i : Instr) (s : State) (q : Queue) (k : Option Cont) (gs : List GridOp) (chk : Option Flt) (fs : Fields)
    (aw : Option Nat) : Prop :=
  EnqueuesWith i s q k gs chk fs (s.dat s.me) aw

/-- As before, without further checks. -/
def Enqueues (i : Instr) (s : State) (q : Queue) (k : Option Cont) (gs : List GridOp) (fs : Fields) (aw : Option Nat) : Prop :=
  EnqueuesChecked i s q k gs none fs aw

/-- A check that fails with a code and ADDR unless a condition holds. -/
def require (c : Prop) [Decidable c] (code addr : Nat) : Option Flt := if c then none else some (.at127 code addr)

/-- An address that is no multiple of n is misaligned: 0x33 with its bits 47:0 (R138, R153). -/
def aligned (n : Nat) (a : Word) : Option Flt := require (a.toNat % n = 0) 0x33 (a.toNat % 2 ^ 48)

/-- The checks of R126 on n bytes at an address for a class of access of the core whose line dispatches. -/
def reaches (s : State) (c : Cls) (write : Bool) (a : Word) (n : Nat) : Option Flt :=
  (s.checkOperand s.me (s.mapNow s.me) c write a n).map fun p => .at127 p.1 (p.2 % 2 ^ 48)

/-- The same for an operand of the matrix engine that must lie in the W block of the core, or in its E block (R247). -/
def inBlock (s : State) (east write : Bool) (a : Word) (n : Nat) : Option Flt :=
  (s.checkSide s.me (s.mapNow s.me) east write a n).map fun p => .at127 p.1 (p.2 % 2 ^ 48)

/-- The oldest untaken format word of an array of the core whose line dispatches. -/
def headWord (s : State) (y : Bool) : Word := ((s.dat s.me).fifo y).headD 0

/-- The checks of taking a format word: an empty FIFO takes 0x50 with the array, a word that the command refuses 0x51 with its bits 47:0
(R243, R245, R261). -/
def takes (s : State) (y : Bool) (ok : Word → Bool) : Option Flt :=
  firstFault [require ((s.dat s.me).fifo y ≠ []) 0x50 (b2n y), require (ok (headWord s y) = true) 0x51 ((headWord s y).toNat % 2 ^ 48)]

/-- The data side with the oldest word of an array taken and held (R243). -/
def holdWord (d : Dat) (y : Bool) : Dat :=
  if y then { d with fifo1 := d.fifo1.tail, held1 := d.held1 ++ d.fifo1.take 1 }
  else { d with fifo0 := d.fifo0.tail, held0 := d.held0 ++ d.fifo0.take 1 }

/-! ## Issue (R89, R154, R214, R215) -/

/-- Cell i of a grid line (R150). -/
def gridLine (d : Dat) (g : GridOp) (i : Nat) : Cell32 := d.grid.get (gridKey g i)

/-- Element j of b bytes of a line of cells, the lowest byte first: two cells for 64-bit elements, else a part of one (R214). -/
def elemAt (b : Nat) (line : Nat → Cell32) (j : Nat) : Nat :=
  if b = 8 then (line (2 * j)).toNat + 2 ^ 32 * (line (2 * j + 1)).toNat
  else (line (j * b / 4)).toNat / 2 ^ (8 * (j * b % 4)) % 2 ^ (8 * b)

/-- Element j of b bytes of a grid line of the core whose entry issues. -/
def src (s : State) (b : Nat) (g : GridOp) (j : Nat) : Nat := elemAt b (gridLine (s.dat s.me) g) j

/-- The predicate of an entry as it stands: every cell for none and for q0 (R56, R215). -/
def predNow (s : State) (k : Option Cont) : Word :=
  match k with
  | none => BitVec.allOnes 64
  | some c => if c.q = 0 then BitVec.allOnes 64 else (s.ctl s.me).sr.get (0x0C8 + c.q.toNat)

/-- Whether cell i is enabled: for 64-bit elements the low cell of a pair governs both (R214). -/
def cellOn (b : Nat) (m : Word) (i : Nat) : Bool := if b = 8 then m.getLsbD (i - i % 2) else m.getLsbD i

/-- A write of the enabled cells of a grid line, and of nothing else: n elements of b bytes take the values val. -/
def WritesLine (d : GridOp) (b n : Nat) (on : Nat → Bool) (val : Nat → Nat) (w : WEff) : Prop :=
  ∃ (cells : List (Nat × Cell32)) (f : Nat → Cell32), w = .grid cells ∧ (∀ j, j < n → elemAt b f j = val j) ∧
    ∀ p, p ∈ cells ↔ ∃ i, i < n * b / 4 ∧ on i = true ∧ p = (gridKey d i, f i)

/-- An issue of the entry in the focus starts a run of queue q at the TCLK cycle of the coach, in its cycle 0, of which p holds; nothing
else changes than what the core's data side d says. -/
def IssuesRun (i : Instr) (s : State) (q : Queue) (d : Dat) (p : Run → Prop) : Prop :=
  ∀ e, s.focus.cur = some e →
    Answers i s fun t => OnlyCore s t s.me ∧ SameBytes s t ∧ ∃ r : Run,
      t.core s.me = ⟨s.ctl s.me, { s.eng s.me with run := (s.eng s.me).run ++ [r] }, d⟩ ∧
      r.e = e ∧ r.q = q ∧ r.t = (s.coach (coachOf s.me)).tclk ∧ r.k = 0 ∧ p r

/-- A V instruction of latency lat: it reads at its issue and writes in cycle lat - 1, its last, as W says (R215). -/
def VectorRun (i : Instr) (s : State) (lat : Nat) (W : List WEff → Prop) : Prop :=
  IssuesRun i s .v (s.dat s.me) fun r => r.last = lat - 1 ∧ r.push = lat - 1 ∧ ∃ ws : List WEff, r.wr = ws.map (fun w => (lat - 1, w)) ∧ W ws

/-- A V instruction that writes a whole line of elements of b bytes under its predicate (R214, R215). -/
def VectorWrites (i : Instr) (s : State) (lat : Nat) (d : GridOp) (b : Nat) (k : Option Cont) (val : Nat → Nat) : Prop :=
  VectorRun i s lat fun ws => ∃ w, ws = [w] ∧ WritesLine d b (256 / b) (cellOn b (predNow s k)) val w

/-- A V instruction that writes every cell of a line (R223, R229 to R231, R237). -/
def VectorWritesAll (i : Instr) (s : State) (lat : Nat) (d : GridOp) (b : Nat) (val : Nat → Nat) : Prop :=
  VectorRun i s lat fun ws => ∃ w, ws = [w] ∧ WritesLine d b (256 / b) (fun _ => true) val w

/-- The four bytes of word j of some bytes, as a number. -/
def wordAt (bs : List Byte) (j : Nat) : Nat := natOfBytes ((bs.drop (4 * j)).take 4)

/-- The bytes of an entry's operand, as the core that issues it sees them (R120, R370). -/
def seen (s : State) (core : Nat) (e : Entry) (a n : Nat) : List Byte := s.ctxBytes (coachOf core) e.map e.ver a n

/-- What a load reads of the line of cycle k, written three cycles later under its predicate (R154). -/
def loadsLine (s : State) (core : Nat) (e : Entry) (m : Word) (g : GridOp) (k : Nat) (w : Nat × WEff) : Prop :=
  w.1 = k + 3 ∧ WritesLine (gridNext g k) 4 64 m.getLsbD (wordAt (seen s core e (e.v0.toNat + 256 * k) 256)) w.2

/-- What a store makes of the line of its cycle k when the line lies in one granule of a region: bytes of the enabled words at the region's
home two cycles later, or one remote write in the cycle itself: to a window on the stream and with the release of the form, to a stripe set on
stream 0 as the plain form would send it (R64, R122, R154, R318, R326, R344). -/
def storesLine (s : State) (core l : Nat) (e : Entry) (m : Word) (g : GridOp) (k stream : Nat) (enc : Bool) (ws : List (Nat × WEff)) : Prop :=
  let kc := coachOf core
  let a := e.v0.toNat + 256 * k
  let data := lineBytes (readLine (s.dat core) (gridNext g k))
  ∀ x, findEntry (s.gangOf kc) (s.mapOf kc e.map) a = some x → a % 4096 + 256 ≤ 4096 →
    (x.home = 1 → ∃ cells units, ws = [(k + 2, .mem cells units)] ∧
      ∀ p, p ∈ cells ↔ ∃ i, i < 256 ∧ m.getLsbD (i / 4) = true ∧ p = ((s.locIn kc x e.ver a).key + i, nthD 0 data i)) ∧
    (x.home = 4 → ws = [(k, .post a m.toNat data stream (orderFlag (strongest (s.parts kc e.map e.v0.toNat (256 * l))) enc))]) ∧
    (x.home = 5 → ws = [(k, .post a m.toNat data 0 (orderFlag (strongest (s.parts kc e.map e.v0.toNat (256 * l))) false))])

/-! ## Numbers (R194 to R205) -/

/-- The number that a finite value stands for (R194). -/
def Val.rat : Val → Rat
  | .fin n m e => (if n then -1 else 1) * m * (2 : Rat) ^ e
  | _ => 0

/-- An encoding of a format is a nonzero number of the given sign, rounded once in a mode (R202): within the range the nearest value in the
direction of the mode, ties to the even fraction; beyond it what the mode and the format give. -/
def Rounded (f : Fmt) (rm : Rm) (neg : Bool) (x : ℝ) (y : Nat) : Prop :=
  let v (z : Nat) : ℝ := (f.decode z).rat
  let fin (z : Nat) : Prop := (f.decode z).isFinite = true
  let big : ℝ := v f.maxEnc
  let infinite : Prop := f.e4 = false ∧
    match rm with
    | .rne => big + (2 : ℝ) ^ ((f.bias : Int) - (f.fb : Int) - 1) ≤ |x|
    | .rz => False
    | .ru => neg = false
    | .rd => neg = true
  (|x| ≤ big → fin y ∧ y < 2 ^ (f.eb + f.fb + 1) ∧ y.testBit (f.eb + f.fb) = neg ∧
    match rm with
    | .rne => ∀ z, fin z → |x - v y| ≤ |x - v z| ∧ (|x - v y| = |x - v z| → v z ≠ v y → y % 2 = 0)
    | .rz => |v y| ≤ |x| ∧ ∀ z, fin z → |v z| ≤ |x| → |v z| ≤ |v y|
    | .ru => x ≤ v y ∧ ∀ z, fin z → x ≤ v z → v y ≤ v z
    | .rd => v y ≤ x ∧ ∀ z, fin z → v z ≤ x → v z ≤ v y) ∧
  (big < |x| → (infinite → y = f.signEnc neg + (f.maxEnc + 1)) ∧ (¬ infinite → y = f.signEnc neg + f.maxEnc))

/-- An integer is a number rounded to an integer in a mode (R201, R202). -/
def RoundedInt (rm : Rm) (x : Rat) (i : Int) : Prop :=
  match rm with
  | .rne => |x - i| ≤ 1 / 2 ∧ (|x - i| = 1 / 2 → i % 2 = 0)
  | .rz => |(i : Rat)| ≤ |x| ∧ |x - i| < 1 ∧ 0 ≤ x * i
  | .ru => i = ⌈x⌉
  | .rd => i = ⌊x⌋

/-! ## Words of single statements -/

/-- The line that dispatches after the one in the focus, once its instructions have left t, is n, where no iteration boundary follows. -/
def NextLine (s t : State) (n : Nat) : Prop :=
  s.atLast = false → (s.ctl s.me).defer = [] → (s.ctl s.me).brk = false → (s.ctl s.me).stand = .running → (s.ctl s.me).flow = none →
    ((t.finishLine s.me s.focus.line s.inHandler).ctl s.me).pc = n

/-- A branch selects the line `off` lines on when its condition holds; otherwise it changes nothing, and the next line is the line after. -/
def Branches (i : Instr) (s : State) (holds : Prop) (off : Int) : Prop :=
  Answers i s fun t =>
    (holds → OnlyCtl s t s.me ∧ SameBytes s t ∧ t.ctl s.me = { s.ctl s.me with flow := some (lineFrom s.focus.line off) } ∧
      NextLine s t (lineFrom s.focus.line off)) ∧
    (¬ holds → t = s ∧ NextLine s t ((s.focus.line + 1) % 2048))

/-- At its boundary level k has taken ITER and LIMIT, TBASE has moved on by the level's II, and the levels that a request has cut are given;
nothing else has changed (R100, R103). -/
def LevelTurns (c x : Ctl) (k iter limit : Nat) (cuts : List Nat) : Prop :=
  x = { c with sr := x.sr, cuts := cuts } ∧
  x.sr.get 0x005 = c.sr.get 0x005 + BitVec.ofNat 64 ((c.sr.get (0x014 + k)).toNat / 2 ^ 22 % 2 ^ 16) ∧
  (x.sr.get (0x010 + k)).toNat = (c.sr.get (0x010 + k)).toNat / 2 ^ 32 * 2 ^ 32 + iter ∧
  (x.sr.get (0x018 + k)).toNat = limit * 2 ^ 32 + (c.sr.get (0x018 + k)).toNat % 2 ^ 32 ∧
  ∀ n, n ≠ 0x005 → n ≠ 0x010 + k → n ≠ 0x018 + k → x.sr.get n = c.sr.get n

/-- Level k has ended: it is active no longer, and nothing else has changed (R100, R106). -/
def LevelEnds (x y : Ctl) (k : Nat) : Prop :=
  y = { x with sr := y.sr, cuts := x.cuts.filter fun i => i != k } ∧
  (∀ i, i < 64 → (y.sr.get (0x014 + k)).getLsbD i = ((x.sr.get (0x014 + k)).getLsbD i && i != 43)) ∧
  ∀ n, n ≠ 0x014 + k → y.sr.get n = x.sr.get n

/-- A loop form starts a level k with COUNT n, or selects the line after its body for a COUNT of 0 (R99, R101, R106). -/
def StartsLevel (i : Instr) (s : State) (pre pipe : Bool) (a b : Reg) (o : BitVec 16) : Prop :=
  let k := (s.ctl s.me).depth
  let n := (s.reg a).toNat % 2 ^ 32
  let last := lineFrom s.focus.line o.toInt
  Answers i s fun t => OnlyCtl s t s.me ∧ SameBytes s t ∧
    (n = 0 → t.ctl s.me = { s.ctl s.me with flow := some ((last + 1) % 2048) }) ∧
    (n ≠ 0 → ∃ lit lcfg lsti : Word,
      t.ctl s.me = { s.ctl s.me with
        flow := some ((s.focus.line + 1) % 2048),
        defer := (s.ctl s.me).defer ++ [(0x010 + k, lit), (0x014 + k, lcfg), (0x018 + k, lsti)] } ∧
      lit.toNat = n * 2 ^ 32 ∧ lsti.toNat = n * 2 ^ 32 ∧
      lcfg.toNat = 2 ^ 43 + b2n pre * 2 ^ 42 + b2n pipe * 2 ^ 41 + (if pipe then (s.reg b).toNat / 2 ^ 16 % 8 else 0) * 2 ^ 38 +
        (s.reg b).toNat % 2 ^ 16 * 2 ^ 22 + (s.focus.line + 1) % 2048 * 2 ^ 11 + last)

/-- A scalar access is started: it joins the core's accesses with its kind, place, size, data, compare value and map, a result that waits for
it joins the pending results, and the core blocks when the access acquires. -/
def StartsAccess (i : Instr) (s : State) (kind : AccKind) (addr : Word) (size : Nat) (data cmp : Word) (dst : Option (Reg × Nat))
    (acq : Bool) : Prop :=
  Answers i s fun t => OnlyCore s { t with uid := s.uid, delays := s.delays } s.me ∧ SameBytes s t ∧ t.uid = s.uid + 1 ∧
    t.eng s.me = s.eng s.me ∧ t.dat s.me = s.dat s.me ∧
    t.ctl s.me = { s.ctl s.me with
      acc := (t.ctl s.me).acc, pend := (t.ctl s.me).pend, fst := (t.ctl s.me).fst, blocks := (t.ctl s.me).blocks,
      hblocks := (t.ctl s.me).hblocks } ∧
    (∃ acc : Access, (t.ctl s.me).acc = (s.ctl s.me).acc ++ [acc] ∧ acc.id = s.uid ∧ acc.kind = kind ∧
      acc.loc = s.scalarLoc s.me addr ∧ acc.size = size ∧ acc.data = data ∧ acc.cmp = cmp ∧ acc.map = s.mapNow s.me ∧
      acc.hnd = s.inHandler ∧ acc.at_ = s.cyc) ∧
    (match dst with
     | some (r, lat) =>
       (t.ctl s.me).pend = if r = 0 then (s.ctl s.me).pend else (s.ctl s.me).pend ++
         [{ reg := r.toNat, sh := s.inHandler && decide (24 ≤ r.toNat), hnd := s.inHandler, left := lat, val := 0, wait := some s.uid }]
     | none => (t.ctl s.me).pend = (s.ctl s.me).pend) ∧
    (let wait : List Block := if acq then [.acquire s.uid] else []
     (s.inHandler = false →
       (t.ctl s.me).hblocks = (s.ctl s.me).hblocks ∧ (t.ctl s.me).blocks = (s.ctl s.me).blocks ++ wait) ∧
     (s.inHandler = true →
       (t.ctl s.me).blocks = (s.ctl s.me).blocks ∧ (t.ctl s.me).hblocks = (s.ctl s.me).hblocks ++ wait))

/-- The new value of an atomic of the table of R172, on n-bit values: old value, b, and the compare value of cas. -/
def atomicTable (op n : Nat) (old b cmp : BitVec n) : BitVec n :=
  match op with
  | 0x0 => b
  | 0x1 => old + b
  | 0x2 => old &&& b
  | 0x3 => old ||| b
  | 0x4 => old ^^^ b
  | 0x5 => if b.slt old then b else old
  | 0x6 => if old.slt b then b else old
  | 0x7 => if b.ult old then b else old
  | 0x8 => if old.ult b then b else old
  | _ => if old = cmp then b else old

/-- Only traffic and one core differ: the core, messages and links, the durations read and the identities used. -/
def OnlyTraffic (s t : State) (core : Nat) : Prop :=
  t = { s with cores := t.cores, net := t.net, links := t.links, delays := t.delays, uid := t.uid } ∧ ∀ c, c ≠ core → t.core c = s.core c

/-- Operation o is what an issue of entry e in queue q starts in a cycle (R162, R186, R294, R327). -/
def IsStarted (o : Op) (e : Entry) (q : Queue) (cyc : Nat) : Prop :=
  o.e = e ∧ o.id = e.id ∧ o.q = q ∧ o.at_ = cyc ∧ o.done = false ∧ o.parts = [] ∧ cyc ≤ o.due

/-- An issue of the entry in the focus starts an operation of queue q, of which p holds, and does nothing else. -/
def StartsOp (i : Instr) (s : State) (q : Queue) (p : Op → Prop) : Prop :=
  ∀ e, s.focus.cur = some e → Answers i s fun t => OnlyCore s { t with delays := s.delays } s.me ∧ SameBytes s t ∧
    ∃ o, t.core s.me = { s.core s.me with eng := { s.eng s.me with ops := (s.eng s.me).ops ++ [o] } } ∧ IsStarted o e q s.cyc ∧ p o

/-- An operation of a core ends: it leaves the core, and its arrival word completes with a value and a status (R164, R165), shown for a word on
which no other operation has completed in the cycle. While no q.sig waits on the core, no other state register changes. -/
def OpEnds (s t : State) (core id : Nat) (aw : BitVec 6) (val stat : Nat) : Prop :=
  (∀ o, o ∈ (t.eng core).ops ↔ o ∈ (s.eng core).ops ∧ o.id ≠ id) ∧ (∀ c, c ≠ core → t.core c = s.core c) ∧
  ((s.eng core).sigs = [] → t.ctl core = { s.ctl core with sr := (t.ctl core).sr, awFirst := (t.ctl core).awFirst } ∧
    (∀ r, r ≠ 0x080 + aw.toNat → (t.ctl core).sr.get r = (s.ctl core).sr.get r) ∧
    ((lookupD (0, 0) (s.ctl core).awFirst aw.toNat).1 ≠ s.cyc + 1 →
      (t.ctl core).sr.get (0x080 + aw.toNat) = awComplete ((s.ctl core).sr.get (0x080 + aw.toNat)) val stat))

/-- One region of a map covers n bytes from an address. -/
def Covers (s : State) (kc map a n : Nat) (r : MapEntry) : Prop :=
  findEntry (s.gangOf kc) (s.mapOf kc map) a = some r ∧ r.home ≠ 5 ∧ r.baseg * 4096 ≤ a ∧ a + n ≤ (r.baseg + r.leng) * 4096

/-- The new pool, the value and the status that a K operation on one sequence pool comes to (R294 to R304). -/
def KGives (s : State) (core : Nat) (i : Instr) (v0 v1 v2 : Word) (f : Pool → Nat → Nat → Pool × Nat × Nat) : Prop :=
  ∀ (n : Nat) (o : Op), (s.eng core).op? n = some o → o.q = .k → o.e.ins = i → o.e.v0 = v0 → o.e.v1 = v1 → o.e.v2 = v2 → o.done = false →
    o.due ≤ s.cyc →
    let die := dieOf (coachOf core)
    let ten := (s.gangOf (coachOf core)).tenant
    let p := v0.toNat / 2 ^ 16
    let d := s.die die
    Answers (.kOperationApply core n) s fun t => SameBytes s t ∧ (∀ c, c ≠ core → t.core c = s.core c) ∧
      (∀ i, i ≠ die → t.die i = s.die i) ∧
      (∀ i, i ≠ poolKey ten p → (t.die die).pool i = d.pool i) ∧
      ∃ x, x ∈ (t.eng core).ops ∧ x.id = n ∧ x.done = true ∧ x.e = o.e ∧
        (2 ^ 18 ≤ v0.toNat ∨ d.poolOn ten p = false → x.val = 0 ∧ x.stat = 7 ∧ t.die die = d) ∧
        (v0.toNat < 2 ^ 18 → d.poolOn ten p = true →
          (t.die die).pool (poolKey ten p) = (f (d.pool (poolKey ten p)) (v0.toNat % 2 ^ 16) (d.otherNodes (poolKey ten p))).1 ∧
          (x.val, x.stat) = (f (d.pool (poolKey ten p)) (v0.toNat % 2 ^ 16) (d.otherNodes (poolKey ten p))).2)

/-- A gang has ended (R21, R22): how it stands, CODE and STATE in its launch record, its busy cycles beside them, and its coaches and
their cores without a context. -/
def GangEnds (s t : State) (gi code st : Nat) (stand : GStand) : Prop :=
  let g := s.gang gi
  (t.gang gi).stand = stand ∧ (∀ c ∈ g.coaches, (s.coach c).gang = some gi → t.coach c = Coach.reset ∧
    ∀ i, coachOf i = c → t.core i = Core.reset) ∧
  (∀ i, coachOf i ∉ g.coaches → t.core i = s.core i) ∧ (∀ i, i ≠ gi → t.gang i = s.gang i) ∧
  (g.recAt = none → SameBytes s t) ∧
  ∀ a, g.recAt = some a → t.mem.num (.dev (gi / 64) (a + 96)) 8 = code * 256 + st ∧
    t.mem.num (.dev (gi / 64) (a + 104)) 8 = g.bused % 2 ^ 48 ∧
    ∀ k, (k < (Loc.dev (gi / 64) (a + 96)).key ∨ (Loc.dev (gi / 64) (a + 120)).key ≤ k) → t.mem.byte k = s.mem.byte k

end Sys2Proof.Machine
end

