-- ==== Sys2Proof/Certificates/Slice0/Obligations.lean ====
section
/-! DEFINITION. The statements for the provers: what the instructions of each family do, what each event of the machine does, and the rules that hold of every step. -/

open Sys2Proof Sys2Proof.Machine

/-- The machine at reset. From the spec: CYC counts from 0 (R5); every coach and core is idle and no die has booted, MR0 to MR7 are zero,
MBXSTS is 0 and no event waits (R385, R386); LIMIT of PCAP is 3200 (R389) and every other host register 0 (R24, R30); the tiles, planes
and softmax state are as at entry (R241). The model's choices: scalar and state registers 0 (log 1), storage 0 (log 2), one package that
stands in the domain, its flash empty (logs 3 and 10), links down. -/
def Obligations.ResetState : Prop :=
  let s := State.reset
  s.cyc = 0 ∧ s.inbox = [] ∧ s.mem.wf = true ∧ (∀ k, s.mem.byte k = 0) ∧ s.present = [0] ∧
  (∀ c, (s.coach c).stand = .idle ∧ (s.coach c).gang = none ∧ (s.coach c).tclk = 0 ∧ (s.coach c).ph.prep = false ∧
    (s.coach c).stepf = 0 ∧ (s.coach c).frozen = false) ∧
  (∀ c, (s.ctl c).stand = .idle ∧ (s.ctl c).blocks = [] ∧ (s.ctl c).hblocks = [] ∧ (∀ r, (s.ctl c).regs.get r = 0) ∧ (∀ n, (s.ctl c).sr.get n = 0) ∧
    (∀ q, (s.eng c).queue q = []) ∧ (s.eng c).run = [] ∧ (s.eng c).ops = []) ∧
  (∀ c n, (s.dat c).grid.get n = 0 ∧ (s.dat c).plane.get n = 0 ∧ (s.dat c).rmx n = 0xFF800000 ∧ (s.dat c).rsmAt n = 0 ∧
    (s.dat c).tiles = List.replicate 4 Tile.reset) ∧
  (∀ d off, (s.die d).regs.get off = if off = 0x6000 then 3200 else 0) ∧
  (∀ d, (s.die d).mgmt.boot = 0 ∧ (s.die d).mgmt.stage = 0 ∧ (s.die d).mgmt.err = false ∧ (s.die d).mgmt.pending = 0 ∧
    (s.die d).mgmt.stages = [] ∧ (s.die d).mgmt.mr = List.replicate 8 (List.replicate 32 0) ∧ (s.die d).hfaq = [] ∧
    ∀ vf, (s.die d).events vf = []) ∧
  (∀ i, (s.link i).up = false ∧ (s.link i).wire = []) ∧ ∀ g, (s.gang g).stand = .done

/-- Words that the spec works out, and what they decode to: R39, R134, R152, R166, R169, R170, R171, R172, the table of R119, and
an engine word of each engine queue (R222, R251, R255, R297, R326, R328; the ld word is the one in lane 2 of the worked line of chapter 03). -/
def Obligations.DecodedWords : Prop :=
  decode .c 0x00611000 none = .ok (.add 3 1 2) ∧ decode .c 0x008531CF none = .ok (.sel 4 5 6 7) ∧
  decode .c 0x20227FFB none = .ok (.cmpi 1 2 1 0x3FFB) ∧ decode .c 0x68850002 none = .ok (.loop 4 5 2) ∧
  decode .c 0x8089C010 none = .ok (.lds 4 9 3 false 16) ∧ decode .c 0x84A9BFFC none = .ok (.sts 5 9 2 true 0x1FFC) ∧
  decode .c 0x88642AE1 none = .ok (.amo 3 4 5 2 3 true 1) ∧ decode .c 0x8C000007 none = .ok (.wfa 7) ∧
  decode .c 0x90000020 none = .ok (.gridShrink 32) ∧ decode .c 0x98000002 none = .ok (.phAdv 0 2) ∧
  decode .c 0xF94B0045 none = .ok (.launch 10 11 true 5) ∧ decode .c 0xFC800000 none = .ok .hret ∧
  decode .l 0x04082802 (some 0x000C1000) = .ok (.ld ⟨.h, 8⟩ 5 2 (some ⟨12, false, false, false, true, 0, 0⟩)) ∧
  decode .m 0x08230001 none = .ok (.mmul false 1 false 6 1 none) ∧ decode .m 0x20914000 none = .ok (.mresc 4 true ⟨.h, 20⟩ 0 none) ∧
  decode .v 0x44420506 none = .ok (.vcmp 0 2 false 2 ⟨.h, 5⟩ ⟨.h, 6⟩ none) ∧
  decode .s 0x10044982 none = .ok (.stStr ⟨.h, 4⟩ 9 3 false 2 none) ∧
  decode .f 0x050C4804 (some 0x00020000) = .ok (.flLd 1 false 12 9 4 ⟨2, 0⟩) ∧
  decode .k 0x04450000 (some 0x00020000) = .ok (.spanOpen 2 5 ⟨2, 0⟩) ∧
  decode .l 0x04082802 (some 0x000C9000) = .error .illegal ∧ decode .c 0xA4A50040 none = .error .reserved

/-- R46, R53 to R65: encoding a well-formed instruction and decoding its words gives the instruction back, with every operand at every
value the encoding admits; every instruction of a queue has words; and words that decode to an instruction are the words of that
instruction, which is well formed: no bit of a word is dropped. -/
def Obligations.DecodeAndEncodeAgree : Prop :=
  (∀ (i : Instr) (w : Words), i.WellFormed → encode i = some w → decode w.q w.first w.cont = .ok i) ∧
  (∀ i : Instr, i.queue?.isSome = true → ∃ w, encode i = some w) ∧
  ∀ (q : Queue) (first : BitVec 32) (cont : Option (BitVec 32)) (i : Instr), decode q first cont = .ok i →
    encode i = some ⟨q, first, cont⟩ ∧ i.WellFormed

/-- R43 to R46, R86, R91: a line that holds one instruction has it as its one part; the step whose event is the dispatch of that line is exec
of the instruction on the core, lane and stage, followed by the end of the line; when the instruction takes a fault, the step is that
fault on the state before the line (R51). In the same way the step whose event is the issue of a queue's head is exec of the head's
instruction with the entry in the focus. -/
def Obligations.StepRunsTheDecodedInstruction : Prop :=
  ∀ (s : State) (pos core : Nat) (again : Bool) (q : Queue) (w : Cell32) (k : Cell32) (i : Instr), s.inbox = [] → i.queue? = some q →
    let s1 : State := { s with turn := if again then pos else pos + 1 }
    let c := s.ctl core
    let line := c.pc
    let stage := s.header core line % 8
    (∀ l, l < 2048 → (∀ j, 3 ≤ j → j < 8 → s.laneWord core l j = 0) →
      (lenClass q w ≠ .long → s.header core l = q.tag * 16 → s.laneWord core l 1 = w → s.laneWord core l 2 = 0 →
        s.parts43 core l = [.item { lane := 1, half := false, q := q, w := w, ins := decode q w none }]) ∧
      (lenClass q w ≠ .short → s.header core l = q.tag * 16 + 0x800 → s.laneWord core l 1 = w → s.laneWord core l 2 = k →
        s.parts43 core l = [.item { lane := 1, half := false, q := q, w := w, ins := decode q w (some k) }])) ∧
    (∀ it : Item, s.nextEvent = some ⟨pos, again, .lineDispatch core⟩ → s.coreLive core = true → c.handlerPending = false →
      c.streamBlocks = [] → c.accessHolds = false → it.q = q → it.ins = .ok i → s.parts43 core line = [.item it] →
      s.illegalAt core line [.item it] = none → (q = .c ∨ c.stageOn line stage = true) →
      s.stalls core [it] = false → s.lineBlocks core [it] = false → (∀ m l a b, i = .rput m l a b → m.toNat ≠ core % 8) →
      ∃ u, exec i (s1.focusOn core line stage it) = .next u ∧
        ((u.ctl core).own = false → step s = .next (u.finishLine core line c.inHandler)) ∧
        ((u.ctl core).own = true → step s =
          .next (s1.raise core (fld ((u.ctl core).sr.get 0x040) 0 8) ((u.ctl core).sr.get 0x041)))) ∧
    (∀ (e : Entry) (rest : List Entry), s.nextEvent = some ⟨pos, again, .timedIssue core q⟩ → s.takesPlace (coachOf core) = true →
      (s.coach (coachOf core)).opened = some s.cyc → (s.coach (coachOf core)).due.contains (core * 8 + q.tag) = true →
      s.tokenMode core = false → e.part = false → (s.eng core).queue q = e :: rest → e.ins = i →
      let s2 := (s1.setCoach (coachOf core) { s.coach (coachOf core) with
          due := (s.coach (coachOf core)).due.filter fun d => d != core * 8 + q.tag }).setCore core
        { s.core core with ctl := c.pops (popsOf q i), eng := (s.eng core).setQueue q rest }
      ∃ u, exec i (s2.focusEntry core e) = .next u ∧
        step s = .next (({ u with focus := { u.focus with cur := none } } : State).bareRun core q e))

/-- Every instruction and every event answers a next state in every state: what the spec calls a fault is taken as an exception. A step
answers a next state, or faults as noSuchPart when the event from outside that is its turn names a die that no domain has; it never
refuses. R4 gives the dies that a domain has; that the machine stops there, under that name, is the model's choice (log 81). -/
def Obligations.NoInstructionStops : Prop :=
  (∀ (i : Instr) (s : State), ∃ t, exec i s = .next t) ∧
  ∀ s : State, (∃ t, step s = .next t) ∨
    (step s = .fault .noSuchPart ∧ ∃ i rest, s.inbox = i :: rest ∧ 384 ≤ namedDie i)

/-- Every step keeps the canonical form of storage: addresses strictly rising, and no entry equal to what an unlisted address reads as. -/
def Obligations.MemoryStaysCanonical : Prop :=
  ∀ s t : State, s.mem.wf = true → step s = .next t → t.mem.wf = true

/-- R5: CYC goes up by one with the clock advance, which comes when no event from outside waits and the cycle's agenda is done, and no
other step changes it. -/
def Obligations.TheClockCounts : Prop :=
  ∀ s t : State, step s = .next t → t.cyc = if s.inbox = [] ∧ s.nextEvent = none then s.cyc + 1 else s.cyc

/-- R108: each instruction of the ALU group, by its word: what it is decoded to, the value the table states for its register, after the
table's latency in lines, and nothing else changed; and the uses that are illegal (FCODE 0x02) or reserved (FCODE 0x03). -/
def Obligations.RegisterArithmeticResults : Prop :=
  ∀ (d a b c : Reg) (s : State),
    let word (x : Reg) (f : BitVec 6) : Cell32 := 0x00#6 ++ d ++ a ++ b ++ x ++ f
    Reject.illegal.fcode = 0x02 ∧ Reject.reserved.fcode = 0x03 ∧
    decode .c (word 0 0x00) none = .ok (.add d a b) ∧ decode .c (word 0 0x01) none = .ok (.sub d a b) ∧
    decode .c (word 0 0x02) none = .ok (.mul d a b) ∧ decode .c (word 0 0x03) none = .ok (.mulh d a b) ∧
    decode .c (word 0 0x04) none = .ok (.mulhn d a b) ∧ decode .c (word 0 0x05) none = .ok (.div d a b) ∧
    decode .c (word 0 0x06) none = .ok (.rem d a b) ∧ decode .c (word 0 0x07) none = .ok (.and d a b) ∧
    decode .c (word 0 0x08) none = .ok (.or d a b) ∧ decode .c (word 0 0x09) none = .ok (.xor d a b) ∧
    decode .c (word 0 0x0A) none = .ok (.shl d a b) ∧ decode .c (word 0 0x0B) none = .ok (.shr d a b) ∧
    decode .c (word 0 0x0C) none = .ok (.sra d a b) ∧ decode .c (word 0 0x0D) none = .ok (.min d a b) ∧
    decode .c (word 0 0x0E) none = .ok (.max d a b) ∧ decode .c (word c 0x0F) none = .ok (.sel d a b c) ∧
    decode .c (word 0 0x10) none = .ok (.cmpeq d a b) ∧ decode .c (word 0 0x11) none = .ok (.cmplt d a b) ∧
    decode .c (word 0 0x12) none = .ok (.cmplo d a b) ∧
    decode .c (word 0 0x13) none = (if b = 0 then .ok (.clz d a) else .error .illegal) ∧
    decode .c (word 0 0x14) none = (if b = 0 then .ok (.pop d a) else .error .illegal) ∧
    (∀ f : BitVec 6, c ≠ 0 → f ≠ 0x0F → f.toNat ≤ 0x14 → decode .c (word c f) none = .error .illegal) ∧
    (∀ f : BitVec 6, 0x14 < f.toNat → decode .c (word c f) none = .error .reserved) ∧
    GivesResult (.add d a b) s d 1 (s.reg a + s.reg b) ∧
    GivesResult (.sub d a b) s d 1 (s.reg a - s.reg b) ∧
    GivesResult (.mul d a b) s d 2 (s.reg a * s.reg b) ∧
    GivesResult (.mulh d a b) s d 2 (((s.reg a).signExtend 128 * (s.reg b).signExtend 128).extractLsb' 64 64) ∧
    GivesResult (.mulhn d a b) s d 2 (((s.reg a).setWidth 128 * (s.reg b).setWidth 128).extractLsb' 64 64) ∧
    GivesResult (.div d a b) s d 12 (if s.reg b = 0 then BitVec.allOnes 64 else (s.reg a).sdiv (s.reg b)) ∧
    GivesResult (.rem d a b) s d 12 (if s.reg b = 0 then s.reg a else (s.reg a).srem (s.reg b)) ∧
    GivesResult (.and d a b) s d 1 (s.reg a &&& s.reg b) ∧
    GivesResult (.or d a b) s d 1 (s.reg a ||| s.reg b) ∧
    GivesResult (.xor d a b) s d 1 (s.reg a ^^^ s.reg b) ∧
    GivesResult (.shl d a b) s d 1 (s.reg a <<< ((s.reg b).toNat % 64)) ∧
    GivesResult (.shr d a b) s d 1 (s.reg a >>> ((s.reg b).toNat % 64)) ∧
    GivesResult (.sra d a b) s d 1 ((s.reg a).sshiftRight ((s.reg b).toNat % 64)) ∧
    GivesResult (.min d a b) s d 1 (if (s.reg b).slt (s.reg a) then s.reg b else s.reg a) ∧
    GivesResult (.max d a b) s d 1 (if (s.reg a).slt (s.reg b) then s.reg b else s.reg a) ∧
    GivesResult (.sel d a b c) s d 1 (if s.reg c ≠ 0 then s.reg a else s.reg b) ∧
    GivesResult (.cmpeq d a b) s d 1 (if s.reg a = s.reg b then 1 else 0) ∧
    GivesResult (.cmplt d a b) s d 1 (if (s.reg a).slt (s.reg b) then 1 else 0) ∧
    GivesResult (.cmplo d a b) s d 1 (if (s.reg a).ult (s.reg b) then 1 else 0) ∧
    GivesResult (.clz d a) s d 1 (BitVec.ofNat 64 (if s.reg a = 0 then 64 else 63 - (s.reg a).toNat.log2)) ∧
    GivesResult (.pop d a) s d 1 (BitVec.ofNat 64 ((List.range 64).countP fun i => (s.reg a).getLsbD i))

/-- R109: the immediate forms, by their words: what each is decoded to, what it gives its register after one line, and that nonzero
imm16 bits 15:6 in a shift are illegal (FCODE 0x02). -/
def Obligations.ImmediateForms : Prop :=
  ∀ (d a : Reg) (imm : BitVec 16) (s : State),
    decode .c (0x01#6 ++ d ++ a ++ imm) none = .ok (.addi d a imm) ∧ GivesResult (.addi d a imm) s d 1 (s.reg a + imm.signExtend 64) ∧
    decode .c (0x02#6 ++ d ++ a ++ imm) none = .ok (.andi d a imm) ∧ GivesResult (.andi d a imm) s d 1 (s.reg a &&& imm.setWidth 64) ∧
    decode .c (0x03#6 ++ d ++ a ++ imm) none = .ok (.ori d a imm) ∧ GivesResult (.ori d a imm) s d 1 (s.reg a ||| imm.setWidth 64) ∧
    decode .c (0x04#6 ++ d ++ a ++ imm) none = .ok (.xori d a imm) ∧ GivesResult (.xori d a imm) s d 1 (s.reg a ^^^ imm.setWidth 64) ∧
    Reject.illegal.fcode = 0x02 ∧
    (if imm.toNat < 64 then
      decode .c (0x05#6 ++ d ++ a ++ imm) none = .ok (.shli d a (imm.setWidth 6)) ∧
        GivesResult (.shli d a (imm.setWidth 6)) s d 1 (s.reg a <<< imm.toNat) ∧
      decode .c (0x06#6 ++ d ++ a ++ imm) none = .ok (.shri d a (imm.setWidth 6)) ∧
        GivesResult (.shri d a (imm.setWidth 6)) s d 1 (s.reg a >>> imm.toNat) ∧
      decode .c (0x07#6 ++ d ++ a ++ imm) none = .ok (.srai d a (imm.setWidth 6)) ∧
        GivesResult (.srai d a (imm.setWidth 6)) s d 1 ((s.reg a).sshiftRight imm.toNat)
    else
      decode .c (0x05#6 ++ d ++ a ++ imm) none = .error .illegal ∧
      decode .c (0x06#6 ++ d ++ a ++ imm) none = .error .illegal ∧
      decode .c (0x07#6 ++ d ++ a ++ imm) none = .error .illegal)

/-- R110, R111: cmpi by its kind, li and lih, by their words; kind 3 of cmpi is a reserved code (FCODE 0x03). -/
def Obligations.CompareImmediateAndLoadImmediate : Prop :=
  ∀ (d a : Reg) (kind : BitVec 2) (v : BitVec 14) (imm : BitVec 21) (s : State),
    Reject.reserved.fcode = 0x03 ∧
    decode .c (0x08#6 ++ d ++ a ++ kind ++ v) none = (if kind = 3 then .error .reserved else .ok (.cmpi d a kind v)) ∧
    GivesResult (.cmpi d a 0 v) s d 1 (if s.reg a = v.signExtend 64 then 1 else 0) ∧
    GivesResult (.cmpi d a 1 v) s d 1 (if (s.reg a).slt (v.signExtend 64) then 1 else 0) ∧
    GivesResult (.cmpi d a 2 v) s d 1 (if (s.reg a).ult (v.signExtend 64) then 1 else 0) ∧
    decode .c (0x09#6 ++ d ++ imm) none = .ok (.li d imm) ∧ GivesResult (.li d imm) s d 1 (imm.signExtend 64) ∧
    decode .c (0x0A#6 ++ d ++ imm) none = .ok (.lih d imm) ∧ GivesResult (.lih d imm) s d 1 ((s.reg d <<< 21) ||| imm.setWidth 64)

/-- R112: id and cyc, by their words: the identifiers that the six selectors name (R36), CYC as of the line's dispatch, after one line;
sa must be 0, and the selectors from 6 on are reserved codes. That sa decides first where both are wrong is the model's reading (log 42). -/
def Obligations.IdentifiersAndCycle : Prop :=
  ∀ (d a : Reg) (sel : BitVec 16) (s : State),
    Reject.reserved.fcode = 0x03 ∧
    (sel.toNat < 6 → decode .c (0x0B#6 ++ d ++ 0#5 ++ sel) none = .ok (.id d sel)) ∧
    (6 ≤ sel.toNat → decode .c (0x0B#6 ++ d ++ 0#5 ++ sel) none = .error .reserved) ∧
    (a ≠ 0 → decode .c (0x0B#6 ++ d ++ a ++ sel) none = .error .illegal) ∧
    GivesResult (.id d 0) s d 1 (BitVec.ofNat 64 (s.me % 8)) ∧
    GivesResult (.id d 1) s d 1 (BitVec.ofNat 64 (s.me / 8 % 2)) ∧
    GivesResult (.id d 2) s d 1 (BitVec.ofNat 64 (s.coach (s.me / 16)).lco) ∧
    GivesResult (.id d 3) s d 1
      (BitVec.ofNat 64 ((s.coach (s.me / 16)).lco / ((s.gangOf (s.me / 16)).ncoach / (s.gangOf (s.me / 16)).ndie))) ∧
    GivesResult (.id d 4) s d 1 (BitVec.ofNat 64 (s.gangOf (s.me / 16)).ncoach) ∧
    GivesResult (.id d 5) s d 1 (BitVec.ofNat 64 (s.gangOf (s.me / 16)).ndie) ∧
    decode .c (0x0C#6 ++ d ++ 0#21) none = .ok (.cyc d) ∧
    (∀ r : BitVec 21, r ≠ 0 → decode .c (0x0C#6 ++ d ++ r) none = .error .illegal) ∧
    GivesResult (.cyc d) s d 1 (BitVec.ofNat 64 s.cyc)

/-- R115: the six conditional branches, by their words: the conditions; the next line is n + off16 when the condition holds, and otherwise
nothing changes and the next line is n + 1. (In the LAST line of the innermost level they raise the loop fault of R100, O51.) -/
def Obligations.ConditionalBranches : Prop :=
  ∀ (a b : Reg) (o : BitVec 16) (s : State),
    decode .c (0x14#6 ++ a ++ b ++ o) none = .ok (.beq a b o) ∧
    decode .c (0x15#6 ++ a ++ b ++ o) none = .ok (.bne a b o) ∧
    decode .c (0x16#6 ++ a ++ b ++ o) none = .ok (.blt a b o) ∧
    decode .c (0x17#6 ++ a ++ b ++ o) none = .ok (.bge a b o) ∧
    decode .c (0x18#6 ++ a ++ b ++ o) none = .ok (.blo a b o) ∧
    decode .c (0x19#6 ++ a ++ b ++ o) none = .ok (.bhs a b o) ∧
    (s.atLast = false →
      Branches (.beq a b o) s (s.reg a = s.reg b) o.toInt ∧
      Branches (.bne a b o) s (s.reg a ≠ s.reg b) o.toInt ∧
      Branches (.blt a b o) s ((s.reg a).toInt < (s.reg b).toInt) o.toInt ∧
      Branches (.bge a b o) s ((s.reg b).toInt ≤ (s.reg a).toInt) o.toInt ∧
      Branches (.blo a b o) s ((s.reg a).toNat < (s.reg b).toNat) o.toInt ∧
      Branches (.bhs a b o) s ((s.reg b).toNat ≤ (s.reg a).toNat) o.toInt)

/-- R100 to R103: the boundary that follows a line. A line that is not the LAST of the innermost level has none. At the LAST, ITER goes up by
one and TBASE by II; a plain level goes on at FIRST while ITER is below LIMIT, and with a pending request at a pre-emption point the core
stops there; a pipelined level takes LIMIT := ITER at its first boundary with a pending request, goes on while ITER is at most LIMIT + S - 2,
and stops the core, still active, when a pass so cut ends below COUNT; any other level ends and the boundary of the level around it follows
for the same line, or the next line is LAST + 1. A plain level that lbrk ends takes no iteration. A cut pass starts anew on resumption at
STARTIT = LIMIT. That a later boundary of the same pass leaves LIMIT as cut (log 89), and that of an ended level only ACTIVE changes (log 82),
are the model's. -/
def Obligations.IterationBoundary : Prop :=
  ∀ (c : Ctl) (req : Bool) (line next f k : Nat), (∀ j, j < 4 → c.levelActive j = decide (j ≤ k)) → k < 4 →
    let cfg := (c.sr.get (0x014 + k)).toNat
    let plain := cfg / 2 ^ 41 % 2 = 0
    let pre := req && decide (cfg / 2 ^ 42 % 2 = 1)
    let first := cfg / 2 ^ 11 % 2048
    let stages := cfg / 2 ^ 38 % 8 + 1
    let iter := (c.sr.get (0x010 + k)).toNat % 2 ^ 32 + 1
    let count := (c.sr.get (0x010 + k)).toNat / 2 ^ 32
    let old := (c.sr.get (0x018 + k)).toNat / 2 ^ 32
    let limit := if ¬ plain ∧ pre = true then min old iter else old
    let cuts := if ¬ plain ∧ pre = true ∧ k ∉ c.cuts then c.cuts ++ [k] else c.cuts
    let b := boundary req line (f + 1) c next
    (∀ c0 : Ctl, (∀ j, j < 4 → c0.levelActive j = false) → boundary req line (f + 1) c0 next = ⟨c0, next, false⟩) ∧
    (c.brk = true → ∃ y, LevelEnds c y k ∧ b = boundary req line f { y with brk := false } ((cfg + 1) % 2048)) ∧
    (c.brk = false → cfg % 2048 ≠ line → b = ⟨c, next, false⟩) ∧
    (c.brk = false → cfg % 2048 = line → iter < 2 ^ 32 → ∃ x y, LevelTurns c x k iter limit cuts ∧ LevelEnds x y k ∧
      (plain → b = if iter < old then ⟨x, first, pre⟩ else boundary req line f y ((line + 1) % 2048)) ∧
      (¬ plain → b =
        if iter + 2 ≤ limit + stages then ⟨x, first, false⟩
        else if limit < count ∧ k ∈ cuts then ⟨x, first, true⟩
        else boundary req line f y ((line + 1) % 2048))) ∧
    (¬ plain → k ∈ c.cuts → old < count → old + stages < iter + 1 → ∃ v : Word, v.toNat = count * 2 ^ 32 + old ∧
      c.newPass.sr.get (0x010 + k) = v ∧ c.newPass.sr.get (0x018 + k) = v ∧
      (∀ n, n ≠ 0x010 + k → n ≠ 0x018 + k → c.newPass.sr.get n = c.sr.get n) ∧
      c.newPass = { c with sr := c.newPass.sr, cuts := c.cuts.filter fun i => i != k })

/-- R361, R362: a core that raises a fault of its own records it with OWN 1, its own number and its logical coach, and FADDR as given; its
coach stops; the gang takes the fault as its first when it has none. A step-spoiling fault while the gang is held begins a new stop, whose coaches
are saved anew (R379). Every other core, every register but FCODE and FADDR, the engine
and data sides of the core and every byte stay as they are. A core that has raised a fault in the stop keeps its record. -/
def Obligations.RaisedFaultIsRecorded : Prop :=
  ∀ (s : State) (c code : Nat) (a : Word), code < 256 →
    let t := s.raise c code a
    let w : Nat := 2 ^ 24 + c % 16 * 2 ^ 20 + (s.coach (c / 16)).lco % 4096 * 2 ^ 8 + code
    ((s.ctl c).own = true → t = s) ∧
    ((s.ctl c).own = false →
      ((t.ctl c).sr.get 0x040).toNat = w ∧ (t.ctl c).sr.get 0x041 = a ∧ (t.ctl c).own = true ∧
      t.ctl c = { s.ctl c with sr := (t.ctl c).sr, own := true } ∧
      (∀ n, n ≠ 0x040 → n ≠ 0x041 → (t.ctl c).sr.get n = (s.ctl c).sr.get n) ∧
      t.eng c = s.eng c ∧ t.dat c = s.dat c ∧ (∀ i, i ≠ c → t.core i = s.core i) ∧ SameBytes s t ∧
      ((∀ g, (s.coach (c / 16)).gang = some g → (s.gang g).stand ≠ .held ∨ spoils code = false) →
        (t.coach (c / 16)).stand = (s.coach (c / 16)).stand.stopped) ∧
      (∀ g, (s.coach (c / 16)).gang = some g → (s.gang g).stand = .held → spoils code = true → (t.gang g).stand = .stopping ∧
        ∀ i ∈ (s.gang g).coaches, (s.coach i).stand = .saved → (t.coach i).stand = .drained) ∧
      (∀ g, (s.coach (c / 16)).gang = some g → (s.gang g).fault = none →
        (t.gang g).fault = some (BitVec.ofNat 64 w) ∧ (t.gang g).faultAt = s.cyc))

/-- R376: trap, by its word: it raises the precise fault 0x80 with its code in FADDR 63:48; a line whose first instruction is a trap
dispatches nothing: the core takes the fault on the state before the line. -/
def Obligations.TrapIsAPreciseFault : Prop :=
  ∀ (code : BitVec 16) (x : Reg) (core lane : Nat) (half : Bool) (w : Cell32) (rest : List Item) (s : State),
    decode .c 0xFC400012#32 none = .ok (.trap 0x12) ∧
    decode .c (0x3F#6 ++ 0x02#5 ++ 0#5 ++ code) none = .ok (.trap code) ∧
    Reject.illegal.fcode = 0x02 ∧ (x ≠ 0 → decode .c (0x3F#6 ++ 0x02#5 ++ x ++ code) none = .error .illegal) ∧
    (s.atLast = false → TakesFault (.trap code) s 0x80 (s.place52 ||| mkFld 48 16 code.toNat)) ∧
    (s.coreLive core = true → (s.ctl core).streamBlocks = [] → (s.ctl core).accessHolds = false →
      s.illegalAt core (s.ctl core).pc (s.parts43 core (s.ctl core).pc) = none →
      (let is := (s.ctl core).enabled (s.ctl core).pc (s.header core (s.ctl core).pc % 8) (itemsOf (s.parts43 core (s.ctl core).pc))
       s.stalls core is = false ∧ s.lineBlocks core is = false) →
      itemsOf (s.parts43 core (s.ctl core).pc) = { lane := lane, half := half, q := .c, w := w, ins := .ok (.trap code) } :: rest →
      (s.focusOn core (s.ctl core).pc 0 { lane := lane, half := half, q := .c, w := w, ins := .ok (.trap code) }).atLast = false →
      exec (.lineDispatch core) s =
        .next (s.raise core 0x80 (placeAt52 (s.ctl core).pc lane half ||| mkFld 48 16 code.toNat)))

/-- R117, R166, R169, R350, R351, R371: the instructions that block the control core: what each waits for, and nothing else; step.begin also
has the line after its own recorded as the core's restart line. That the record stands from the dispatch of step.begin on, before the copies
are done, is the model's reading (log 19). -/
def Obligations.BlockingInstructions : Prop :=
  ∀ (k : BitVec 6) (n : BitVec 16) (sc : BitVec 3) (s : State),
    (s.inHandler = false →
      BlocksOn (.wfa k) s (.wfa k.toNat) ∧ BlocksOn (.qWait .c n none) s (.qWait n.toNat (s.eng s.me).wordOps) ∧
      (ChangesCtl (.bar sc) s fun c => { c with
        nbar := setNth c.nbar sc.toNat (nthD 0 c.nbar sc.toNat + 1),
        blocks := c.blocks ++ [.bar sc.toNat (nthD 0 c.nbar sc.toNat) (s.relSet s.me sc.toNat)] }) ∧
      ((s.coach (coachOf s.me)).ph.prep = true → TakesFault .stepBegin s 0x81 (s.place52 ||| mkFld 16 4 1)) ∧
      ((s.coach (coachOf s.me)).ph.prep = false → (s.coach (coachOf s.me)).stepOpen = true → (s.ctl s.me).inStep = true →
        Answers .stepBegin s fun t => t = s) ∧
      ((s.coach (coachOf s.me)).ph.prep = false → (s.coach (coachOf s.me)).stepOpen = false ∨ (s.ctl s.me).inStep = false →
        Answers .stepBegin s fun t => t = { s with cores := t.cores, gangs := t.gangs } ∧ SameBytes s t ∧
          (∀ i, i ≠ s.me → t.core i = s.core i) ∧
          t.core s.me = { s.core s.me with ctl := { s.ctl s.me with blocks := (s.ctl s.me).blocks ++ [.stepBegin] } } ∧
          (∀ gi, (s.coach (coachOf s.me)).gang ≠ some gi → t.gang gi = s.gang gi) ∧
          ∀ gi, (s.coach (coachOf s.me)).gang = some gi →
            t.gang gi = { s.gang gi with restarts := (t.gang gi).restarts } ∧
            ∀ x, lookup? (t.gang gi).restarts x =
              if x = (s.coach (coachOf s.me)).lco * 16 + s.me % 16 then some ((s.focus.line + 1) % 2048)
              else lookup? (s.gang gi).restarts x)) ∧
    (s.inHandler = true → BlocksOn .hret s .hret) ∧
    (s.inHandler = false → TakesFault .hret s 0x35 s.place52) ∧
    (sc.toNat ≠ 5 ∨ flag ((s.ctl s.me).sr.get 0x051) 0 = true → BlocksOn (.fenceSc sc) s (.fence (s.relSet s.me sc.toNat)))

/-- R170 to R172, R344, R346: lds, sts and amo start their access when the checks of their operand pass, with their place, size, data
and latency, and an amo with the value of sd as the compare value of its cas; an acquire, as encoded or by its region's kind, blocks the core. A misaligned address raises a scalar-alignment fault. -/
def Obligations.ScalarAccessesStart : Prop :=
  ∀ (d v a b : Reg) (z : BitVec 2) (q w : Bool) (o : BitVec 13) (sc : BitVec 3) (od : BitVec 2) (p : BitVec 4) (s : State),
    let addr := s.reg a + o.signExtend 64
    let size := 2 ^ z.toNat
    (s.scalarCheck addr size false = none →
      StartsAccess (.lds d a z q o) s .load addr size 0 0 (some (d, 3)) (orderFlag (s.ordOf s.me addr) q)) ∧
    (s.scalarCheck addr size true = none → StartsAccess (.sts v a z q o) s .store addr size (s.reg v) 0 none false) ∧
    (s.scalarCheck (s.reg a) (if w then 8 else 4) true = none → s.domOk sc.toNat = true →
      StartsAccess (.amo d a b sc od w p) s (.amo p.toNat) (s.reg a) (if w then 8 else 4) (s.reg b) (s.reg d) (some (d, 4))
        (orderFlag (s.ordOf s.me (s.reg a)) (od.getLsbD 0))) ∧
    (addr.toNat % size ≠ 0 →
      TakesFault (.lds d a z q o) s 0x34 (s.place ||| mkFld 0 48 addr.toNat) ∧
      TakesFault (.sts v a z q o) s 0x34 (s.place ||| mkFld 0 48 addr.toNat)) ∧
    ((s.reg a).toNat % (if w then 8 else 4) ≠ 0 →
      TakesFault (.amo d a b sc od w p) s 0x34 (s.place ||| mkFld 0 48 (s.reg a).toNat))

/-- R149, R171 to R173: when the oldest access of a core may perform, it completes: an lds changes no byte and its result is the bytes read,
zero-extended, as they stood at the start of the cycle under what its own core has written in it; an sts writes its low bytes at its place;
an amo writes the table's new value and its result is the old value (that cas compares at the size of the access is the model's choice, log
87). With no shift under way, every byte outside the access keeps its value. The access leaves the core's list, and a block that waits for
it ends. In SRAM it takes the scalar slot of its block (R146). That a slot serves one access a cycle, and that a core sees its own writes of the
cycle, are the model's reading (log 69). -/
def Obligations.ScalarAccessCompletes : Prop :=
  ∀ (core : Nat) (acc : Access) (s : State), s.accessReady core = some acc → (s.coach (coachOf core)).ph.prep = false →
    acc.size ≤ 8 →
    Answers (.scalarAccessComplete core acc.id) s fun t =>
      let view := if acc.kind = .load then s.was.writeCells (s.ctl core).wrote else s.mem
      let old := view.num acc.loc acc.size
      (∀ x ∈ (t.ctl core).acc, x.id ≠ acc.id) ∧ .acquire acc.id ∉ (t.ctl core).blocks ∧ .acquire acc.id ∉ (t.ctl core).hblocks ∧
      (∀ i, i ≠ core → t.core i = s.core i) ∧ t.dat core = s.dat core ∧
      (∀ k, k < acc.loc.key ∨ acc.loc.key + acc.size ≤ k → t.mem.byte k = s.mem.byte k) ∧
      (∀ c o, acc.loc = .sram c o → t.scalarFree acc.loc = false) ∧
      (acc.kind = .load → SameBytes s t) ∧
      (acc.kind = .store → t.mem.num acc.loc acc.size = acc.data.toNat % 2 ^ (8 * acc.size)) ∧
      (∀ op, acc.kind = .amo op → t.mem.num acc.loc acc.size =
        (atomicTable op (8 * acc.size) (BitVec.ofNat _ old) (BitVec.ofNat _ acc.data.toNat) (BitVec.ofNat _ acc.cmp.toNat)).toNat) ∧
      (∀ p, (s.ctl core).pend = [p] → p.wait = some acc.id → p.left = 0 → acc.kind ≠ .store → p.hnd = true ∨ (s.ctl core).inHandler = false →
        (t.ctl core).regs.get (regKey p.sh p.reg) = BitVec.ofNat 64 old)

/-- R41, R117, R118, R377: yield stops the core only while a pre-emption request is pending; exit leaves no unissued entry, and the core
waits for its release set at scope ten; a control-queue q.sig registers on its word and waits for the accesses and results so far. That it
waits for the results of its own stream only, the handler's or the main line's, is the model's reading (log 41). -/
def Obligations.YieldExitAndSignal : Prop :=
  ∀ (x : Reg) (aw : BitVec 6) (s : State),
    (s.inHandler = false → s.atLast = false →
      ((s.coach (coachOf s.me)).preReq = true → ChangesCtl .yield s fun c => { c with stand := .stopped }) ∧
      ((s.coach (coachOf s.me)).preReq = false → Answers .yield s fun t => t = s) ∧
      Answers (.exit x) s fun t =>
        (∃ r, (t.ctl s.me).stand = .exiting r ∧ r.acc = (s.ctl s.me).acc.map (·.id)) ∧
        t.ctl s.me = { s.ctl s.me with stand := (t.ctl s.me).stand } ∧ (∀ q, (t.eng s.me).queue q = []) ∧
        (t.eng s.me).run = (s.eng s.me).run ∧ (t.eng s.me).ops = (s.eng s.me).ops ∧ (∀ i, i ≠ s.me → t.core i = s.core i) ∧
        SameBytes s t ∧ (s.reg x = 0 → t = { s with cores := t.cores }) ∧
        (∀ g, s.reg x ≠ 0 → (s.coach (coachOf s.me)).gang = some g → ((s.die (g / 64)).events (s.gang g).tenant).length < 64 →
          ∃ w, (t.die (g / 64)).events (s.gang g).tenant = (s.die (g / 64)).events (s.gang g).tenant ++ [(w, s.reg x)] ∧
            flag w 63 = true ∧ fld w 60 2 = 0)) ∧
    Answers (.qSig .c aw none) s fun t =>
      (t.ctl s.me).sr.get (0x080 + aw.toNat) = awRegister ((s.ctl s.me).sr.get (0x080 + aw.toNat)) ∧
      (∀ n, n ≠ 0x080 + aw.toNat → (t.ctl s.me).sr.get n = (s.ctl s.me).sr.get n) ∧
      (∃ g : Sig, (t.eng s.me).sigs = (s.eng s.me).sigs ++ [g] ∧ g.aw = aw.toNat ∧ g.hnd = s.inHandler ∧
        (∀ i, i ∈ g.acc ↔ (∃ x ∈ (s.ctl s.me).acc, x.id = i) ∨
          ∃ p ∈ (s.ctl s.me).pend, p.hnd = s.inHandler ∧ p.wait = some i) ∧
        ∀ p ∈ (s.ctl s.me).pend, p.hnd = s.inHandler → p.left ≤ g.left) ∧
      (∀ i, i ≠ s.me → t.core i = s.core i) ∧ SameBytes s t

/-- R40, R152, R244, R265: grid.shrink puts the new allotment into GALLOC from the next line on, or raises an operand fault above the
allotment; fmt.push and kg.set take a word or a pair that their rules admit, and fault otherwise; launch blocks the core with its answer
pending. -/
def Obligations.ShrinkPushKnotsAndLaunch : Prop :=
  ∀ (n : BitVec 7) (d a b r : Reg) (y w : Bool) (k : BitVec 6) (s : State), s.inHandler = false →
    (s.galloc s.me < n.toNat → TakesFault (.gridShrink n) s 0x33 (s.place ||| mkFld 0 48 n.toNat)) ∧
    (n.toNat = s.galloc s.me → Answers (.gridShrink n) s fun t => t = s) ∧
    (n.toNat < s.galloc s.me → Answers (.gridShrink n) s fun t =>
      t.ctl s.me = { s.ctl s.me with defer := (s.ctl s.me).defer ++ [(0x002, BitVec.ofNat 64 n.toNat)] } ∧
      (∀ q, (t.eng s.me).queue q = (s.eng s.me).queue q) ∧
      ((s.eng s.me).shr = [] →
        (∀ key, key < n.toNat * 64 → (t.dat s.me).grid.get key = (s.dat s.me).grid.get key) ∧
        ((s.eng s.me).naming n.toNat = [] → ∀ key, n.toNat * 64 ≤ key → (t.dat s.me).grid.get key = 0) ∧
        ((s.eng s.me).naming n.toNat ≠ [] → t.dat s.me = s.dat s.me)) ∧
      (t.dat s.me).plane = (s.dat s.me).plane ∧ OnlyCore s t s.me ∧ SameBytes s t) ∧
    (fwPushOk (s.reg a) = true → Answers (.fmtPush a y) s fun t =>
      (t.dat s.me).fifo y = (s.dat s.me).fifo y ++ [s.reg a] ∧ (t.dat s.me).fifo (!y) = (s.dat s.me).fifo (!y) ∧
      (t.dat s.me).grid = (s.dat s.me).grid ∧ (t.dat s.me).plane = (s.dat s.me).plane ∧ t.ctl s.me = s.ctl s.me ∧
      t.eng s.me = s.eng s.me ∧ OnlyCore s t s.me ∧ SameBytes s t) ∧
    (fwPushOk (s.reg a) = false → TakesFault (.fmtPush a y) s 0x51 (s.place ||| mkFld 0 48 ((s.reg a).toNat % 2 ^ 48))) ∧
    (knotsOk (s.reg a) (s.reg b) = true → ChangesCtl (.kgSet r a b) s fun c =>
      { c with defer := c.defer ++ [(0x0E0 + r.toNat, s.reg a)] ++ [(0x0E4 + r.toNat, s.reg b)] }) ∧
    (knotsOk (s.reg a) (s.reg b) = false → TakesFault (.kgSet r a b) s 0x53 (s.place ||| mkFld 0 48 r.toNat)) ∧
    (Answers (.launch d a w k) s fun t =>
      (∃ due, (t.ctl s.me).blocks = (s.ctl s.me).blocks ++ [.launch s.uid (if w then some k.toNat else none) (s.reg a) due] ∧
        s.cyc < due) ∧ (t.ctl s.me).hblocks = (s.ctl s.me).hblocks ∧
      (d ≠ 0 → (t.ctl s.me).pend = (s.ctl s.me).pend ++
        [{ reg := d.toNat, sh := s.inHandler, hnd := s.inHandler, left := 1, val := 0, wait := some s.uid }]) ∧
      (t.ctl s.me).regs = (s.ctl s.me).regs ∧ (t.ctl s.me).sr = (s.ctl s.me).sr ∧ t.eng s.me = s.eng s.me ∧
      OnlyCore s { t with uid := s.uid, delays := s.delays } s.me ∧ SameBytes s t)

/-- R89, R90, R151, R214 to R237: every instruction of the V queue is enqueued by its line once its grid operands lie inside the allotment
and its nominal issue cycle is in order: one entry at the tail of the V queue, and nothing else; vadam takes VADP0 to VADP3 with it. A
grid operand outside takes 0x30, an issue cycle out of order 0x10. -/
def Obligations.VectorInstructionsEnqueue : Prop :=
  ∀ (t : FTy) (u : BitVec 2) (w i x : Bool) (d a b : GridOp) (p c : BitVec 3) (o : BitVec 2) (n5 : BitVec 5) (n6 : BitVec 6)
    (n7 : BitVec 7) (r : Rm) (y z : BitVec 4) (k : Option Cont) (kc : Cont) (s : State),
    let E (ins : Instr) (k : Option Cont) (gs : List GridOp) : Prop := Enqueues ins s .v k gs {} none
    let lines (g : GridOp) : List GridOp := linesFrom g (if u = 0 then 4 else if u = 1 then 5 else 8)
    E (.vadd t d a b k) k [d, a, b] ∧ E (.vsub t d a b k) k [d, a, b] ∧ E (.vmul t d a b k) k [d, a, b] ∧
    E (.vmin t d a b k) k [d, a, b] ∧ E (.vmax t d a b k) k [d, a, b] ∧ E (.vdiv t d a b k) k [d, a, b] ∧
    E (.vfma t d a b kc) (some kc) [d, a, b, GridOp.ofBits kc.xg] ∧ E (.vfnm t d a b kc) (some kc) [d, a, b, GridOp.ofBits kc.xg] ∧
    E (.vclamp t d a b kc) (some kc) [d, a, b, GridOp.ofBits kc.xg] ∧
    E (.vabs t d a k) k [d, a] ∧ E (.vneg t d a k) k [d, a] ∧ E (.vsqrt t d a k) k [d, a] ∧ E (.vrsqrt t d a k) k [d, a] ∧
    E (.vrcp t d a k) k [d, a] ∧ E (.vexp2 t d a k) k [d, a] ∧ E (.vlog2 t d a k) k [d, a] ∧ E (.vtanh t d a k) k [d, a] ∧
    E (.vcmp u c i p a b k) k [a, b] ∧ E (.vsel d a b kc) (some kc) [d, a, b] ∧
    E (.viadd w d a b k) k [d, a, b] ∧ E (.visub w d a b k) k [d, a, b] ∧ E (.vimul w d a b k) k [d, a, b] ∧
    E (.viand w d a b k) k [d, a, b] ∧ E (.vior w d a b k) k [d, a, b] ∧ E (.vixor w d a b k) k [d, a, b] ∧
    E (.vishl w d a b k) k [d, a, b] ∧ E (.vishr w d a b k) k [d, a, b] ∧ E (.visra w d a b k) k [d, a, b] ∧
    E (.vimin w d a b k) k [d, a, b] ∧ E (.vimax w d a b k) k [d, a, b] ∧
    E (.vcvt r d a y z k) k [d, a] ∧ (u ≠ 3 → E (.vmxp u d a b k) k (d :: b :: lines a) ∧ E (.vmxu u d a b k) k (a :: b :: lines d)) ∧
    E (.vmov d a k) k [d, a] ∧ E (.vbc t d a n7 k) k [d, a] ∧ E (.vperm d a b k) k [d, a, b] ∧ E (.vrot d a n6 k) k [d, a] ∧
    E (.vred u d a i o k) k [d, a] ∧ E (.vscan u d a i x o k) k [d, a] ∧ E (.vhist w d a b k) k [d, a, b] ∧
    E (.vtop w n5 p a b k) k [a, b] ∧ E (.vsmxMerge d a b kc) (some kc) [d, a, b, GridOp.ofBits kc.xg] ∧
    Enqueues (.vadam d a b kc) s .v (some kc) [d, a, b, GridOp.ofBits kc.xg]
      { cap := [0x0C0, 0x0C1, 0x0C2, 0x0C3].map (s.ctl s.me).sr.get } none ∧
    E (.vchk t a k) k [a] ∧ E (.vamax t d a k) k [d, a]

/-- R89, R126, R153, R155 to R160, R162, R181, R186, R188: the instructions of the L queue are enqueued by their line when the checks of
each pass, in the order given, and fault otherwise; a copy with an end in the capacity tier sends a lookup that is answered later. The ADDR
of a pattern fault of ldx, the source for its PITCH and the destination for its size, is the model's choice (log 92). -/
def Obligations.LoadQueueInstructionsEnqueue : Prop :=
  ∀ (g a : GridOp) (b d r n : Reg) (o : BitVec 11) (m sc : BitVec 2) (cb : BitVec 3) (nr : BitVec 6) (tgt : BitVec 3)
    (lane pat : BitVec 4) (w : BitVec 6) (seg : BitVec 16) (k : Option Cont) (kc : Cont) (s : State), s.cyc < 2 ^ 62 →
    let addr := s.reg b + BitVec.ofNat 64 (o.toNat * 64)
    let lines := 2 ^ (m.toNat + 2)
    EnqueuesChecked (.ld g b o k) s .l k [g] (firstFault [aligned 64 addr, reaches s .timedLocal false addr 256]) { v0 := addr } none ∧
    EnqueuesChecked (.ldt m g b o k) s .l k (linesFrom g lines)
      (firstFault [aligned 64 addr, reaches s .timedLocal false addr (256 * lines)]) { v0 := addr } none ∧
    EnqueuesChecked (.ldg sc g b cb nr kc) s .l (some kc) (linesFrom g (nr.toNat + 1) ++ [GridOp.ofBits kc.xg])
      (require ((s.reg b).toNat < 2 ^ 48) 0x20 ((s.reg b).toNat % 2 ^ 48)) { v0 := s.reg b } none ∧
    (s.focus.cur = none → tgt.toNat = s.me % 8 → TakesFault (.rput tgt lane a k) s 0x02 s.place52) ∧
    (tgt.toNat ≠ s.me % 8 → Enqueues (.rput tgt lane a k) s .l k [a] {} none) ∧
    Enqueues (.rtake a lane k) s .l k [a] {} none ∧
    EnqueuesChecked (.tlRun seg k) s .l k [] (require (seg.toNat < s.tlCount (coachOf s.me)) 0x33 seg.toNat) {} none ∧
    (let len := (s.reg n).toNat
     let chk := firstFault [aligned 64 (s.reg r), aligned 64 (s.reg d), aligned 64 (s.reg n),
        require (0 < len ∧ len ≤ 2 ^ 32) 0x33 (len % 2 ^ 48),
        reaches s .bulk false (s.reg r) len, reaches s .bulk true (s.reg d) len]
     let tier := hasCap (s.parts (coachOf s.me) (s.mapNow s.me) (s.reg r).toNat len) ∨
       hasCap (s.parts (coachOf s.me) (s.mapNow s.me) (s.reg d).toNat len)
     (¬ tier → EnqueuesChecked (.cp d r n w k) s .l k [] chk { v0 := s.reg d, v1 := s.reg r, v2 := s.reg n } (some w.toNat)) ∧
     (tier → WhenPlaced (.cp d r n w k) s .l k []
       (match chk with
        | some f => TakesFlt (.cp d r n w k) s f
        | none => Answers (.cp d r n w k) s fun t => ∃ at_ : Word, s.cyc < at_.toNat ∧
          Joins (.cp d r n w k) s t .l (nominalOf s .l k)
            { v0 := s.reg d, v1 := s.reg r, v2 := s.reg n, cap := [at_], rem := at_.toNat } (s.dat s.me) (s.ctl s.me).defer s.delays.tail
            (some w.toNat)))) ∧
    (let p := (s.ctl s.me).sr.get (0x060 + pat.toNat)
     let e := 2 ^ (p.toNat / 2 ^ 62)
     let nr := p.toNat / 2 ^ 50 % 2 ^ 12 + 1
     let nc := p.toNat / 2 ^ 38 % 2 ^ 12 + 1
     let pitch := p.toNat % 2 ^ 36
     let foot := (nr - 1) * pitch + nc * e
     let bad (v : Nat) : Nat := v % 2 ^ 48 / 16 * 16 + pat.toNat
     let src := (s.reg r).toNat
     EnqueuesChecked (.ldx d r pat w k) s .l k []
      (firstFault [
        require (src % e = 0 ∧ pitch % e = 0) 0x41 (bad src),
        (match findEntry (s.gangOf (coachOf s.me)) (s.mapOf (coachOf s.me) (s.mapNow s.me)) src with
         | some x => require (src + foot ≤ (x.baseg + x.leng) * 4096) 0x41 (bad ((x.baseg + x.leng) * 4096))
         | none => none),
        require ((s.reg d).toNat % 64 = 0 ∧ nr * nc * e % 64 = 0) 0x41 (bad (s.reg d).toNat),
        reaches s .ldxSrc false (s.reg r) foot, reaches s .ldxDst true (s.reg d) (nr * nc * e)])
      { v0 := s.reg d, v1 := s.reg r, cap := [p] } (some w.toNat))

/-- R64, R89, R153, R155, R312, R319, R326: the instructions of the S queue are enqueued with FTC when their checks pass: the allowance of
the lines they write to other coaches, alignment, R126, and for a stream store a window among its parts. That the window comes last among
the checks is the model's choice (log 105). -/
def Obligations.StoreQueueInstructionsEnqueue : Prop :=
  ∀ (g : GridOp) (b : Reg) (o : BitVec 11) (o6 : BitVec 6) (m sc : BitVec 2) (cb : BitVec 3) (nr : BitVec 6) (str : BitVec 4)
    (rel : Bool) (k : Option Cont) (kc : Cont) (s : State),
    let ftc := (s.ctl s.me).sr.get 0x0F0
    let map := s.mapNow s.me
    let chk (addr : Word) (n : Nat) : List (Option Flt) :=
      [match walOver (s.ctl s.me) (s.walUse s.me map (addr.toNat % 2 ^ 48) 0 n) with
       | some u => some (.at127 0x33 u)
       | none => none,
       aligned 64 addr, reaches s .timedStore true addr (256 * n)]
    let window (addr : Word) (n : Nat) : Option Flt :=
      if (str ≠ 0 ∨ rel = true) ∧ hasWindow (s.parts (coachOf s.me) map addr.toNat (256 * n)) = false then some (.at52 0x02) else none
    let lines := 2 ^ (m.toNat + 2)
    let addr := s.reg b + BitVec.ofNat 64 (o.toNat * 64)
    let addr6 := s.reg b + BitVec.ofNat 64 (o6.toNat * 64)
    EnqueuesChecked (.st g b o k) s .s k [g] (firstFault (chk addr 1)) { v0 := addr, cap := [ftc] } none ∧
    EnqueuesChecked (.stt m g b o k) s .s k (linesFrom g lines) (firstFault (chk addr lines)) { v0 := addr, cap := [ftc] } none ∧
    EnqueuesChecked (.stStr g b str rel o6 k) s .s k [g] (firstFault (chk addr6 1 ++ [window addr6 1]))
      { v0 := addr6, cap := [ftc] } none ∧
    EnqueuesChecked (.sttStr m g b str rel o6 k) s .s k (linesFrom g lines) (firstFault (chk addr6 lines ++ [window addr6 lines]))
      { v0 := addr6, cap := [ftc] } none ∧
    EnqueuesChecked (.stg sc g b cb nr kc) s .s (some kc) (linesFrom g (nr.toNat + 1) ++ [GridOp.ofBits kc.xg])
      (require ((s.reg b).toNat < 2 ^ 48) 0x20 ((s.reg b).toNat % 2 ^ 48)) { v0 := s.reg b, cap := [ftc] } none

/-- R89, R243, R245, R247, R250 to R257: the tile, clear and readout instructions of the M queue are enqueued when their checks pass: the
format words they take, the limits of chaining, the alignment and block of their streams; a taken word is held from then on, and mld
notes its BTYPE. That the fault of a chaining form on a core or in a mode that forbids it has ADDR 0 is the model's reading (log 38). -/
def Obligations.MatrixInstructionsEnqueue : Prop :=
  ∀ (z y f : Bool) (c : BitVec 3) (c2 m : BitVec 2) (b a : Reg) (n : BitVec 10) (n6 : BitVec 6) (g8 : BitVec 8) (x : GridOp)
    (o : BitVec 11) (k : Option Cont) (s : State),
    let d := s.dat s.me
    let w := headWord s y
    let w0 := headWord s false
    let w1 := headWord s true
    let rows := n.toNat + 1
    let at_ := s.reg a
    let stream (t asoff rows : Nat) : List (Option Flt) :=
      [aligned 64 at_, inBlock s false false at_ (streamBytes t rows),
       if isMx t then inBlock s false false (at_ + BitVec.ofNat 64 asoff) (2 * rows) else none]
    let fs (w : Word) (rows : Nat) (cap : List Word) : Fields :=
      { v0 := at_, v1 := if isMx (fwA w) then at_ + BitVec.ofNat 64 (fwAs w) else 0, cap := cap, rem := rows, zr := 64 }
    let held (y : Bool) : Dat := holdWord d y
    let tb := s.reg b
    let mrc := (s.ctl s.me).sr.get (0x0D0 + c2.toNat)
    let out := s.reg b + BitVec.ofNat 64 (o.toNat * 64)
    EnqueuesWith (.mld y b k) s .m k []
      (firstFault [takes s y fun w => decide (fwB w ≤ 8), aligned 64 tb, inBlock s true false tb (64 * rowBytes (fwB w)),
        if isMx (fwB w) then inBlock s true false (tb + BitVec.ofNat 64 (fwBs w)) 128 else none])
      { v0 := tb, v1 := if isMx (fwB w) then tb + BitVec.ofNat 64 (fwBs w) else 0, cap := [w] }
      (if y then { held y with bty1 := fwB w } else { held y with bty0 := fwB w }) none ∧
    EnqueuesWith (.mmul z c y a n k) s .m k [] (firstFault (takes s y (tileWordOk d c y) :: stream (fwA w) (fwAs w) rows))
      (fs w rows [w]) (held y) none ∧
    EnqueuesWith (.mmulCh z c y a n k) s .m k []
      (firstFault (takes s y (tileWordOk d c y) :: require (s.me % 8 ≠ 7 ∧ s.tokenMode s.me = false) 0x33 0 ::
        stream (fwA w) (fwAs w) rows)) (fs w rows [w]) (held y) none ∧
    EnqueuesWith (.mmulCf f z c y n k) s .m k []
      (firstFault [takes s y (tileWordOk d c y),
        require (s.me % 8 ≠ 0 ∧ ¬ (f = true ∧ s.me % 8 = 7) ∧ s.tokenMode s.me = false) 0x33 0])
      { cap := [w], rem := rows, zr := 64 } (held y) none ∧
    EnqueuesWith (.mattn z c2 a n6 k) s .m k []
      (firstFault (takes s false attnLeadOk :: takes s true attnTrailOk :: stream (fwA w0) (fwAs w0) (n6.toNat + 1)))
      (fs w0 (n6.toNat + 1) [w0, w1]) (holdWord (held false) true) none ∧
    Enqueues (.mclr m c y n6 k) s .m k [] {} none ∧
    Enqueues (.mresc c y x n6 k) s .m k [x] {} none ∧
    EnqueuesChecked (.mrd c2 g8 b o k) s .m k (mrdLines mrc (GridOp.ofBits g8))
      (firstFault (require (mrcOk mrc g8 b o = true) 0x33 (mrc.toNat % 2 ^ 48) ::
        if mrcSram mrc then [aligned 64 out, reaches s .timedLocal true out (mrcRows mrc * mrcBytes mrc)] else []))
      { v0 := if mrcSram mrc then out else 0, cap := [mrc] } none

/-- R89, R265, R269 to R276: the spline instructions are enqueued when their checks pass: the knot grid, the lead format word, the streams
or the slots; mspl.rf halves the knot spacing and doubles G of its grid from the next line on, or takes a spline-capacity fault. That
mspl.ld takes no format word is the model's reading (log 33). -/
def Obligations.SplineInstructionsEnqueue : Prop :=
  ∀ (z : Bool) (j c : BitVec 2) (a e b : Reg) (n : BitVec 10) (n5 s5 : BitVec 5) (n3 : BitVec 3) (o : BitVec 11)
    (k : Option Cont) (s : State),
    let d := s.dat s.me
    let w := headWord s false
    let ka := (s.ctl s.me).sr.get (0x0E0 + j.toNat)
    let kb := (s.ctl s.me).sr.get (0x0E4 + j.toNat)
    let knots := require (kb.toNat % 32 ≠ 0) 0x53 j.toNat
    let rows := n.toNat + 1
    let act := s.reg a
    let grad := s.reg e
    let stream (east : Bool) (v : Word) : List (Option Flt) := [aligned 64 v, inBlock s east false v (rows * rowBytes (fwA w))]
    let slots := s.reg b
    let out := s.reg b + BitVec.ofNat 64 (o.toNat * 64)
    let held := holdWord d false
    EnqueuesWith (.msplEv j z c a n k) s .m k []
      (firstFault (knots :: takes s false (fun w => splAOk w && splBOk w) :: stream false act))
      { v0 := act, cap := [ka, kb, w], rem := rows, zr := 64 } held none ∧
    EnqueuesWith (.msplDx j z c a e n k) s .m k []
      (firstFault (knots :: takes s false (fun w => splAOk w && splBOk w) :: stream false act ++ stream true grad))
      { v0 := act, v1 := grad, cap := [ka, kb, w], rem := rows, zr := 64 } held none ∧
    EnqueuesWith (.msplGs j z c a e n k) s .m k [] (firstFault (knots :: takes s false splAOk :: stream false act ++ stream true grad))
      { v0 := act, v1 := grad, cap := [ka, kb, w], rem := rows, zr := 1 } held none ∧
    EnqueuesChecked (.msplLd b n5 s5 k) s .m k []
      (firstFault [aligned 64 slots, inBlock s true false slots ((n5.toNat + 1) * 8192)]) { v0 := slots } none ∧
    EnqueuesChecked (.msplRd n3 s5 b o k) s .m k []
      (firstFault [aligned 64 out, inBlock s true true out ((n3.toNat + 1) * 8192)]) { v0 := out } none ∧
    (let gg := kb.toNat % 32
     let deg := if kb.getLsbD 8 then 3 else 1
     let ex := ka.toNat / 2 ^ 55 % 256
     WhenPlaced (.msplRf j k) s .m k []
      (match firstFault [knots, takes s false fun w => splBOk w && fwAcc w == 0,
          require (2 * gg ≤ 16 ∧ 2 * gg + deg ≤ 20 ∧ 2 ≤ ex) 0x54 (gg + 256 * b2n (kb.getLsbD 8))] with
       | some f => TakesFlt (.msplRf j k) s f
       | none => Answers (.msplRf j k) s fun t => ∃ ka' kb' : Word,
          ka'.toNat + 2 ^ 55 = ka.toNat ∧ kb'.toNat = kb.toNat + gg ∧
          Joins (.msplRf j k) s t .m (nominalOf s .m k) { cap := [ka, kb, w] } held
            ((s.ctl s.me).defer ++ [(0x0E0 + j.toNat, ka')] ++ [(0x0E4 + j.toNat, kb')]) s.delays none))

/-- R89, R294 to R304, R327 to R334: the instructions of the F and K queues are enqueued with the register values they name and register
on their arrival words when their checks pass; F entries take FTC with them. The order of the checks of fl.ld, fam and cph, and the value
that a misaligned OFFSET records, are the model's reading (log 58). -/
def Obligations.UntimedInstructionsEnqueue : Prop :=
  ∀ (sz m2 : BitVec 2) (aq z : Bool) (ord opf : BitVec 2) (op g t nc : BitVec 4) (d a b h n rc : Reg) (o : BitVec 11) (tag : BitVec 3)
    (g8 : BitVec 8) (u : UCont) (s : State),
    let ftc := (s.ctl s.me).sr.get 0x0F0
    let aw : Option Nat := some u.aw.toNat
    let src := s.reg a + BitVec.ofNat 64 (o.toNat * 64)
    let tbl := s.reg b + BitVec.ofNat 64 (o.toNat * 64)
    let bytes := 64 * 4 ^ sz.toNat
    let size := if z then 8 else 4
    let hnd := s.reg h
    let len := (s.reg n).toNat
    let xg := GridOp.ofBits u.xg
    EnqueuesChecked (.flLd sz aq d a o u) s .f none []
      (firstFault [aligned 64 src, aligned 64 (s.reg d), reaches s .fabric false src bytes, reaches s .ctx true (s.reg d) bytes])
      { v0 := s.reg d, v1 := src, cap := [ftc] } aw ∧
    EnqueuesChecked (.fam ord op z a b d u) s .f none []
      (firstFault [aligned size (s.reg a), aligned 8 (s.reg d), reaches s .fabric true (s.reg a) size, reaches s .ctx true (s.reg d) 8])
      { v0 := s.reg d, v1 := s.reg a, v2 := s.reg b, cap := [ftc] } aw ∧
    EnqueuesChecked (.fcollSet g b o u) s .f none [] (reaches s .ctx false tbl 32) { v0 := tbl, cap := [ftc] } aw ∧
    EnqueuesChecked (.fred opf g t b o u) s .f none [] (aligned 64 (s.reg b)) { v0 := s.reg b, cap := [ftc] } aw ∧
    Enqueues (.fbar u) s .f none [] { cap := [ftc] } aw ∧
    EnqueuesChecked (.cph m2 d h n u) s .f none []
      (firstFault [aligned 64 (s.reg d), require (hnd.toNat % 2 ^ 32 % 64 = 0) 0x33 (hnd.toNat % 2 ^ 32),
        require (len % 64 = 0 ∧ 0 < len ∧ len ≤ 2 ^ 32) 0x33 (len % 2 ^ 48), reaches s .host (m2 == 0) (s.reg d) len,
        require (s.handleOk (dieOf (coachOf s.me)) (s.gangOf (coachOf s.me)).tenant hnd len (m2 == 1) = true) 0x24
          (hnd.toNat / 2 ^ 48 * 2 ^ 32 + hnd.toNat / 2 ^ 32 % 2 ^ 16 * 2 ^ 16)])
      { v0 := s.reg d, v1 := hnd, v2 := s.reg n, cap := [ftc] } aw ∧
    Enqueues (.spanOpen tag a u) s .k none [] { v0 := s.reg a } aw ∧
    Enqueues (.spanApp a b u) s .k none [] { v0 := s.reg a, v1 := s.reg b } aw ∧
    Enqueues (.spanRt m2 tag a b u) s .k none [] { v0 := s.reg a, v1 := s.reg b } aw ∧
    Enqueues (.kvFork m2 a b rc u) s .k none [] { v0 := s.reg a, v1 := s.reg b, v2 := s.reg rc } aw ∧
    Enqueues (.kvDrop a u) s .k none [] { v0 := s.reg a } aw ∧
    Enqueues (.kvHint m2 a b rc u) s .k none [] { v0 := s.reg a, v1 := s.reg b, v2 := s.reg rc } aw ∧
    Enqueues (.kvWalk 0 g8 b d u) s .k none [GridOp.ofBits g8, gridNext (GridOp.ofBits g8) 1, xg] { v0 := s.reg b } aw ∧
    EnqueuesChecked (.kvWalk 1 g8 b d u) s .k none [xg] (firstFault [aligned 64 (s.reg d), reaches s .ctx true (s.reg d) 512])
      { v0 := s.reg b, v1 := s.reg d } aw ∧
    EnqueuesChecked (.kvPlan m2 nc b o u) s .k none [xg] (reaches s .ctx true tbl 37056) { v0 := tbl } aw

/-- R214 to R221: the floating V instructions read their lines at the issue and write the enabled elements of d after their latency: each
the result on the decoded elements, rounded to the type with round to nearest, ties to even. -/
def Obligations.FloatingVectorResults : Prop :=
  ∀ (t : FTy) (d a b : GridOp) (k : Option Cont) (kc : Cont) (s : State),
    let lat (short long : Nat) : Nat := if t = .f64 then long else short
    let x (g : GridOp) (j : Nat) : Val := t.fmt.decode (src s t.bytes g j)
    let un (i : Instr) (l : Nat) (op : Val → Val) : Prop :=
      VectorWrites i s l d t.bytes k fun j => t.fmt.round .rne (op (x a j))
    let bin (i : Instr) (l : Nat) (op : Val → Val → Val) : Prop :=
      VectorWrites i s l d t.bytes k fun j => t.fmt.round .rne (op (x a j) (x b j))
    let ter (i : Instr) (op : Val → Val → Val → Val) : Prop :=
      VectorWrites i s (lat 4 8) d t.bytes (some kc) fun j => t.fmt.round .rne (op (x a j) (x b j) (x (GridOp.ofBits kc.xg) j))
    bin (.vadd t d a b k) (lat 4 8) (Val.add .rne) ∧ bin (.vsub t d a b k) (lat 4 8) (fun u v => Val.add .rne u v.negate) ∧
    bin (.vmul t d a b k) (lat 4 8) Val.mul ∧ bin (.vmin t d a b k) (lat 4 8) Val.fmin ∧
    bin (.vmax t d a b k) (lat 4 8) Val.fmax ∧ bin (.vdiv t d a b k) (lat 12 24) Val.div ∧
    un (.vabs t d a k) 2 Val.abs ∧ un (.vneg t d a k) 2 Val.negate ∧ un (.vsqrt t d a k) (lat 12 24) Val.sqrt ∧
    un (.vrsqrt t d a k) (lat 12 24) Val.rsqrt ∧ un (.vrcp t d a k) (lat 12 24) (Val.div (.fin false 1 0)) ∧
    un (.vexp2 t d a k) (lat 12 24) Val.exp2 ∧ un (.vlog2 t d a k) (lat 12 24) Val.log2 ∧ un (.vtanh t d a k) (lat 12 24) Val.tanh ∧
    ter (.vfma t d a b kc) (Val.fma .rne) ∧ ter (.vfnm t d a b kc) (fun u v w => Val.fma .rne u.negate v w) ∧
    ter (.vclamp t d a b kc) (fun u v w => Val.fmin (Val.fmax u v) w)

/-- R223, R224, R228, R231: the integer, select, move and histogram instructions of the V queue: the values of every element written. -/
def Obligations.IntegerAndMoveVectorResults : Prop :=
  ∀ (t : Bool) (f : FTy) (d a b : GridOp) (n7 : BitVec 7) (n6 : BitVec 6) (k : Option Cont) (kc : Cont) (s : State),
    let w := if t then 8 else 32
    let bytes := w / 8
    let x (j : Nat) : BitVec w := BitVec.ofNat w (src s bytes a j)
    let y (j : Nat) : BitVec w := BitVec.ofNat w (src s bytes b j)
    let E (i : Instr) (lat : Nat) (v : Nat → BitVec w) : Prop := VectorWrites i s lat d bytes k fun j => (v j).toNat
    E (.viadd t d a b k) 2 (fun j => x j + y j) ∧ E (.visub t d a b k) 2 (fun j => x j - y j) ∧
    E (.vimul t d a b k) 4 (fun j => x j * y j) ∧ E (.viand t d a b k) 2 (fun j => x j &&& y j) ∧
    E (.vior t d a b k) 2 (fun j => x j ||| y j) ∧ E (.vixor t d a b k) 2 (fun j => x j ^^^ y j) ∧
    E (.vishl t d a b k) 2 (fun j => x j <<< ((y j).toNat % w)) ∧ E (.vishr t d a b k) 2 (fun j => x j >>> ((y j).toNat % w)) ∧
    E (.visra t d a b k) 2 (fun j => (x j).sshiftRight ((y j).toNat % w)) ∧
    E (.vimin t d a b k) 2 (fun j => if (y j).slt (x j) then y j else x j) ∧
    E (.vimax t d a b k) 2 (fun j => if (x j).slt (y j) then y j else x j) ∧
    VectorWritesAll (.vsel d a b kc) s 2 d 4 (fun j => if (predNow s (some kc)).getLsbD j then src s 4 a j else src s 4 b j) ∧
    VectorWrites (.vmov d a k) s 2 d 4 k (src s 4 a) ∧
    (n7.toNat < 256 / f.bytes → VectorWrites (.vbc f d a n7 k) s 2 d f.bytes k fun _ => src s f.bytes a n7.toNat) ∧
    VectorWrites (.vperm d a b k) s 2 d 4 k (fun j => if src s 4 b j < 64 then src s 4 a (src s 4 b j) else 0) ∧
    VectorWrites (.vrot d a n6 k) s 2 d 4 k (fun j => src s 4 a ((j + n6.toNat) % 64)) ∧
    VectorWritesAll (.vhist t d a b k) s 6 d 4 (fun j =>
      (src s 4 b j + (List.range (256 / bytes)).countP (fun i => (predNow s k).getLsbD (i * bytes / 4) && src s bytes a i == j)) % 2 ^ 32)

/-- R210, R211, R229, R230, R237: the reductions, scans and running maxima of the V queue: the elements under a clear predicate take the
identity, a reduction goes up the pairwise tree and every element of d takes it, a scan takes the running values in order, one place
on with EX. -/
def Obligations.ReductionAndScanResults : Prop :=
  ∀ (u o : BitVec 2) (d a : GridOp) (f : FTy) (i8 ex : Bool) (k : Option Cont) (s : State),
    let ft := FTy.ofBits u
    let m := predNow s k
    let acc := if ft = .f64 then fp64 else fp32
    let wide := if ft = .f64 then 8 else 4
    let red (t : FTy) (short long : Nat) : Nat := if t = .f64 then long else short
    let on (b j : Nat) : Bool := m.getLsbD (j * b / 4)
    let xs : List Val := (List.range (256 / ft.bytes)).map fun j =>
      if on ft.bytes j then ft.fmt.decode (src s ft.bytes a j) else if o = 0 then .fin true 0 0 else .inf (o != 1)
    let op (x y : Val) : Val :=
      if o = 0 then acc.decode (acc.round .rne (Val.add .rne x y)) else if o = 1 then Val.fmin x y else Val.fmax x y
    let w := if i8 then 8 else 32
    let is (w : Nat) : List (BitVec 32) := (List.range (2048 / w)).map fun j =>
      if on (w / 8) j then (BitVec.ofNat w (src s (w / 8) a j)).signExtend 32
      else if o = 0 then 0 else if o = 1 then 0x7FFFFFFF else 0x80000000
    let iop (x y : BitVec 32) : BitVec 32 :=
      if o = 0 then x + y else if o = 1 then (if y.slt x then y else x) else (if x.slt y then y else x)
    VectorWritesAll (.vred u d a false o k) s (red ft 8 12) d wide
      (fun _ => acc.round .rne (treeReduce op .nan (Nat.log2 (256 / ft.bytes)) xs)) ∧
    (u = BitVec.ofNat 2 (b2n i8) → VectorWritesAll (.vred u d a true o k) s 8 d 4
      (fun _ => (treeReduce iop 0 (Nat.log2 (2048 / w)) (is w)).toNat)) ∧
    ((u = 0 ∨ u = 3) → VectorWritesAll (.vscan u d a false ex o k) s (red ft 12 20) d ft.bytes (fun j =>
      acc.round .rne (nthD .nan
        (if ex then (if o = 0 then .fin true 0 0 else .inf (o != 1)) :: scanOrdered op xs else scanOrdered op xs) j))) ∧
    VectorWritesAll (.vscan 0 d a true ex o k) s 12 d 4 (fun j =>
      (nthD 0 (if ex then (if o = 0 then 0 else if o = 1 then 0x7FFFFFFF else 0x80000000) :: scanOrdered iop (is 32)
        else scanOrdered iop (is 32)) j).toNat) ∧
    (let w := if f = .f64 then 8 else 4
     let facc := if f = .f64 then fp64 else fp32
     let mags := (List.range (256 / f.bytes)).map fun j =>
       if on f.bytes j then (f.fmt.decode (src s f.bytes a j)).abs else .fin false 0 0
     VectorWritesAll (.vamax f d a k) s (red f 8 12) d w (fun j =>
       facc.round .rne (Val.fmax (facc.decode (src s w d j)) (treeReduce Val.fmax .nan (Nat.log2 (256 / f.bytes)) mags))))

/-- R222, R232, R236: vcmp and vtop write their predicate, vtop also the ranks of the cells it selects, and vchk sets NF when an enabled
element is not finite. -/
def Obligations.CompareSelectAndCheckResults : Prop :=
  ∀ (u : BitVec 2) (c p : BitVec 3) (t : Bool) (f : FTy) (n : BitVec 5) (a b x : GridOp) (k : Option Cont) (s : State),
    let m := predNow s k
    let pred (ws : List WEff) (all : Bool) (bytes : Nat) (bit : Nat → Bool) : Prop :=
      ∃ mask val : Word, WEff.pred p.toNat mask val ∈ ws ∧
        (∀ i, i < 64 → mask.getLsbD i = (all || cellOn bytes m i)) ∧ ∀ i, i < 64 → val.getLsbD i = bit i
    let fcond (x y : Val) : Bool :=
      match c.toNat with
      | 0 => Val.eq x y
      | 1 => !Val.eq x y
      | 2 => Val.lt x y
      | 3 => Val.lt x y || Val.eq x y
      | 4 => Val.lt y x
      | 5 => Val.lt y x || Val.eq x y
      | _ => x.isNan || y.isNan
    let cell (bytes : Nat) (e : Nat → Bool) (i : Nat) : Bool :=
      if bytes = 8 then e (i / 2) else (List.range (4 / bytes)).all fun q => e (i * (4 / bytes) + q)
    let icond (w : Nat) (x y : BitVec w) : Bool :=
      match c.toNat with
      | 0 => x == y
      | 1 => x != y
      | 2 => x.slt y
      | 3 => x.sle y
      | 4 => y.slt x
      | _ => y.sle x
    (c.toNat < 7 → VectorRun (.vcmp u c false p a b k) s 2 fun ws => ws.length = 1 ∧ 
      (let ft := FTy.ofBits u
       pred ws false ft.bytes
        (cell ft.bytes fun j => fcond (ft.fmt.decode (src s ft.bytes a j)) (ft.fmt.decode (src s ft.bytes b j))))) ∧
    (c.toNat < 6 → VectorRun (.vcmp (if t then 1 else 0) c true p a b k) s 2 fun ws => ws.length = 1 ∧ 
      (let w := if t then 8 else 32
       pred ws false (w / 8)
        (cell (w / 8) fun j => icond w (BitVec.ofNat w (src s (w / 8) a j)) (BitVec.ofNat w (src s (w / 8) b j))))) ∧
    (VectorRun (.vtop t n p a x k) s 12 fun ws => ws.length = 2 ∧ 
      (let v := src s 4 a
       let better (i j : Nat) : Bool :=
         if t then (BitVec.ofNat 32 (v j)).slt (BitVec.ofNat 32 (v i))
         else !(fp32.decode (v i)).isNan && ((fp32.decode (v j)).isNan || Val.lt (fp32.decode (v j)) (fp32.decode (v i)))
       let ahead (i j : Nat) : Prop := better i j = true ∨ (better j i = false ∧ i < j)
       ∃ idx : List Nat, idx.Pairwise ahead ∧ (∀ i ∈ idx, i < 64 ∧ m.getLsbD i = true) ∧
         idx.length = min (n.toNat + 1) ((List.range 64).countP m.getLsbD) ∧
         (∀ i j, i ∈ idx → j < 64 → m.getLsbD j = true → j ∉ idx → ahead i j) ∧
         (∃ w ∈ ws, WritesLine x 4 64 (fun _ => true) (fun j => nthD 0xFFFFFFFF idx j) w) ∧
         pred ws true 4 (fun i => idx.contains i))) ∧
    (VectorRun (.vchk f a k) s 2 fun ws =>
      ((∃ j, j < 256 / f.bytes ∧ m.getLsbD (j * f.bytes / 4) = true ∧ (f.fmt.decode (src s f.bytes a j)).isFinite = false) → ws = [.nf]) ∧
      ((∀ j, j < 256 / f.bytes → m.getLsbD (j * f.bytes / 4) = true → (f.fmt.decode (src s f.bytes a j)).isFinite = true) → ws = []))

/-- R225 to R227, R233, R235: conversion, the block formats, and the helpers of training and attention. vmxp reads its lines in turn from
its issue on and writes when the last has been read. -/
def Obligations.ConversionAndHelperResults : Prop :=
  ∀ (r : Rm) (dst sc : BitVec 4) (m : BitVec 2) (d a b : GridOp) (k : Option Cont) (kc : Cont) (run : Run) (s : State),
    (dst.toNat < 0xB → ¬ (5 ≤ dst.toNat ∧ dst.toNat ≤ 7) → sc.toNat < 0xB → ¬ (5 ≤ sc.toNat ∧ sc.toNat ≤ 7) →
      let sb := typeBytes sc.toNat
      let db := typeBytes dst.toNat
      VectorRun (.vcvt r d a dst sc k) s (if sb = 8 ∨ db = 8 then 8 else 4) fun ws => ∃ w, ws = [w] ∧
        WritesLine d db (256 / max sb db) (cellOn db (predNow s k)) (fun j => roundT dst.toNat r (decodeT sc.toNat (src s sb a j))) w) ∧
    (m ≠ 3 →
      let l := if m = 0 then 4 else if m = 1 then 5 else 8
      let bits := if m = 0 then 8 else if m = 1 then 6 else 4
      (IssuesRun (.vmxp m d a b k) s .v (s.dat s.me) fun r => r.last = l + 2 ∧ r.wr = [] ∧ r.data = lineBytes (readLine (s.dat s.me) a)) ∧
      (∀ dt : Dat, run.k < l → (mxpRead dt m a run).data = run.data ++ lineBytes (readLine dt (gridNext a run.k))) ∧
      (run.k + 1 = l → run.data.length = 256 * l →
        let block (i : Nat) : Nat × List Nat :=
          mxPack ((List.range 32).map fun j => fp32.decode (natOfBytes ((run.data.drop (4 * (32 * i + j))).take 4))) (5 + m.toNat) .rne
        let enc (e : Nat) : Nat := nthD 0 (block (e / 32)).2 (e % 32)
        ∃ wd wb : List (Nat × Cell32), (mxpWrites m d b run).wr = [(l + 2, .grid (wd ++ wb))] ∧
          (∃ n : Nat, (∀ e, e < 64 * l → n / 2 ^ (bits * e) % 2 ^ bits = enc e) ∧ n < 2 ^ (bits * 64 * l) ∧
            WritesLine d 1 256 (fun _ => true) (fun j => n / 2 ^ (8 * j) % 256) (.grid wd)) ∧
          WritesLine b 1 16 (fun _ => true) (fun j => if j < 2 * l then (block j).1 % 256 else 0) (.grid wb)) ∧
      (IssuesRun (.vmxu m d a b k) s .v (s.dat s.me) fun r => r.last = l + 1 ∧ r.push = l + 1 ∧ r.wr.length = l ∧
        let n := natOfBytes (lineBytes (readLine (s.dat s.me) a))
        ∀ j, j < l → ∃ w, nthD (0, WEff.nf) r.wr j = (2 + j, w) ∧
          WritesLine (gridNext d j) 4 64 (fun _ => true) (fun i => fp32.round .rne
            (mxUnpack (5 + m.toNat) (n / 2 ^ (bits * (64 * j + i)) % 2 ^ bits) (src s 1 b ((64 * j + i) / 32)))) w)) ∧
    (let o := src s 4 d
     let l := src s 4 a
     let u := src s 4 (GridOp.ofBits kc.xg)
     let m1 := fp32.decode (l 0)
     let m2 := fp32.decode (u 0)
     let bad := m1.isNan || m2.isNan || m1 == .inf false || m2 == .inf false
     let mx := Val.fmax m1 m2
     let f (x : Val) : Nat := if x = .inf true then 0 else fp32.round .rne (Val.exp2 (Val.add .rne x mx.negate))
     let merge (x y : Nat) : Nat := if bad then fp32.nanEnc else fp32.fma y (f m2) (fp32.mul x (f m1))
     let top (j : Nat) : Nat := if j = 0 then (if bad then fp32.nanEnc else fp32.round .rne mx) else merge (l 1) (u 1)
     VectorRun (.vsmxMerge d a b kc) s 16 fun ws => ∃ w1 wd w0, ws = [.grid (w1 ++ wd ++ w0)] ∧
       WritesLine a 4 2 (fun i => i == 1) top (.grid w1) ∧
       WritesLine d 4 64 (cellOn 4 (predNow s (some kc))) (fun j => merge (o j) (src s 4 b j)) (.grid wd) ∧
       WritesLine a 4 2 (fun i => i == 0) top (.grid w0)) ∧
    (∀ e, s.focus.cur = some e →
      VectorRun (.vadam d a b kc) s 20 fun ws =>
        let on (i : Nat) : Bool := (predNow s (some kc)).getLsbD i
        let new (i : Nat) : Option (Nat × Nat × Nat) :=
          adamCell e.cap (src s 4 d i) (src s 4 a i) (src s 4 b i) (src s 4 (GridOp.ofBits kc.xg) i)
        (∃ cells nf, ws = .grid cells :: nf ∧ ((∃ i, i < 64 ∧ on i = true ∧ new i = none) → nf = [.nf]) ∧
          ((∀ i, i < 64 → on i = true → new i ≠ none) → nf = []) ∧
          ∀ p, p ∈ cells ↔ ∃ i w m v, i < 64 ∧ on i = true ∧ new i = some (w, m, v) ∧
            (p = (gridKey d i, BitVec.ofNat 32 w) ∨ p = (gridKey a i, BitVec.ofNat 32 m) ∨ p = (gridKey b i, BitVec.ofNat 32 v))))

/-- R153, R154, R318, R326: loads and stores issue: the first line in the issue cycle, and each further line of a tile in its own cycle. That
the later lines move under the predicate of the issue cycle is the model's reading (log 12). -/
def Obligations.LoadsAndStoresIssue : Prop :=
  ∀ (m : BitVec 2) (g : GridOp) (b : Reg) (o : BitVec 11) (o6 : BitVec 6) (str : BitVec 4) (rel : Bool) (k : Option Cont) (core : Nat)
    (r : Run) (s : State), m ≠ 3 →
    let l := 2 ^ (m.toNat + 2)
    let loads (i : Instr) (l : Nat) : Prop := IssuesRun i s .l (s.dat s.me) fun r =>
      r.last = l + 2 ∧ r.push = l + 2 ∧ r.mask = predNow s k ∧ ∃ w, r.wr = [w] ∧ loadsLine s s.me r.e (predNow s k) g 0 w
    let stores (i : Instr) (l stream : Nat) (enc : Bool) : Prop := IssuesRun i s .s (s.dat s.me) fun r =>
      r.last = l + 1 ∧ r.push = l + 1 ∧ r.mask = predNow s k ∧ storesLine s s.me l r.e (predNow s k) g 0 stream enc r.wr
    let more (l stream : Nat) (enc : Bool) : Prop := r.k < l →
      ∃ ws, (s.runRead core r).wr = r.wr ++ ws ∧ storesLine s core l r.e r.mask g r.k stream enc ws
    loads (.ld g b o k) 1 ∧ loads (.ldt m g b o k) l ∧
    stores (.st g b o k) 1 0 false ∧ stores (.stt m g b o k) l 0 false ∧
    stores (.stStr g b str rel o6 k) 1 str.toNat rel ∧ stores (.sttStr m g b str rel o6 k) l str.toNat rel ∧
    (r.e.ins = .ldt m g b o k → r.k < l → ∃ w, (s.runRead core r).wr = r.wr ++ [w] ∧ loadsLine s core r.e r.mask g r.k w) ∧
    (r.e.ins = .stt m g b o k → more l 0 false) ∧ (r.e.ins = .sttStr m g b str rel o6 k → more l str.toNat rel) ∧
    (l ≤ r.k → (r.e.ins = .ldt m g b o k ∨ r.e.ins = .stt m g b o k ∨ r.e.ins = .sttStr m g b str rel o6 k) → s.runRead core r = r)

/-- R155 to R157, R318: gathers and scatters issue with their index line and predicate, and come to one row in each cycle: a row whose bit in
the completion bitmap is set is skipped, one whose predicate bit is clear only sets its bit, and any other moves its line at base + index
× 64 × 4^SC and sets its bit with the write: from and to SRAM, and for a scatter row in a window or a stripe set as a remote write of stream 0,
released when the ordering kind of the region is SO. That later rows use the predicate of the issue cycle is the model's reading (log 12). -/
def Obligations.GathersAndScattersIssue : Prop :=
  ∀ (sc : BitVec 2) (g : GridOp) (b : Reg) (cb : BitVec 3) (nr : BitVec 6) (k : Cont) (core : Nat) (r : Run) (s : State),
    let n := nr.toNat + 1
    let starts (i : Instr) (q : Queue) (last : Nat) : Prop := IssuesRun i s q (s.dat s.me) fun r =>
      r.last = last ∧ r.push = last ∧ r.mask = predNow s (some k) ∧ r.data.drop 8 = lineBytes (readLine (s.dat s.me) (GridOp.ofBits k.xg)) ∧
      (r.e.ins = i → r.e.cut = false → r = s.runRead s.me { r with wr := [] })
    let done := ((s.ctl core).cbs.get (0x030 + cb.toNat)).getLsbD r.k
    let a := r.e.v0 + BitVec.ofNat 64 (wordAt (r.data.drop 8) r.k * (64 * 4 ^ sc.toNat))
    let i := Instr.ldg sc g b cb nr k
    let j := Instr.stg sc g b cb nr k
    starts i .l (n + 2) ∧ starts j .s (n + 1) ∧
    (r.e.ins = i ∨ r.e.ins = j → r.e.cut = true ∨ n ≤ r.k ∨ done = true → s.runRead core r = r) ∧
    (r.e.ins = i ∨ r.e.ins = j → r.e.cut = false → r.k < n → done = false → r.mask.getLsbD r.k = false →
      (s.runRead core r).wr = r.wr ++ [(r.k, .cb cb.toNat r.k)]) ∧
    (r.e.cut = false → r.k < n → done = false → r.mask.getLsbD r.k = true →
      (r.e.ins = i → ∃ w, (s.runRead core r).wr = r.wr ++ [(r.k + 3, w), (r.k + 3, .cb cb.toNat r.k)] ∧
        WritesLine (gridNext g r.k) 4 64 (fun _ => true) (wordAt (seen s core r.e a.toNat 256)) w) ∧
      (r.e.ins = j → ∃ ws, (s.runRead core r).wr = r.wr ++ ws ++ [(r.k + 2, .cb cb.toNat r.k)] ∧
        ∀ x, findEntry (s.gangOf (coachOf core)) (s.mapOf (coachOf core) r.e.map) a.toNat = some x → a.toNat % 4096 + 256 ≤ 4096 →
          x.home = 1 → ∃ cells units, ws = [(r.k + 2, .mem cells units)] ∧
            ∀ p, p ∈ cells ↔ ∃ i, i < 256 ∧
              p = ((s.locIn (coachOf core) x r.e.ver a.toNat).key + i, nthD 0 (lineBytes (readLine (s.dat core) (gridNext g r.k))) i)) ∧
      (r.e.ins = j → ∀ x, findEntry (s.gangOf (coachOf core)) (s.mapOf (coachOf core) r.e.map) a.toNat = some x →
        a.toNat % 4096 + 256 ≤ 4096 → x.home = 4 ∨ x.home = 5 →
        (s.runRead core r).wr = r.wr ++ [(r.k, .post a.toNat (2 ^ 64 - 1) (lineBytes (readLine (s.dat core) (gridNext g r.k))) 0
          (decide (x.ord = 0))), (r.k + 2, .cb cb.toNat r.k)]))

/-- R158 to R160, R181: rput reads its line at its issue and in each of the four cycles after sends one beat of 64 bytes, from its own station
on its lane to the station of its target core, shown for a coach whose lanes are empty; rtake takes the four oldest beats of
its park buffer and writes the enabled cells of its line in its issue cycle; tl.run starts its segment. -/
def Obligations.RingAndTimelineIssue : Prop :=
  ∀ (tgt : BitVec 3) (lane : BitVec 4) (a : GridOp) (seg : BitVec 16) (k : Option Cont) (e : Entry) (s : State), s.focus.cur = some e →
    let kc := coachOf s.me
    let c := s.coach kc
    let beats := c.parked s.me lane.toNat
    (IssuesRun (.rput tgt lane a k) s .l (s.dat s.me) fun r =>
      r.last = 4 ∧ r.push = 4 ∧ r.wr = [] ∧ r.data = lineBytes (readLine (s.dat s.me) a)) ∧
    (∀ r : Run, (s.eng s.me).run = [r] → r.e.ins = .rput tgt lane a k → 1 ≤ r.k → r.k ≤ 4 → r.data.length = (5 - r.k) * 64 →
      (∀ i, coachOf i = kc → i ≠ s.me → (s.eng i).run = []) → c.beats = [] → s.takesPlace kc = true → c.opened = some s.cyc →
      c.due = [] → Answers (.ringBeatPark kc) s fun t =>
        t.coach kc = { c with beats := [⟨s.me / 8 % 2, lane.toNat, 2 * (s.me % 8) + 1, 2 * tgt.toNat + 1, r.data.take 64⟩] } ∧
        t.core s.me = { s.core s.me with eng := { s.eng s.me with run := [{ r with data := r.data.drop 64 }] } } ∧
        (∀ i, i ≠ kc → t.coach i = s.coach i) ∧ OnlyCore s { t with coaches := s.coaches } s.me ∧ SameBytes s t) ∧
    (Answers (.rtake a lane k) s fun t => ∃ r : Run,
      t = (s.setCoach kc (t.coach kc)).setEng s.me { s.eng s.me with run := (s.eng s.me).run ++ [r] } ∧
      t.coach kc = { c with park := (t.coach kc).park } ∧
      (∀ core l, (t.coach kc).parked core l = if coreIx core * 16 + l = coreIx s.me * 16 + lane.toNat then beats.drop 4 else c.parked core l) ∧
      r.e = e ∧ r.q = .l ∧ r.t = c.tclk ∧ r.k = 0 ∧ r.last = 0 ∧ r.push = 0 ∧
      ∃ w, r.wr = [(0, w)] ∧ WritesLine a 4 64 (predNow s k).getLsbD (wordAt (beats.take 4).flatten) w) ∧
    (Answers (.tlRun seg k) s fun t => t = s.setCoach kc (t.coach kc) ∧ t.coach kc = { c with tl := (t.coach kc).tl } ∧
      (let base := (s.tlWord kc (1 + seg.toNat)).toNat
       let tl := (t.coach kc).tl
       tl.running = true ∧ tl.core = s.me ∧ tl.start = c.tclk ∧ tl.base = base ∧ tl.word = 0 ∧
       tl.at_ = c.tclk + tlDelta (s.tlWord kc base) ∧ tl.land = c.tl.land ∧ tl.pcs = []))

/-- R243, R248, R250 to R257, R270 to R276: the commands of the M queue issue: the taken words leave their FIFOs, a ready back tile comes to
the front, and the command runs with its tile, its first reads and its last cycle. That a command issued again with PART 1 keeps the tile it
has is the model's reading (log 15). -/
def Obligations.MatrixCommandsIssue : Prop :=
  ∀ (z y f : Bool) (c : BitVec 3) (c2 m : BitVec 2) (a e b : Reg) (n : BitVec 10) (n6 : BitVec 6) (n5 s5 : BitVec 5) (n3 : BitVec 3)
    (g8 : BitVec 8) (x : GridOp) (o : BitVec 11) (k : Option Cont) (en : Entry) (s : State), s.focus.cur = some en →
    let d := s.dat s.me
    let w := nthD 0 en.cap 0
    let arr := b2n y
    let rel := d.release y en
    let one := rel.swap arr en
    let both := (((d.release false en).release true en).swap 0 en).swap 1 en
    let lead := d.release false en
    let slots := n5.toNat + 1
    let reads (a n : Nat) : List Byte := seen s s.me en a n
    let spl (i : Instr) : Prop := IssuesRun i s .m lead fun r =>
      r.last = entryAt (splCadence en) (en.rem - 1) + splDepth en ∧ r.push = r.last ∧ r.wr = [] ∧
      r.data = reads (en.v0.toNat + 64 * (streamUnits (fwA en.spl.w) en.rem (splCadence en) 0).1)
        (64 * (streamUnits (fwA en.spl.w) en.rem (splCadence en) 0).2)
    let tile (i : Instr) : Prop := IssuesRun i s .m one fun r =>
      r.last = tileLast (fwA w) en.rem ∧ r.push = r.last ∧ r.wr = [] ∧ r.tile = some (one.front arr) ∧
      r.data = reads (en.v0.toNat + 64 * (streamUnits (fwA w) en.rem (cadence (fwA w)) 0).1)
        (64 * (streamUnits (fwA w) en.rem (cadence (fwA w)) 0).2)
    (IssuesRun (.mld y b k) s .m rel fun r =>
      r.last = loadCycles (fwB w) ∧ r.push = r.last - 1 ∧ r.wr = [] ∧ r.data = reads en.v0.toNat 128) ∧
    tile (.mmul z c y a n k) ∧ tile (.mmulCh z c y a n k) ∧
    (IssuesRun (.mmulCf f z c y n k) s .m one fun r =>
      r.last = tileLast (fwA w) en.rem ∧ r.push = r.last ∧ r.wr = [] ∧ r.tile = some (one.front arr) ∧
      r.src = (s.feeder s.me en).map fun q => (s.me - 1, q.e.id)) ∧
    (IssuesRun (.mclr m c y n6 k) s .m d fun r => r.last = 1 ∧ r.push = 1 ∧ r.wr = []) ∧
    (IssuesRun (.mattn z c2 a n6 k) s .m both fun r =>
      r.last = attnLast en en.rem ∧ r.push = r.last ∧ r.wr = [] ∧ r.mask = predNow s k ∧ r.tile = some (both.front 0) ∧
      r.tile2 = some (both.front 1)) ∧
    (IssuesRun (.mresc c y x n6 k) s .m d fun r =>
      r.last = 5 + n6.toNat ∧ r.push = r.last ∧ r.wr = [] ∧ r.data = lineBytes (readLine d x)) ∧
    (IssuesRun (.mrd c2 g8 b o k) s .m d fun r =>
      r.last = 4 + mrcStep w * (mrcRows w - 1) + b2n (mrcSram w && mrcType w == 8) ∧ r.push = r.last ∧ r.mask = predNow s k) ∧
    (IssuesRun (.msplLd b n5 s5 k) s .m d fun r =>
      r.last = 64 * slots - 1 ∧ r.push = r.last ∧ r.wr = [] ∧ r.data = reads en.v0.toNat 128) ∧
    spl (.msplEv m z c2 a n k) ∧ spl (.msplDx m z c2 a e n k) ∧ spl (.msplGs m z c2 a e n k) ∧
    (IssuesRun (.msplRf m k) s .m lead fun r => r.last = 63 ∧ r.push = 63 ∧ r.wr = [(63, .coef (refineCells d.coef en.spl))]) ∧
    (IssuesRun (.msplRd n3 s5 b o k) s .m d fun r =>
      r.last = 64 * (n3.toNat + 1) ∧ r.push = r.last ∧ r.data = slotBytes d.coef s5.toNat (n3.toNat + 1) ∧ r.wr.length = 1) ∧
    (d.release y en = if en.part then d else if y then { d with held1 := d.held1.tail } else { d with held0 := d.held0.tail }) ∧
    (∀ arr, arr < 2 → d.tiles.length = 4 →
      let front := nthD Tile.reset d.tiles (2 * arr)
      let back := nthD Tile.reset d.tiles (2 * arr + 1)
      let t := (d.swap arr en).tiles
      d.swap arr en = { d with tiles := t } ∧
      (back.ready = true → en.part = false →
        nthD Tile.reset t (2 * arr) = { back with ready := false } ∧ nthD Tile.reset t (2 * arr + 1) = { front with ready := false } ∧
        ∀ i, i ≠ 2 * arr → i ≠ 2 * arr + 1 → nthD Tile.reset t i = nthD Tile.reset d.tiles i) ∧
      (back.ready = false ∨ en.part = true → t = d.tiles))

/-- R207 to R209, R246, R251, R254, R258, R264 to R268, R270, R272 to R274, R277: in the cycle in which row i of a tile command reaches its
plane, FP32 cells take the rounded sum of the old cell and of the rounded products summed down the column, FP64 pairs the fused chain, and
exact triples the exact chain; a start row takes -0, or M = 0, for the old cells. The softmax stage of mattn writes rmx and rsm of its row and
leads to the trail row, which takes old × f plus the column sums of P, or NaN throughout. The basis stage gives interval and local coordinate;
the basis values are the polynomials of its table, rounded once; mspl.ev adds the column sums of the layer, mspl.dx the gradients of its
activations, and mspl.gs the gradients of the coefficients in its window. Every other cell keeps its value. -/
def Obligations.TileRowsAccumulate : Prop :=
  (∀ (start d : Dat) (r : Run) (acc plane i j : Nat) (z : Bool), accTarget r.e = some (acc, plane, z) → j < 64 →
    let t := fwA (nthD 0 r.e.cap 0)
    depthOf t ≤ r.k → rowsAt (cadence t) r.e.rem (r.k - depthOf t) = [i] →
    let q := (r.e.p0 + i) % 64
    let fresh := z && decide (i < r.e.zr)
    let a (k : Nat) : Val := nthD .nan (streamRow t r.data r.data2 i) k
    let b (k : Nat) : Val := nthD .nan (nthD [] (r.tile.getD Tile.reset).rows k) j
    let prod (k : Nat) : Nat := fp32.round .rne ((a k).mul (b k))
    let out := accumRun start d r
    (acc = 0 → nthD 0 (out.planeRow plane q) j =
      fp32.add (if fresh then 0x80000000 else nthD 0 (start.planeRow plane q) j)
        ((List.range 63).foldl (fun s k => fp32.add s (prod (k + 1))) (prod 0))) ∧
    (acc = 1 → nthD 0 (out.exactRow plane q) j =
      (List.range 64).foldl (fun m k => exactStep m ((a k).mul (b k))) (if fresh then 0 else nthD 0 (start.exactRow plane q) j)) ∧
    (acc = 2 → nthD 0 (out.pairRow plane q) j =
      (List.range 64).foldl (fun c k => fp64.round .rne (Val.fma .rne (a k) (b k) (fp64.decode c)))
        (if fresh then 2 ^ 63 else nthD 0 (start.pairRow plane q) j)) ∧
    out = { d with plane := out.plane } ∧
    ∀ p x c, x < 64 → c < 64 →
      (x ≠ q ∨ p < plane ∨ plane + (if acc = 0 then 1 else if acc = 1 then 3 else 2) ≤ p) →
      out.plane.get (planeKey p x c) = d.plane.get (planeKey p x c)) ∧
  (∀ (start d : Dat) (r : Run) (z : Bool) (c : BitVec 2) (s : Reg) (n : BitVec 6) (k : Option Cont) (i : Nat),
    r.e.ins = .mattn z c s n k →
    let ta := fwA (nthD 0 r.e.cap 0)
    let tt := fwA (nthD 0 r.e.cap 1)
    let cpr := if (cadence ta).1 * (cadence tt).2 < (cadence tt).1 * (cadence ta).2 then cadence tt else cadence ta
    let down (a : Nat → Val) (b : Tile) (j : Nat) : Nat :=
      let prod (k : Nat) : Nat := fp32.round .rne ((a k).mul (nthD .nan (nthD [] b.rows k) j))
      (List.range 63).foldl (fun s k => fp32.add s (prod (k + 1))) (prod 0)
    (tt ≤ 4 → depthOf ta + 12 ≤ r.k → rowsAt cpr r.e.rem (r.k - depthOf ta - 12) = [i] →
      let p := (r.e.p0 + i) % 64
      let ninf : Nat := 0xFF800000
      let mo := if z && decide (i < r.e.zr) then ninf else start.rmx p
      let lo := if mo = ninf then 0 else start.rsmAt p
      let sc (j : Nat) : Nat :=
        if r.mask.getLsbD j then down (fun k => nthD .nan (streamRow ta (r.data.drop 8) r.data2 i) k) (r.tile.getD Tile.reset) j else ninf
      let m := fp32.round .rne (Val.fmax (fp32.decode mo) (treeReduce Val.fmax .nan 6 ((List.range 64).map fun j => fp32.decode (sc j))))
      let bad := m == fp32.nanEnc || m == 0x7F800000
      let pr (j : Nat) : Nat := if m = ninf ∨ sc j = ninf then 0
        else roundT tt .rne (Val.exp2 (fp32.decode (fp32.add (sc j) (fp32.neg m))))
      let f : Nat := if m = ninf then 0x3F800000 else if mo = ninf then 0
        else fp32.round .rne (Val.exp2 (Val.add .rne (fp32.decode mo) (fp32.decode m).negate))
      let sum := treeReduce fp32.add 0 6 ((List.range 64).map fun j => fp32.round .rne (decodeT tt (pr j)))
      let out := softRun start d r
      out.1 = { d with rmxX := out.1.rmxX, rsm := out.1.rsm } ∧ (∀ q, q ≠ p → out.1.rmx q = d.rmx q ∧ out.1.rsmAt q = d.rsmAt q) ∧
      out.1.rmx p = (if bad then fp32.nanEnc else m) ∧ out.1.rsmAt p = (if bad then fp32.nanEnc else fp32.fma lo f sum) ∧
      ∃ (ps : List Cell32) (fw : Cell32), out.2 = { r with wr := r.wr ++ [(r.k + depthOf tt, .trail p ps fw bad (mo == ninf))] } ∧
        ps.length = 64 ∧ (bad = false → fw.toNat = f ∧ ∀ j, j < 64 → (nthD 0 ps j).toNat = pr j)) ∧
    (∀ (p : Nat) (ps : List Cell32) (f : Cell32) (bad first : Bool), r.wr.filter (fun w => w.1 == r.k) = [(r.k, .trail p ps f bad first)] →
      ps.length = 64 →
      let out := trailRun start d r
      let plane := 4 + c.toNat
      out = { d with plane := out.plane } ∧
      (∀ j, j < 64 → nthD 0 (out.planeRow plane p) j = if bad then fp32.nanEnc else
        fp32.fma (if first then 0 else nthD 0 (start.planeRow plane p) j) f.toNat
          (down (fun k => decodeT tt ((nthD 0 ps k).toNat % 2 ^ (8 * typeBytes tt))) (r.tile2.getD Tile.reset) j)) ∧
      ∀ q x y, x < 64 → y < 64 → (q ≠ plane ∨ x ≠ p) → p < 64 → out.plane.get (planeKey q x y) = d.plane.get (planeKey q x y))) ∧
  (∀ (kn : Knots) (x : Val), kn.x0.isFinite = true → kn.h.isFinite = true → 0 < kn.h.rat → 1 ≤ kn.g →
    let z := fp32.decode (fp32.round .rne (Val.div (Val.add .rne x kn.x0.negate) kn.h))
    let t := fp32.decode (fp32.round .rne (Val.add .rne z (Val.ofInt (1 - (kn.g : Int)))))
    let on (m : Nat) (u : Rat) (flat : Bool) : Prop := ∃ v, basis kn x = .on m v flat ∧ v.isFinite = true ∧ v.rat = u
    (x.isNan = true → basis kn x = .nan) ∧
    (x.isNan = false → z.isFinite = true → 0 ≤ z.rat → z.rat < kn.g → on ⌊z.rat⌋.toNat (z.rat - ⌊z.rat⌋) false) ∧
    (x.isNan = false → z = .inf true ∨ z.isFinite = true ∧ z.rat < 0 →
      (kn.oog = 0 → on 0 0 true) ∧ (kn.oog = 1 → basis kn x = .none) ∧
      (kn.oog = 2 → z = .inf true ∨ z.rat < -8 → on 0 (-8) true) ∧ (kn.oog = 2 → z.isFinite = true → -8 ≤ z.rat → on 0 z.rat false)) ∧
    (x.isNan = false → z = .inf false ∨ z.isFinite = true ∧ (kn.g : Rat) ≤ z.rat →
      (kn.oog = 0 → on (kn.g - 1) 1 true) ∧ (kn.oog = 1 → basis kn x = .none) ∧
      (kn.oog = 2 → t = .inf false ∨ 9 < t.rat → on (kn.g - 1) 9 true) ∧
      (kn.oog = 2 → t.isFinite = true → t.rat ≤ 9 → on (kn.g - 1) t.rat false))) ∧
  (∀ (u : Val), u.isFinite = true →
    let v := u.rat
    let gives (l : List Nat) (k : Nat) (p : Rat) : Prop :=
      ∃ y, l[k]? = some y ∧ (p = 0 → y = 0) ∧ (p ≠ 0 → Rounded fp32 .rne (decide (p < 0)) p y)
    gives (betas 3 u) 0 ((1 - v) ^ 3) ∧ gives (betas 3 u) 1 (3 * v ^ 3 - 6 * v ^ 2 + 4) ∧
    gives (betas 3 u) 2 (-3 * v ^ 3 + 3 * v ^ 2 + 3 * v + 1) ∧ gives (betas 3 u) 3 (v ^ 3) ∧
    gives (betas' 3 u) 0 (-3 * (1 - v) ^ 2) ∧ gives (betas' 3 u) 1 (9 * v ^ 2 - 12 * v) ∧
    gives (betas' 3 u) 2 (-9 * v ^ 2 + 6 * v + 3) ∧ gives (betas' 3 u) 3 (3 * v ^ 2) ∧
    gives (betas 1 u) 0 (1 - v) ∧ gives (betas 1 u) 1 v ∧ gives (betas' 1 u) 0 (-1) ∧ gives (betas' 1 u) 1 1) ∧
  (∀ (start d : Dat) (r : Run) (z : Bool) (g c w : BitVec 2) (a b : Reg) (n : BitVec 10) (k : Option Cont) (i : Nat),
    let word := nthD 0 r.e.cap 2
    let kn : Knots := ⟨nthD 0 r.e.cap 0, nthD 0 r.e.cap 1⟩
    let t := fwA word
    let bt := fwB word
    let ev := r.e.ins = .msplEv g z c a n k
    let dx := r.e.ins = .msplDx g z c a b n k
    let gs := r.e.ins = .msplGs g z w a b n k
    let cpr : Nat := if bt = 1 then 4 else 1
    let x (q : Nat) : Val := nthD .nan (streamRow t r.data [] i) q
    let delta (q : Nat) : Nat := fp32.round .rne (nthD .nan (streamRow t r.data2 [] i) q)
    let store : Bits 16 := lookupD [] r.snaps i
    let coef (s y j : Nat) : Nat := fp32.round .rne (coefVal bt (store.get (coefKey s y j)))
    let term (m y j : Nat) (bs : List Nat) : Nat :=
      (List.range kn.deg).foldl (fun s q => fp32.fma (coef (m + 1 + q) y j) (nthD 0 bs (q + 1)) s) (fp32.mul (coef m y j) (nthD 0 bs 0))
    let p := (r.e.p0 + i) % 64
    let fresh := z && decide (i < r.e.zr)
    let out := splineRun start d r
    let adds (val : Nat → Nat) : Prop := out = { d with plane := out.plane } ∧
      (∀ j, j < 64 → nthD 0 (out.planeRow c.toNat p) j =
        fp32.add (if fresh then 0x80000000 else nthD 0 (start.planeRow c.toNat p) j) (val j)) ∧
      ∀ q l j, l < 64 → j < 64 → (q ≠ c.toNat ∨ l ≠ p) → out.plane.get (planeKey q l j) = d.plane.get (planeKey q l j)
    let depth : Nat := if bt = 1 then 160 else 148
    (ev → r.k < depth → out = d) ∧ (dx → r.k < depth + 8 → out = d) ∧ (gs → r.k < 140 → out = d) ∧
    (ev → depth ≤ r.k → rowsAt (cpr, 1) r.e.rem (r.k - depth) = [i] → adds fun j =>
      (List.range 64).foldl (fun s y => match basis kn (x y) with
        | .nan => fp32.nanEnc
        | .none => s
        | .on m u _ => fp32.add s (term m y j (betas kn.deg u))) 0x80000000) ∧
    (dx → depth + 8 ≤ r.k → rowsAt (cpr, 1) r.e.rem (r.k - (depth + 8)) = [i] → adds fun y =>
      match basis kn (x y) with
      | .nan => fp32.nanEnc
      | .none => fp32.round .rne (Val.div (.fin true 0 0) kn.h)
      | .on m u flat =>
        let s := (List.range 64).foldl (fun s j => fp32.fma (delta j) (term m y j (betas' kn.deg u)) s) 0x80000000
        fp32.round .rne (Val.div (if flat then .fin true 0 0 else fp32.decode s) kn.h)) ∧
    (gs → 140 ≤ r.k → rowsAt (kn.deg + 1, 1) r.e.rem (r.k - 140) = [i] → out = { d with plane := out.plane } ∧
      ∀ q y j, q < 8 → y < 64 → j < 64 →
        let old (e : Dat) : Nat := if fresh then 0 else nthD 0 (e.planeRow q y) j
        let s := 8 * w.toNat + q
        nthD 0 (out.planeRow q y) j = match basis kn (x y) with
          | .nan => fp32.nanEnc
          | .none => old d
          | .on m u _ => if m ≤ s ∧ s ≤ m + kn.deg then fp32.fma (delta j) (nthD 0 (betas kn.deg u) (s - m)) (old start) else old d))

/-- R149, R154, R157, R215, R222, R235, R259: what a cycle makes of the effects of issued entries: grid cells, predicate bits, completion
bits, the amax registers, and NF of the step flags. -/
def Obligations.EffectsOfACycle : Prop :=
  ∀ (c : Ctl) (start : Dat) (p k i q : Nat) (mask val : Word) (v : Cell32) (init : Bool) (runs : List Run) (r : Run),
    p < 8 → k < 8 → i < 64 → q < 8 →
    (let t := c.regEff (.pred p mask val)
     (∀ b, b < 64 → (t.sr.get (0x0C8 + p)).getLsbD b = if mask.getLsbD b then val.getLsbD b else (c.sr.get (0x0C8 + p)).getLsbD b) ∧
     t = { c with sr := t.sr } ∧ ∀ n, n ≠ 0x0C8 + p → t.sr.get n = c.sr.get n) ∧
    (let t := c.regEff (.cb k i)
     (∀ b, b < 64 → (t.sr.get (0x030 + k)).getLsbD b = (b == i || (c.sr.get (0x030 + k)).getLsbD b)) ∧
     t = { c with sr := t.sr } ∧ ∀ n, n ≠ 0x030 + k → t.sr.get n = c.sr.get n) ∧
    (let t := c.regEff (.amax q v init)
     (t.sr.get (0x038 + q)).toNat = (if init then v.toNat else fp32.round .rne
       (Val.fmax (fp32.decode ((c.sr.get (0x038 + q)).toNat % 2 ^ 32)) (fp32.decode v.toNat))) ∧
     t = { c with sr := t.sr } ∧ ∀ n, n ≠ 0x038 + q → t.sr.get n = c.sr.get n) ∧
    ((∀ r ∈ runs, r.q.timed = true) →
      let writes (n : Nat) (v : Cell32) : Prop := ∃ r ∈ runs, ∃ cells, (r.k, WEff.grid cells) ∈ r.wr ∧ (n, v) ∈ cells
      let out := (datCycle start runs).1
      (∀ n v, writes n v → (∀ x, writes n x → x = v) → out.grid.get n = v) ∧
      ∀ n, (∀ x, ¬ writes n x) → out.grid.get n = start.grid.get n) ∧
    (setsNf [r] = true ↔ (r.k, WEff.nf) ∈ r.wr)

/-- R162, R186, R294, R295, R327, R331 to R334: what an entry does when it issues from L (cp, ldx), F or K: copies, gathers, host copies
and K operations start, a walk and a plan with the cells of their grid line; fbar counts and notes the core's remote writes; fl.ld asks
for its bytes; fam leaves as a write of stream 0; fred asks the members of its group, or ends with BADARG; fcoll.set sets its group, or
ends with BADARG. That traffic between coaches of one die crosses no link (log 73), and that fcoll.set, and a fred of a group never set, end in
the cycle of their issue (log 6), are the model's choices. -/
def Obligations.UntimedOperationsIssue : Prop :=
  ∀ (d a b n rc : Reg) (p g tt nc fo : BitVec 4) (w : BitVec 6) (o11 : BitVec 11) (m z ord fop : BitVec 2) (aq zz : Bool) (tag : BitVec 3)
    (g8 : BitVec 8) (k : Option Cont) (u : UCont) (s : State),
    let kc := coachOf s.me
    let gg := s.gangOf kc
    let cells : List Nat := (List.range 64).map fun i => (gridLine (s.dat s.me) (GridOp.ofBits u.xg) i).toNat
    StartsOp (.cp d a n w k) s .l (fun _ => True) ∧ StartsOp (.ldx d a p w k) s .l (fun _ => True) ∧
    StartsOp (.cph m d a n u) s .f (fun o => o.pos = 0) ∧
    StartsOp (.spanOpen tag a u) s .k (fun _ => True) ∧ StartsOp (.spanApp a b u) s .k (fun _ => True) ∧
    StartsOp (.spanRt m tag a b u) s .k (fun _ => True) ∧ StartsOp (.kvFork m a b rc u) s .k (fun _ => True) ∧
    StartsOp (.kvDrop a u) s .k (fun _ => True) ∧ StartsOp (.kvHint m a b rc u) s .k (fun _ => True) ∧
    StartsOp (.kvWalk m g8 a b u) s .k (fun o => o.data = cells) ∧ StartsOp (.kvPlan m nc b o11 u) s .k (fun o => o.data = cells) ∧
    (∀ e, s.focus.cur = some e →
      (Answers (.fbar u) s fun t => OnlyCore s t s.me ∧ SameBytes s t ∧ t.dat s.me = s.dat s.me ∧
        t.ctl s.me = { s.ctl s.me with nfbar := (s.ctl s.me).nfbar + 1 } ∧
        ∃ o, t.eng s.me = { s.eng s.me with ops := (s.eng s.me).ops ++ [o] } ∧ IsStarted o e .f s.cyc ∧ o.pos = (s.ctl s.me).nfbar ∧
          o.data = ((s.coach kc).fab.out.filter fun x => x.core == s.me).map (·.id)) ∧
      (Answers (.flLd z aq d a o11 u) s fun t => OnlyTraffic s t s.me ∧ SameBytes s t ∧ t.ctl s.me = s.ctl s.me ∧
        (∃ o, t.eng s.me = { s.eng s.me with ops := (s.eng s.me).ops ++ [o] } ∧ IsStarted o e .f s.cyc) ∧
        ∀ r, s.parts kc e.map e.v1.toNat (64 * 4 ^ z.toNat) = [(e.v1.toNat, 64 * 4 ^ z.toNat, some r)] →
          (let dst := gg.coachAt (remoteCoach gg r e.v1.toNat)
           dieOf dst = dieOf kc → (s.die (dieOf kc)).lost = false → ∃ x : Msg, t.net = putKey s.net s.uid x ∧ x.kind = .read ∧ x.dst = dieOf dst ∧ x.dstCo = dst ∧
            x.srcCo = kc ∧ x.core = s.me ∧ x.id = e.id ∧ x.loc = s.locIn kc r e.ver e.v1.toNat ∧ x.opnd = [64 * 4 ^ z.toNat, 0] ∧
            x.nums = s.pendingNums s.me (dieOf dst))) ∧
      (∀ r, findEntry gg (s.mapOf kc e.map) e.v1.toNat = some r → Answers (.fam ord fo zz a b d u) s fun t =>
        let dst := gg.coachAt (remoteCoach gg r e.v1.toNat)
        (∃ o, t.eng s.me = { s.eng s.me with ops := (s.eng s.me).ops ++ [o] } ∧ IsStarted o e .f s.cyc) ∧ t.ctl s.me = s.ctl s.me ∧
        (∀ c, c ≠ s.me → t.core c = s.core c) ∧ (∀ c, c ≠ kc → t.coach c = s.coach c) ∧ SameBytes s t ∧
        (t.coach kc).fab.out.map (·.id) = (s.coach kc).fab.out.map (·.id) ++ [s.uid] ∧
        (∃ x ∈ (t.coach kc).fab.out, x.id = s.uid ∧ x.core = s.me ∧ x.stream = 0 ∧ x.dstCo = dst ∧ x.opId = e.id ∧
          x.nums = [(0, lookupD 0 (s.coach kc).fab.seqs (dieOf dst * 16))] ∧ x.loc = s.locIn kc r e.ver e.v1.toNat ∧
          x.atom = some (fo.toNat, if zz then 8 else 4, e.v2,
            BitVec.ofNat 64 (natOfBytes (s.ctxBytes kc e.map e.ver e.v0.toNat 8)))) ∧
        lookupD 0 (t.coach kc).fab.seqs (dieOf dst * 16) = (lookupD 0 (s.coach kc).fab.seqs (dieOf dst * 16) + 1) % 2 ^ 24) ∧
      (lookup? (s.coach kc).fab.groups g.toNat = none →
        Answers (.fred fop g tt b o11 u) s fun t => SameBytes s t ∧
          (e.ins = .fred fop g tt b o11 u → OpEnds s t s.me e.id u.aw 0 7)) ∧
      (∀ x, lookup? (s.coach kc).fab.groups g.toNat = some x → Answers (.fred fop g tt b o11 u) s fun t =>
        OnlyTraffic s t s.me ∧ SameBytes s t ∧ t.ctl s.me = s.ctl s.me ∧
        ∃ o, t.eng s.me = { s.eng s.me with ops := (s.eng s.me).ops ++ [o] } ∧ IsStarted o e .f s.cyc ∧ o.grp = some x) ∧
      (e.ins = .fcollSet g b o11 u →
        ((s.readGroup s.me e).2 = none → Answers (.fcollSet g b o11 u) s fun t => SameBytes s t ∧ OpEnds s t s.me e.id u.aw 0 7) ∧
        (∀ x, (s.readGroup s.me e).2 = some x → Answers (.fcollSet g b o11 u) s fun t => SameBytes s t ∧
          OpEnds s t s.me e.id u.aw (s.readGroup s.me e).1 0 ∧ lookup? (t.coach kc).fab.groups g.toNat = some x ∧
          (∀ h, h ≠ g.toNat → lookup? (t.coach kc).fab.groups h = lookup? (s.coach kc).fab.groups h) ∧
          ∀ c, c ≠ kc → t.coach c = s.coach c)))

/-- R40, R88, R115, R134, R135, R167, R169, R350, R351, R377: the events of a core that waits: the arrival handler is entered at HLINE with
the lowest calling word in WORD; the launch unit answers in the order of its checks, and an accepted child waits in the lowest free slot with
its record; ph.adv, fence.sc, bar and, on a coach that runs, exit complete. Each ends its own wait, and beside what is named nothing changes. -/
def Obligations.CoreEvents : Prop :=
  ∀ (core gang group : Nat) (sc : BitVec 3) (s : State),
    let c := s.ctl core
    let kc := coachOf core
    let k := s.coach kc
    let ahv := c.sr.get 0x029
    let own := s.gang (k.gang.getD 0)
    (∀ j, j < 64 → (c.sr.get 0x028).getLsbD j = true → (c.sr.get (0x080 + j)).getLsbD 63 = true →
      (∀ i, i < j → ¬ ((c.sr.get 0x028).getLsbD i = true ∧ (c.sr.get (0x080 + i)).getLsbD 63 = true)) →
      s.coreLive core = true → c.inHandler = false → (∀ code a, s.tryDispatch core ≠ .fault code a) →
      Answers (.handlerEntry core) s fun t => OnlyCtl s t core ∧ SameBytes s t ∧
        t.ctl core = { c with sr := (t.ctl core).sr, mainPc := c.pc, pc := ahv.toNat % 2048 } ∧
        (∀ n, n ≠ 0x029 → (t.ctl core).sr.get n = c.sr.get n) ∧
        ((t.ctl core).sr.get 0x029).getLsbD 63 = true ∧ ((t.ctl core).sr.get 0x029).toNat / 2 ^ 16 % 64 = j ∧
        ((t.ctl core).sr.get 0x029).toNat % 2 ^ 16 = ahv.toNat % 2 ^ 16) ∧
    (∀ id w addr due rest, c.blocks = .launch id w addr due :: rest → due ≤ s.cyc →
      let r := s.launchResult core w addr
      let words := (List.range 12).map fun i => s.mem.dword (.cmem core (addr.toNat % 65536 + 8 * i))
      let word (i : Nat) : Nat := (nthD 0 words i).toNat
      let pend := (w.map fun a => (c.sr.get (0x080 + a)).toNat / 2 ^ 52 % 2 ^ 11).getD 0
      (Answers (.launchAnswer core) s fun t =>
        .launch id w addr due ∉ (t.ctl core).blocks ∧ (∀ b, b ≠ .launch id w addr due → (b ∈ (t.ctl core).blocks ↔ b ∈ c.blocks)) ∧
        t = { r.2 with cores := t.cores } ∧ (∀ i, i ≠ core → t.core i = r.2.core i) ∧ t.dat core = s.dat core ∧
        ((s.eng core).sigs = [] → t.eng core = s.eng core) ∧
        ∀ p : Pend, c.pend = [p] → p.wait = some id → p.left = 0 → p.hnd = true ∨ c.inHandler = false →
          (t.ctl core).regs.get (regKey p.sh p.reg) = BitVec.ofNat 64 r.1 ∧ (t.ctl core).pend = []) ∧
      (65536 ≤ addr.toNat ∨ addr.toNat % 128 ≠ 0 → r = (0x0C, s)) ∧
      (addr.toNat < 65536 → addr.toNat % 128 = 0 →
        (s.freeSlot (dieOf kc) own.tenant = none → r = (0x0B, s)) ∧
        ∀ slot, s.freeSlot (dieOf kc) own.tenant = some slot →
          (word 1 / 2 ^ 32 % 4 < own.prio → r = (0x0D, s)) ∧
          (own.prio ≤ word 1 / 2 ^ 32 % 4 → pend = 2047 → r = (0x0E, s)) ∧
          (own.prio ≤ word 1 / 2 ^ 32 % 4 → pend < 2047 →
            (∀ code, s.rejectCode (dieOf kc) own.tenant words = some code → r = (code, s)) ∧
            (s.rejectCode (dieOf kc) own.tenant words = none →
              let child := r.2.gang slot
              r.1 = slot % 64 * 256 ∧ child.stand = .waiting ∧ child.tenant = own.tenant ∧ child.words = words ∧ child.recAt = none ∧
              child.accept / 4096 = s.cyc ∧ child.parent = w.map (fun a => (k.gang.getD 0, own.accept, k.lco * 16 + core % 16, a)) ∧
              child.budget = (if word 2 % 2 ^ 48 = 0 then s.mem.num (.dev (dieOf kc) (word 0 % 2 ^ 48 + 16)) 8 % 2 ^ 48
                else word 2 % 2 ^ 48) ∧
              (∀ i, i ≠ slot → r.2.gang i = s.gang i) ∧ OnlyCore { s with gangs := r.2.gangs } r.2 core ∧
              (w = none → r.2.core core = s.core core) ∧
              ∀ a, w = some a → r.2.core core = { s.core core with ctl := { c with sr := (r.2.ctl core).sr } } ∧
                ∀ n, (r.2.ctl core).sr.get n = if n = 0x080 + a then awRegister (c.sr.get n) else c.sr.get n)))) ∧
    (s.advReady core = true → Answers (.phAdvComplete core) s fun t =>
      t.ctl core = { c with sr := (t.ctl core).sr, blocks := (t.ctl core).blocks, hblocks := (t.ctl core).hblocks } ∧
      (∀ b, (b ∈ (t.ctl core).blocks ↔ b ∈ c.blocks ∧ b ≠ .phAdv) ∧ (b ∈ (t.ctl core).hblocks ↔ b ∈ c.hblocks ∧ b ≠ .phAdv)) ∧
      ((t.ctl core).sr.get 0x020).toNat = k.ph.pht % 16 ∧
      (∀ n, n ≠ 0x020 → (t.ctl core).sr.get n = c.sr.get n) ∧ t.eng core = s.eng core ∧ t.dat core = s.dat core ∧
      (∀ i, i ≠ core → t.core i = s.core i) ∧ (∀ i, i ≠ kc → t.coach i = s.coach i) ∧ SameBytes s t ∧
      (k.ph.ndone < 15 → (t.coach kc).ph = { k.ph with ndone := k.ph.ndone + 1 }) ∧
      (15 ≤ k.ph.ndone → (t.coach kc).ph.prep = false ∧ (t.coach kc).ph.reach = [] ∧ (t.coach kc).ph.ndone = 0 ∧
        (t.coach kc).ph.pht = k.ph.pht)) ∧
    (s.advReady core = false → Answers (.phAdvComplete core) s fun t => t = s) ∧
    (Answers (.fenceComplete core) s fun t => OnlyCtl s t core ∧ SameBytes s t ∧
      t.ctl core = { c with blocks := (t.ctl core).blocks, hblocks := (t.ctl core).hblocks } ∧
      ∀ b, (b ∈ (t.ctl core).blocks ↔ b ∈ c.blocks ∧ ∀ r, b = .fence r → s.relDone core r = false) ∧
        (b ∈ (t.ctl core).hblocks ↔ b ∈ c.hblocks ∧ ∀ r, b = .fence r → s.relDone core r = false)) ∧
    (∀ r, c.stand = .exiting r → k.stand ≠ .running ∨ s.relDone core r = false → Answers (.coreExited core) s fun t => t = s) ∧
    (∀ r, c.stand = .exiting r → k.stand = .running → s.relDone core r = true → Answers (.coreExited core) s fun t =>
      t.ctl core = { c with stand := .exited } ∧ t.eng core = s.eng core ∧ t.dat core = s.dat core ∧
      (∀ i, i ≠ core → t.core i = s.core i) ∧ (∀ i, i ≠ kc → t.coach i = s.coach i) ∧ SameBytes s t ∧
      (k.ph.prep = true → k.ph.reach.contains core = false → k.ph.ndone < 15 →
        (t.coach kc).ph = { k.ph with reach := k.ph.reach ++ [core], ndone := k.ph.ndone + 1 }) ∧
      (k.ph.prep = false → (t.coach kc).ph = k.ph)) ∧
    (let who := (s.gang gang).participants sc.toNat group
     ∀ n, (∀ d ∈ who, (s.coach (coachOf d)).stand = .running) →
        (∀ d ∈ who, (s.ctl d).stand = .exited ∨ ∃ r, .bar sc.toNat n r ∈ (s.ctl d).blocks ∧ s.relDone d r = true) →
        (∃ d ∈ who, ∃ r, .bar sc.toNat n r ∈ (s.ctl d).blocks) →
        (∀ d ∈ who, ∀ m r, .bar sc.toNat m r ∈ (s.ctl d).blocks → n ≤ m) →
      Answers (.barComplete gang sc group) s fun t => t = { s with cores := t.cores } ∧ SameBytes s t ∧ (∀ d, d ∉ who → t.core d = s.core d) ∧
        ∀ d ∈ who,
          t.core d = { s.core d with ctl := { s.ctl d with blocks := (t.ctl d).blocks, hblocks := (t.ctl d).hblocks } } ∧
          ∀ b, (b ∈ (t.ctl d).blocks ↔ b ∈ (s.ctl d).blocks ∧ ∀ r, b ≠ .bar sc.toNat n r) ∧
            (b ∈ (t.ctl d).hblocks ↔ b ∈ (s.ctl d).hblocks ∧ ∀ r, b ≠ .bar sc.toNat n r))

/-- R35, R95, R124, R158, R177 to R181, R184: the events of a coach's timed domain: the start tick: once it has reached the coach the coach
starts at its cycle, with the capacity that the maps home cleared at the first one; a coach that it reaches later is lost with its die, and one
whose gang stops meanwhile does not start; the end of a TCLK cycle, the ring lanes, the words of a running segment, landings, and the release of
the freeze line. That a tick without a route does not come (log 100), and that a request made while the gang was held still stands at its start
(log 98), are the model's choices. -/
def Obligations.TimedDomainEvents : Prop :=
  ∀ (kc : Nat) (s : State),
    let k := s.coach kc
    let tl := k.tl
    let x := s.tlWord kc (tl.base + tl.word)
    (∀ t0 rx resume gi, k.stand = .ready t0 rx resume → k.gang = some gi →
      let home := s.hearsHome kc = true
      let comes := rx = 0 ∧ t0 ≤ s.cyc ∨ rx ≠ 0 ∧ rx ≤ s.cyc ∧ home ∧ s.cyc = t0
      (rx = 0 ∧ s.cyc < t0 ∨ rx ≠ 0 ∧ (s.cyc < rx ∨ ¬ home) → Answers (.startTick kc) s fun t => t = s) ∧
      (rx ≠ 0 → rx ≤ s.cyc → home → t0 < s.cyc →
        Answers (.startTick kc) s fun t => t = s.loseFor gi (k.lco / ((s.gang gi).ncoach / (s.gang gi).ndie))) ∧
      (rx ≠ 0 → rx ≤ s.cyc → home → s.cyc < t0 → (s.gang gi).stand ≠ .stopping → Answers (.startTick kc) s fun t =>
        t = { s with coaches := t.coaches, dies := t.dies } ∧ t.coach kc = { k with stand := .ready t0 0 resume } ∧
        ∀ i, i ≠ kc → t.coach i = s.coach i) ∧
      (comes → (s.gang gi).stand = .stopping → Answers (.startTick kc) s fun t =>
        t = { s with coaches := t.coaches, dies := t.dies } ∧ t.coach kc = { k with stand := .drained } ∧
        ∀ i, i ≠ kc → t.coach i = s.coach i) ∧
      (comes → (s.gang gi).stand ≠ .stopping → Answers (.startTick kc) s fun t =>
        let again := resume = true ∨ (s.gang gi).open_ = true
        (t.coach kc).stand = .running ∧ (t.coach kc).tclk = (if resume then k.tsave else 0) ∧
        (t.gang gi).stand = (if (s.gang gi).preTmo = 0 then .running else .preempting) ∧
        (t.coach kc).preReq = decide ((s.gang gi).preTmo ≠ 0) ∧
        (∀ i, i ≠ kc → t.coach i = s.coach i) ∧ (∀ i, coachOf i ≠ kc → t.core i = s.core i) ∧
        (∀ i, coachOf i = kc → t.eng i = s.eng i ∧ t.dat i = s.dat i ∧
          (t.ctl i).stand = (if (s.ctl i).stand = .idle then .running else (s.ctl i).stand) ∧
          (t.ctl i).sr.get 0x008 = if resume = true ∨ (s.gang gi).open_ = true then (s.ctl i).sr.get 0x008 else BitVec.ofNat 64 t0) ∧
        (again ∨ (∀ m ∈ k.phases, ∀ e ∈ m, e.home ≠ 3) →
          ((s.gang gi).recAt = none → SameBytes s t) ∧
          ∀ a, (s.gang gi).recAt = some a → t.mem.num (.dev (gi / 64) (a + 96)) 8 = 2 ∧
            ∀ i, i < (Loc.dev (gi / 64) (a + 96)).key ∨ (Loc.dev (gi / 64) (a + 96)).key + 8 ≤ i → t.mem.byte i = s.mem.byte i) ∧
        (¬ again → ∀ m ∈ k.phases, ∀ e ∈ m, e.home = 3 → e.inAllotment ((s.die (dieOf kc)).capSize (s.gang gi).tenant) = true →
          ∀ g, e.offg ≤ g → g < e.offg + e.leng →
          (s.die (dieOf kc)).pooled (s.gang gi).tenant g = false →
          ∀ o, o < 4096 → (∀ p ∈ k.kept, g * 4096 + o < p.1 ∨ p.1 + p.2 ≤ g * 4096 + o) →
            t.mem.byte ((s.capLoc (dieOf kc) (s.gang gi).tenant (g * 4096)).key + o) = 0))) ∧
    (s.takesPlace kc = true → k.opened = some s.cyc → k.due = [] →
      (Answers (.timedWritePerform kc) s fun t => (t.coach kc).tclk = k.tclk + 1 ∧
        (∀ i, i ≠ kc → (t.coach i).tclk = (s.coach i).tclk) ∧ (∀ i, coachOf i ≠ kc → t.core i = s.core i) ∧
        (∀ i, coachOf i = kc → (s.eng i).run = [] → t.core i = s.core i) ∧
        ((∀ i, coachOf i = kc → (s.eng i).run = []) → t = s.setCoach kc { k with tclk := k.tclk + 1 })) ∧
      ((∀ i, coachOf i = kc → (s.eng i).run = []) → Answers (.ringBeatPark kc) s fun t =>
        t = s.setCoach kc (t.coach kc) ∧
        (t.coach kc).beats = (k.beats.map fun b => { b with pos := ringNext b.lane b.pos }).filter (fun b => b.pos != b.target) ∧
        ∀ b, k.beats = [b] → ringNext b.lane b.pos = b.target →
          let i := coreIx (beatCore kc b) * 16 + b.lane
          (lookupD [] k.park i).length < 4 → lookupD [] (t.coach kc).park i = lookupD [] k.park i ++ [b.data])) ∧
    (s.wordDue kc = true →
      (∀ cause, tl.cause x tl.at_ (s.poolByte kc) = some cause →
        Answers (.timelineWord kc) s fun t => t = s.tlFault kc cause ∧ SameBytes s t) ∧
      (tl.cause x tl.at_ (s.poolByte kc) = none → Answers (.timelineWord kc) s fun t =>
        (t.coach kc).tl.word = tl.word + 1 ∧ (t.coach kc).tl.running = (tlCmd x != 0) ∧ t.cores = s.cores ∧
        t.coach kc = { k with tl := (t.coach kc).tl } ∧ (∀ i, i ≠ kc → t.coach i = s.coach i) ∧
        (tlCmd x ≠ 0 → (t.coach kc).tl.at_ = tl.at_ + tlDelta (s.tlWord kc (tl.base + tl.word + 1))) ∧
        (tlCmd x = 2 → SameBytes s t ∧ (t.coach kc).tl.land = tl.land ++
          [(tl.at_ + 96, tl.core, tlSram x, s.mem.read (Loc.hbm kc (tlByte x)).key 64)]) ∧
        (tlCmd x = 3 → (t.coach kc).tl.land = tl.land ++ [(tl.at_, tl.core, tlSram x, [])] ∧
          t.mem.read (Loc.hbm kc (tlByte x)).key 64 = s.mem.read (Loc.sram kc (tlSram x)).key 64 ∧
          ∀ j, j < (Loc.hbm kc (tlByte x)).key ∨ (Loc.hbm kc (tlByte x)).key + 64 ≤ j → t.mem.byte j = s.mem.byte j) ∧
        (tlCmd x ≠ 2 → tlCmd x ≠ 3 → (t.coach kc).tl.land = tl.land ∧ SameBytes s t))) ∧
    (Answers (.landingWrite kc) s fun t =>
      (t.coach kc).tl.land = tl.land.filter (fun l => decide (k.tclk ≤ l.1)) ∧
      t.coach kc = { k with tl := { tl with land := (t.coach kc).tl.land }, landed := (t.coach kc).landed } ∧
      (∀ i, i ≠ kc → t.coach i = s.coach i) ∧ t.cores = s.cores ∧ ((∀ l ∈ tl.land, k.tclk ≤ l.1) → SameBytes s t) ∧
      ∀ a core sram data, tl.land = [(a, core, sram, data)] → a < k.tclk →
        (∀ j, j < data.length → t.mem.byte ((Loc.sram kc sram).key + j) = nthD 0 data j) ∧
        ∀ i, i < (Loc.sram kc sram).key ∨ (Loc.sram kc sram).key + data.length ≤ i → t.mem.byte i = s.mem.byte i) ∧
    (k.stand = .running → tl.hold = true → s.paceAsserts (dieOf kc) = false → s.conditions kc = false →
      (s.delays.headD 0 = 0 → Answers (.freezeRowRestore kc) s fun t => (t.coach kc).frozen = false ∧ (t.coach kc).tl.hold = false ∧
        t = ({ s with delays := s.delays.tail } : State).setCoach kc (t.coach kc)) ∧
      (0 < s.delays.headD 0 → Answers (.freezeRowRestore kc) s fun t => t = { s with delays := s.delays.tail }))

/-- R149, R162, R176, R186, R188: bulk copies and stride gathers move one unit of 64 bytes after another: a unit is read, in a cycle of its own,
as it stood at the start of the cycle in SRAM, and written when the path of its end serves it; nothing happens before. A copy moves byte j of
its source to byte j of its destination, a gather element (i, j) to place j * NR + i; the write of the last unit completes either with its
number of bytes. The lookups whose time has come are answered. That a unit is read in one event and written in a later cycle is the model's
reading (log 39). -/
def Obligations.CopiesAndGathersComplete : Prop :=
  ∀ (core n : Nat) (o : Op) (d a l : Reg) (w : BitVec 6) (p : BitVec 4) (k : Option Cont) (s : State), (s.eng core).op? n = some o →
    let kc := coachOf core
    let e := o.e
    let dst := e.v0.toNat + o.pos
    let here (r : MapEntry) (x i : Nat) : Byte := if r.home = 1 then s.was.byte ((s.locIn kc r e.ver x).key + i) else s.mem.byte ((s.locIn kc r e.ver x).key + i)
    let becomes (t : State) (x : Op) : Prop :=
      t.core core = { s.core core with eng := { s.eng core with ops := (s.eng core).ops.map fun y => if y.id = n then x else y } }
    let reads (i : Instr) (byte : Nat → Byte → Prop) : Prop := Answers i s fun t => SameBytes s t ∧ OnlyCore { s with slots := t.slots } t core ∧
      ∃ x : Op, x = { o with bytes := x.bytes, due := s.cyc + 1 } ∧ becomes t x ∧ x.bytes.length = 64 ∧ ∀ j, j < 64 → byte j (nthD (0, 0) x.bytes j).2
    let writes (i : Instr) (total : Nat) : Prop := Answers i s fun t =>
      (∀ r, Covers s kc e.map dst 64 r → r.home = 1 ∨ r.home = 2 → (s.coach kc).ph.prep = false →
        let at_ := (s.locIn kc r e.ver dst).key
        (∀ j, j < 64 → t.mem.byte (at_ + j) = (nthD (0, 0) o.bytes j).2) ∧ ∀ i, i < at_ ∨ at_ + 64 ≤ i → t.mem.byte i = s.mem.byte i) ∧
      (total ≤ o.pos + 64 → OpEnds s t core n w total 0) ∧
      (o.pos + 64 < total → (∀ c, c ≠ core → t.core c = s.core c) ∧
        ∃ x : Op, x = { o with pos := o.pos + 64, bytes := [], due := x.due } ∧ s.cyc < x.due ∧ becomes t x)
    (e.ins = .cp d a l w k →
      let src := e.v1.toNat + o.pos
      (o.due ≤ s.cyc → o.bytes = [] → s.ctxServed kc e.map e.ver src 64 = true →
        ∀ r, Covers s kc e.map src 64 r → r.home = 1 ∨ r.home = 2 → reads (.cpComplete core n) fun j b => b = here r src j) ∧
      (o.due ≤ s.cyc → o.bytes.length = 64 → s.ctxServed kc e.map e.ver dst 64 = true → writes (.cpComplete core n) e.v2.toNat) ∧
      (s.cyc < o.due ∨ (o.bytes = [] ∧ s.ctxServed kc e.map e.ver src 64 = false) ∨
          (o.bytes ≠ [] ∧ s.ctxServed kc e.map e.ver dst 64 = false) →
        Answers (.cpComplete core n) s fun t => t = s)) ∧
    (e.ins = .ldx d a p w k →
      let f := nthD 0 e.cap 0
      let ez := 2 ^ (f.toNat / 2 ^ 62)
      let nr := f.toNat / 2 ^ 50 % 4096 + 1
      let nc := f.toNat / 2 ^ 38 % 4096 + 1
      let pitch := f.toNat % 2 ^ 36
      let off (q : Nat) : Nat := (o.pos / ez + q) % nr * pitch + (o.pos / ez + q) / nr * ez
      (o.due ≤ s.cyc → o.bytes = [] → (∀ q, q < 64 / ez → s.ctxServed kc e.map e.ver (e.v1.toNat + off q) ez = true) →
        o.pos + 64 ≤ nr * nc * ez → o.pos % ez = 0 →
        ∀ r, Covers s kc e.map e.v1.toNat ((nr - 1) * pitch + nc * ez) r → r.home = 2 →
          reads (.ldxComplete core n) fun j b => b = here r e.v1.toNat (off (j / ez) + j % ez)) ∧
      (o.due ≤ s.cyc → o.bytes.length = 64 → s.ctxServed kc e.map e.ver dst 64 = true → writes (.ldxComplete core n) (nr * nc * ez)) ∧
      (s.cyc < o.due ∨ (o.bytes = [] ∧ ∃ q, q < 64 / ez ∧ s.ctxServed kc e.map e.ver (e.v1.toNat + off q) ez = false) ∨
          (o.bytes ≠ [] ∧ s.ctxServed kc e.map e.ver dst 64 = false) →
        Answers (.ldxComplete core n) s fun t => t = s)) ∧
    (Answers (.tierLookupAnswer core) s fun t =>
      OnlyCore s t core ∧ SameBytes s t ∧ t.core core = { s.core core with eng := { s.eng core with ql := (t.eng core).ql } } ∧
      (t.eng core).ql.map (·.id) = (s.eng core).ql.map (·.id) ∧
      ∀ x ∈ (t.eng core).ql, x.lookupWaits = true → s.cyc < x.rem)

/-- R146, R294, R296 to R299, R302, R303, R327: the head of an F queue that is ready, and one of a K queue, issues alone; a K operation is
applied whole to the pool its sequence value names, or is BADARG with no effect; an applied one writes its bytes unit by unit, once the slot of
the unit's block is free, and completes with the last of them with its value and status. That a pool still to be discarded answers BADARG as
one of EN 0 does (poolOn) is the model's choice (log 94).
The rules of span.open, span.app, kv.fork.new and kv.drop for a sequence that does not exist, or does, are given as well. -/
def Obligations.KOperationsApply : Prop :=
  ∀ (core n : Nat) (a b c : Reg) (tag : BitVec 3) (m : BitVec 2) (nc : BitVec 4) (off : BitVec 11) (g8 : BitVec 8) (u : UCont)
    (v0 v1 v2 : Word) (s : State),
    KGives s core (.spanOpen tag a u) v0 v1 v2 (fun p id _ => p.open_ id tag.toNat) ∧
    KGives s core (.spanApp a b u) v0 v1 v2 (fun p id m => p.app id v1.toNat m) ∧
    KGives s core (.spanRt 0 tag a b u) v0 v1 v2 (fun p id m => p.rt id tag.toNat false v1 m) ∧
    KGives s core (.spanRt 1 tag a b u) v0 v1 v2 (fun p id m => p.rt id tag.toNat true v1 m) ∧
    KGives s core (.kvFork 1 a b c u) v0 v1 v2 (fun p id _ => p.forkNew id) ∧
    KGives s core (.kvDrop a u) v0 v1 v2 (fun p id _ => p.drop id) ∧
    (∀ (p : Pool) (id t n k : Nat) (q : Seq),
      (lookup? p.seqs id = none → p.open_ id t = (p, 0, 7) ∧ p.app id n k = (p, 0, 7) ∧ p.drop id = (p, 0, 7) ∧
        (lookup? (p.forkNew id).1.seqs id = some { path := [], next := 0, tag := 0, num := 0 } ∧ (p.forkNew id).2 = (0, 0))) ∧
      (lookup? p.seqs id = some q → hasKey p.seqs id = true → p.forkNew id = (p, 0, 7) ∧
        (p.open_ id t).2 = (q.num + 1, 0) ∧ lookup? (p.open_ id t).1.seqs id = some { q with tag := t, num := q.num + 1 } ∧
        (q.num = 0 ∨ n = 0 ∨ 4096 < n → p.app id n k = (p, 0, 7)) ∧
        (q.num ≠ 0 → 0 < n → n ≤ 4096 → (p.app id n k).2 = (q.next, 0) ∨ p.app id n k = (p, 0, 6)) ∧
        lookup? (p.drop id).1.seqs id = none)) ∧
    (∀ o, (s.eng core).op? n = some o → o.q = .k → o.done = true → o.due ≤ s.cyc →
      (s.cellsServed (o.unit o.bytes) = false → Answers (.kOperationApply core n) s fun t => t = s) ∧
      (s.cellsServed (o.unit o.bytes) = true →
        (o.e.ins = .spanApp a b u ∨ o.e.ins = .kvPlan m nc b off u ∨ o.e.ins = .kvWalk m g8 b c u) →
        let unit := 64 - ((o.bytes.drop o.pos).headD (0, 0)).1 % 64
        let moved (t : State) : Prop := (s.coach (coachOf core)).ph.prep = false →
          t.mem = s.mem.writeCells ((o.bytes.drop o.pos).take unit)
        (o.bytes.length ≤ o.pos + unit → Answers (.kOperationApply core n) s fun t => OpEnds s t core n u.aw o.val o.stat ∧ moved t ∧
          ((s.eng core).shr = [] → t.dat core = { s.dat core with grid := (s.dat core).grid.puts o.cells })) ∧
        (o.pos + unit < o.bytes.length → Answers (.kOperationApply core n) s fun t => moved t ∧ (∀ c, c ≠ core → t.core c = s.core c) ∧
          t.core core = { s.core core with eng := { s.eng core with
            ops := (s.eng core).ops.map fun y => if y.id = n then { o with pos := o.pos + unit } else y } }))) ∧
    (∀ e rest, (s.eng core).qf = e :: rest → (s.coach (coachOf core)).stand = .running → e.ins.queue? = some .f →
      (s.untimedReady core .f e = false → Answers (.fQueueIssue core) s fun t => t = s) ∧
      (s.untimedReady core .f e = true → ∃ x,
        exec e.ins ((s.setEng core ((s.eng core).setQueue .f rest)).focusEntry core e) = .next x ∧
        Answers (.fQueueIssue core) s fun t => t = ({ x with focus := { x.focus with cur := none } } : State).settleSigs core)) ∧
    (∀ e rest, (s.eng core).qk = e :: rest → (s.eng core).op? e.id = none → (s.coach (coachOf core)).stand = .running →
      e.ins.queue? = some .k →
      (s.untimedReady core .k e = false → Answers (.kOperationApply core e.id) s fun t => t = s) ∧
      (s.untimedReady core .k e = true → ∃ x,
        exec e.ins ((s.setEng core ((s.eng core).setQueue .k rest)).focusEntry core e) = .next x ∧
        Answers (.kOperationApply core e.id) s fun t => t = ({ x with focus := { x.focus with cur := none } } : State).settleSigs core))

/-- R309, R310, R313, R315: a router puts the next message of the class whose turn it is on a link, with the next LSEQ; a die takes the oldest
flit of a link: one for the die itself is taken in, any other leaves the wire and waits for the next link of its route, or, where that link
carries nothing, is lost: a store or an acknowledgement for good (its sender recovers it), any other message to be sent again on a next route;
a bad CRC asks for a replay. A failing link retrains in the next mode in both directions, its flits held, and goes on in order; in mode NRZ-4
it goes down, what is on it is lost in the same way, both its dies know at once and every other die within 2 µs; a link that is down or
untrained does not retrain; a die learns of a down link in both directions. That a flit with a bad CRC is a mishap of the outside is the
model's (log 6), and so is that a link which never trained counts as one that is down (log 100). -/
def Obligations.LinkEvents : Prop :=
  ∀ (die l n : Nat) (s : State),
    let i := die * 6 + l
    let x := s.link i
    let far := neighbour die l * 6 + opposite l
    let y := s.link far
    (∀ m c sh, x.up = true → x.retrain = false → pickClass x = some (c, sh) → x.wait.find? (fun m => m.cls == c) = some m →
      Answers (.flitForward die l) s fun t => (∀ j, j ≠ i → t.link j = s.link j) ∧ t = { s with links := t.links } ∧
        (t.link i).wire = x.wire ++ [{ msg := m, lseq := x.tx }] ∧ (t.link i).tx = (x.tx + 1) % 2 ^ 32 ∧
        (t.link i).wait.length + 1 = x.wait.length ∧ (t.link i).mode = x.mode ∧ (t.link i).up = true) ∧
    (∀ m c, x.wait.find? (fun m => m.cls == 0) = some m → pickClass x = some (c, x.share) → c = 0) ∧
    (x.up = false ∨ x.retrain = true → Answers (.flitForward die l) s fun t => t = s) ∧
    (∀ f rest, y.wire = f :: rest → y.retrain = false →
      (s.noise.headD false = true → Answers (.flitReceive die l) s fun t => (∀ j, j ≠ far → t.link j = s.link j) ∧
        (t.link far).wire = y.wire ∧ (t.link far).tries = y.tries + 1 ∧
        (t.link far).replay = min (y.replay + y.wire.length) 0xFFFFFFF ∧ t.net = s.net ∧ SameBytes s t) ∧
      (s.noise.headD false = false → Answers (.flitReceive die l) s fun t => (t.link far).tries = 0 ∧ SameBytes s t ∧
        t.cores = s.cores ∧
        (f.msg.dst = die → (∀ j, j ≠ far → t.link j = s.link j) ∧ (t.link far).wire = rest ∧
          ((s.die die).lost = false → ∃ due, s.cyc < due ∧ t.net = putKey s.net s.uid { f.msg with due := due }) ∧
          ((s.die die).lost = true → t.net = s.net)) ∧
        (∀ nx, f.msg.dst ≠ die → i ≠ far →
          (routeLinks f.msg.src f.msg.dst (f.msg.order, f.msg.long)).find? (fun j => j / 6 == die) = some nx → nx ≠ far →
          let z := s.link nx
          (z.dead = false → (t.link far).wire = rest ∧ (∀ j, j ≠ far → j ≠ nx → t.link j = s.link j) ∧
            (∃ b, (b = true → f.msg.clear = true) ∧ t.link nx = { z with wait := z.wait ++ [{ f.msg with clear := b }] }) ∧
            t = { s with links := t.links, noise := t.noise }) ∧
          (z.dead = true → f.msg.kind = .write ∨ f.msg.kind = .ack → (t.link far).wire = rest ∧
            (∀ j, j ≠ far → t.link j = s.link j) ∧ t = { s with links := t.links, noise := t.noise }) ∧
          (z.dead = true → f.msg.kind ≠ .write → f.msg.kind ≠ .ack →
            t = ({ s.setLink far { y with wire := rest, tries := 0 } with noise := s.noise.tail } : State).send f.msg)))) ∧
    (y.wire = [] ∨ y.retrain = true → Answers (.flitReceive die l) s fun t => t = s) ∧
    (x.dead = true → Answers (.linkRetrain die l) s fun t => t = s) ∧
    (i ≠ far → x.dead = false → x.mode < 3 → Answers (.linkRetrain die l) s fun t =>
      (∀ j, j ≠ i → j ≠ far → t.link j = s.link j) ∧ SameBytes s t ∧ t.cores = s.cores ∧
      (t.link i).mode = x.mode + 1 ∧ (t.link far).mode = x.mode + 1 ∧ (t.link i).retrain = true ∧ (t.link far).retrain = true ∧
      (t.link i).retrn = min (x.retrn + 1) 255 ∧ (t.link i).wire = x.wire ∧ (t.link i).wait = x.wait ∧ (t.link far).wire = y.wire ∧
      (t.link far).wait = y.wait ∧ (t.link i).due ≤ s.cyc + 60000) ∧
    (l < 6 → i ≠ far → x.dead = false → x.mode = 3 → x.wire = [] → y.wire = [] → x.wait = [] → y.wait = [] →
      Answers (.linkRetrain die l) s fun t =>
        t = { s with links := t.links, dies := t.dies, net := t.net, delays := t.delays, uid := t.uid } ∧
        (∀ j, j ≠ i → j ≠ far → t.link j = s.link j) ∧
        t.link i = { x with mode := 4, up := false, retrain := false, tries := 0 } ∧
        t.link far = { y with mode := 4, up := false, retrain := false, tries := 0 } ∧
        (∀ d, d = die ∨ d = neighbour die l → i ∈ (t.die d).downs ∧ neighbour die l * 6 + opposite l ∈ (t.die d).downs) ∧
        ∀ d ∈ s.present, d ≠ die → d ≠ neighbour die l → (s.die d).lost = false →
          ∃ p ∈ t.net, p.2.kind = .linkState i ∧ p.2.dst = d ∧ p.2.due ≤ s.cyc + 6000) ∧
    (∀ f, l < 6 → i ≠ far → x.dead = false → x.mode = 3 → x.wire = [f] → y.wire = [] → x.wait = [] → y.wait = [] →
      ∃ u, exec (.linkRetrain die l) (s.setLink i { x with wire := [] }) = .next u ∧ Answers (.linkRetrain die l) s fun t =>
        t = if f.msg.kind = .write ∨ f.msg.kind = .ack then u else u.send f.msg) ∧
    (i ≠ far → x.retrain = true → x.due ≤ s.cyc → Answers (.retrainComplete die l) s fun t =>
      (∀ j, j ≠ i → j ≠ far → t.link j = s.link j) ∧ t = { s with links := t.links } ∧
      t.link i = { x with retrain := false, up := true } ∧ t.link far = { y with retrain := false, up := true }) ∧
    (x.retrain = false ∨ s.cyc < x.due → Answers (.retrainComplete die l) s fun t => t = s) ∧
    (∀ m d, lookup? s.net n = some m → m.kind = .linkState d → m.due ≤ s.cyc → Answers (.linkStateMessage n) s fun t =>
      d ∈ (t.die m.dst).downs ∧ neighbour (d / 6) (d % 6) * 6 + opposite (d % 6) ∈ (t.die m.dst).downs ∧
      lookup? t.net n = none ∧ (∀ j, j ≠ m.dst → t.die j = s.die j) ∧ t.cores = s.cores ∧ SameBytes s t)

/-- R140, R146, R172, R318 to R325, R328 to R330: a remote write whose numbers are next is performed unit by unit in the dynamic slot of its
block, committed with the last unit and acknowledged, or its change goes on to the parity member, which is changed in the same way and
acknowledges; a duplicate stores nothing and is acknowledged again, one that is early is held, one for a coach without a context or of a broken
triple is gone; a remote atomic in its turn writes the table's new value at its place and answers with the old one; the first acknowledgement
lowers OUT and a later one changes nothing; an atomic's result ends its operation with value 8; a released write leaves once its release set is
complete; a late write is sent again on the next route, with the triple's other writes that are not acknowledged, in their order; with no route
left its streams break, with one stream-broken fault at either end, and a break notice leaves on a route that remains; a read is answered with
the bytes at the start of the cycle, unit by unit, and its data lands unit by unit and ends the load with its size. The model's: one unit in one
event (log 39), the time of an acknowledgement (log 70), which core and coach raise 0x60 (log 75), the size at which cas compares (log 87), and
that a link which never trained counts as one that is down (log 100). -/
def Obligations.RemoteWritesAndReads : Prop :=
  (∀ (n : Nat) (m : Msg) (s : State), lookup? s.net n = some m →
    let d := s.die m.dst
    let f := s.fabAt m
    let alone := { s with net := dropKey s.net n }
    let o := m.got.length
    let here := (m.loc.add o).key
    let leaves (t : State) (from_ dst : Nat) (p : Msg → Prop) : Prop := from_ = dst → (s.die from_).lost = false →
      ∃ x : Msg, t.net = putKey (dropKey s.net n) s.uid x ∧ x.dst = dst ∧ x.id = m.id ∧ x.core = m.core ∧ s.cyc < x.due ∧ p x
    let acked (t : State) (dst : Nat) (old : List Byte) : Prop :=
      leaves t m.dst dst fun x => x.kind = .ack ∧ x.dstCo = m.srcCo ∧ x.data = old
    let goesOn (t : State) (bs : List Byte) : Prop := lookup? t.net n = some { m with got := m.got ++ bs } ∧
      (∀ i, i ≠ n → lookup? t.net i = lookup? s.net i) ∧ t.coaches = s.coaches ∧ t.links = s.links
    let stored (t : State) (v : Nat → Byte → Byte) : Prop := ∀ j, t.mem.byte j =
      if here ≤ j ∧ j < here + min 64 (m.data.length - o) ∧ m.mask.testBit (o / 4 + (j - here) / 4) then v (o + (j - here)) (s.mem.byte j)
      else s.mem.byte j
    let known : Prop := s.msgServed m = true ∧ (m.got ≠ [] ∨ ((s.coach m.dstCo).gang ≠ none ∧ s.tripleBroken m.srcCo m.dst m.nums = false))
    let early (i : Instr) : Prop := known → f.isNext m.srcCo m.nums = false → (∀ p ∈ m.nums, f.ahead m.srcCo p < 2 ^ 23) →
      (n ∈ d.heldW → Answers i s fun t => t = s) ∧
      (n ∉ d.heldW → s.twin m = true → Answers i s fun t => t = alone) ∧
      (n ∉ d.heldW → s.twin m = false → Answers i s fun t => t = s.setDie m.dst { d with heldW := d.heldW ++ [n] })
    let again (i : Instr) : Prop := known → f.isNext m.srcCo m.nums = false → (∃ p ∈ m.nums, 2 ^ 23 ≤ f.ahead m.srcCo p) →
      (m.id ∈ d.parity → Answers i s fun t => t = alone) ∧
      (m.id ∉ d.parity → Answers i s fun t => SameBytes s t ∧ t.cores = s.cores ∧ t.dies = s.dies ∧ t.coaches = s.coaches ∧
        (lookup? d.olds m.id = none → acked t m.src []) ∧ ∀ x, lookup? d.olds m.id = some x → acked t m.src (bytesOf 8 x.toNat))
    let gone (i : Instr) : Prop :=
      (s.msgServed m = false → Answers i s fun t => t = s) ∧
      (s.msgServed m = true → m.got = [] → (s.coach m.dstCo).gang = none ∨ s.tripleBroken m.srcCo m.dst m.nums = true →
        Answers i s fun t => t = alone) ∧
      (known → f.isNext m.srcCo m.nums = true → s.begun n m = true → Answers i s fun t => t = alone)
    (m.due ≤ s.cyc → m.kind = .write →
      (m.opnd = [] → gone (.remoteWriteArrive n) ∧ early (.remoteWriteArrive n) ∧ again (.remoteWriteArrive n) ∧
        (known → f.isNext m.srcCo m.nums = true → s.begun n m = false → Answers (.remoteWriteArrive n) s fun t => t.cores = s.cores ∧
          stored t (fun j _ => nthD 0 m.data j) ∧ n ∉ (t.die m.dst).heldW ∧
          (o + 64 < m.data.length → goesOn t (s.mem.read here 64)) ∧
          (m.data.length ≤ o + 64 → (∀ p, m.nums = [p] → (t.fabAt m).committed m.srcCo m.nums = true) ∧
            (m.par = none → acked t m.src []) ∧
            ∀ p, m.par = some p → o ≤ m.data.length → m.id ∈ (t.die m.dst).parity ∧
              leaves t m.dst (dieOf p.coach) fun x => x.kind = .parity ∧ x.loc = p ∧ x.mask = m.mask ∧ x.data.length = m.data.length ∧
                ∀ j, j < m.data.length →
                  nthD 0 x.data j = nthD 0 (m.got ++ s.mem.read here (m.data.length - o)) j ^^^ nthD 0 m.data j))) ∧
      (∀ op size b c, m.opnd = [op, size, b, c] →
        gone (.remoteAtomicArrive n) ∧ early (.remoteAtomicArrive n) ∧ again (.remoteAtomicArrive n) ∧
        (known → f.isNext m.srcCo m.nums = true → s.begun n m = false → size = 4 ∨ size = 8 → Answers (.remoteAtomicArrive n) s fun t =>
          let old := s.mem.num m.loc size
          t.mem.num m.loc size = (atomicTable op (8 * size) (BitVec.ofNat _ old) (BitVec.ofNat _ b) (BitVec.ofNat _ c)).toNat ∧
          (∀ j, j < m.loc.key ∨ m.loc.key + size ≤ j → t.mem.byte j = s.mem.byte j) ∧ t.cores = s.cores ∧
          lookup? (t.die m.dst).olds m.id = some (BitVec.ofNat 64 old) ∧ (m.par = none → acked t m.src (bytesOf 8 old)) ∧
          ∀ p, m.nums = [p] → (t.fabAt m).committed m.srcCo m.nums = true))) ∧
    (m.due ≤ s.cyc → m.kind = .parity →
      (s.msgServed m = false → Answers (.remoteWriteArrive n) s fun t => t = s) ∧
      (s.msgServed m = true → Answers (.remoteWriteArrive n) s fun t => t.cores = s.cores ∧
        stored t (fun j b => nthD 0 m.data j ^^^ b) ∧ (o + 64 < m.data.length → goesOn t (s.mem.read here 64)) ∧
        (m.data.length ≤ o + 64 → m.id ∉ (t.die (dieOf m.dstCo)).parity ∧
          acked t (nthD 0 m.opnd 0) (match m.opnd with | [_, x] => bytesOf 8 x | _ => [])))) ∧
    (m.due ≤ s.cyc → m.kind = .read →
      let size := nthD 0 m.opnd 0
      let bytes := (s.viewOf (m.loc.add o)).read here (min 64 (size - o))
      (s.msgServed m = false ∨ f.committed m.srcCo m.nums = false → Answers (.remoteReadArrive n) s fun t => t = s) ∧
      (s.msgServed m = true → f.committed m.srcCo m.nums = true → Answers (.remoteReadArrive n) s fun t => SameBytes s t ∧
        t.cores = s.cores ∧ (o + 64 < size → goesOn t bytes) ∧
        (size ≤ o + 64 → leaves t m.dst m.src fun x => x.kind = .readData ∧ x.data = m.got ++ bytes ∧ x.opnd = m.opnd))) ∧
    (m.due ≤ s.cyc → m.kind = .ack → m.data = [] →
      (∀ w, s.answered m = some w → Answers (.acknowledgementArrive n) s fun t =>
        (∀ x ∈ (t.coach m.dstCo).fab.out, x.id ≠ m.id) ∧ lookup? t.net n = none ∧ SameBytes s t ∧
        (∀ c, c ≠ w.core → t.core c = s.core c) ∧
        (w.wal < 16 → 0 < fld ((s.ctl w.core).sr.get (0x070 + w.wal)) 32 11 →
          fld ((t.ctl w.core).sr.get (0x070 + w.wal)) 32 11 + 1 = fld ((s.ctl w.core).sr.get (0x070 + w.wal)) 32 11)) ∧
      (s.answered m = none → Answers (.acknowledgementArrive n) s fun t => t = alone)) ∧
    (∀ w op, m.due ≤ s.cyc → m.kind = .ack → m.data ≠ [] → s.answered m = some w → w.wal = 16 →
      (s.eng w.core).op? w.opId = some op → op.pos = 0 → ∀ ord k z a b r u, op.e.ins = .fam ord k z a b r u →
      let cells := s.ctxCells (coachOf w.core) op.e.ver (s.parts (coachOf w.core) op.e.map op.e.v0.toNat 8) m.data
      (s.cellsServed cells = false → Answers (.atomicResultArrive n) s fun t => t = s) ∧
      (s.cellsServed cells = true → Answers (.atomicResultArrive n) s fun t =>
        OpEnds s t w.core w.opId u.aw 8 0 ∧ (∀ x ∈ (t.coach m.dstCo).fab.out, x.id ≠ m.id) ∧
        ∀ reg, Covers s (coachOf w.core) op.e.map op.e.v0.toNat 8 reg → reg.home = 1 → m.data.length = 8 →
          (s.coach (coachOf w.core)).ph.prep = false →
          t.mem.read (s.locIn (coachOf w.core) reg op.e.ver op.e.v0.toNat).key 8 = m.data)) ∧
    (∀ op z aq a b off u, m.due ≤ s.cyc → m.kind = .readData → (s.eng m.core).op? m.id = some op →
      op.e.ins = .flLd z aq a b off u → op.parts = [] ∨ op.parts = [(nthD 0 m.opnd 1, m.data)] → m.data.length = 64 * 4 ^ z.toNat →
      let cells := s.ctxCells (coachOf m.core) op.e.ver (s.parts (coachOf m.core) op.e.map op.e.v0.toNat (64 * 4 ^ z.toNat)) m.data
      let len := 64 - ((cells.drop op.pos).headD (0, 0)).1 % 64
      let unit := (cells.drop op.pos).take len
      let landed (t : State) : Prop := (∀ c, c ≠ m.core → t.core c = s.core c) ∧
        ((s.coach (coachOf m.core)).ph.prep = false → t.mem = s.mem.writeCells unit)
      let noted (t : State) (pos : Nat) : Prop := t.net = s.net ∧ t.core m.core = { s.core m.core with eng := { s.eng m.core with
        ops := (s.eng m.core).ops.map fun y => if y.id = m.id then { op with parts := [(nthD 0 m.opnd 1, m.data)], pos := pos } else y } }
      (s.cellsServed unit = false → Answers (.readDataArrive n) s fun t => noted t op.pos ∧ t = { s with cores := t.cores } ∧
        ∀ c, c ≠ m.core → t.core c = s.core c) ∧
      (s.cellsServed unit = true → cells.length ≤ op.pos + len → Answers (.readDataArrive n) s fun t => landed t ∧
        OpEnds s t m.core m.id u.aw (64 * 4 ^ z.toNat) 0 ∧ lookup? t.net n = none) ∧
      (s.cellsServed unit = true → op.pos + len < cells.length → Answers (.readDataArrive n) s fun t => landed t ∧ noted t (op.pos + len))) ∧
    (m.due ≤ s.cyc → m.kind = .readData → (s.eng m.core).op? m.id = none → Answers (.readDataArrive n) s fun t => t = alone) ∧
    (m.due ≤ s.cyc → m.kind = .brk →
      let c := s.keeper m.dstCo
      Answers (.breakNotice n) s fun t => SameBytes s t ∧ (∀ i, i ≠ c * 16 → t.core i = s.core i) ∧ lookup? t.net n = none ∧
        (∀ i ∈ (t.die m.dst).heldW, i ∈ d.heldW ∧ ∃ x, lookup? s.net i = some x ∧
          (x.srcCo = m.srcCo → ∀ p ∈ x.nums, ∀ q ∈ m.nums, p.1 ≠ q.1)) ∧
        (t.coach c).fab.ended = true ∧ ((s.coach c).fab.ended = true → t.cores = s.cores) ∧
        ((s.coach c).fab.ended = false → (s.ctl (c * 16)).own = false → ((t.ctl (c * 16)).sr.get 0x040).toNat % 256 = 0x60))) ∧
  (∀ (core wid coach : Nat) (s : State),
    (∀ w r, (s.coach (coachOf core)).fab.out.find? (fun w => w.id == wid && w.core == core && !w.sent) = some w → w.rel = some r →
      (s.releaseDone core r = false → Answers (.releasedWriteSend core wid) s fun t => t = s) ∧
      (s.releaseDone core r = true → Answers (.releasedWriteSend core wid) s fun t =>
        t.cores = s.cores ∧ SameBytes s t ∧ ∀ x ∈ (t.coach (coachOf core)).fab.out, x.id = w.id → x.sent = true ∧ x.last = s.cyc)) ∧
    (∀ w, (s.coach coach).fab.out.find? (fun w => w.id == wid) = some w →
      let die := dieOf coach
      let way (r : Nat × Nat) (l : Nat) : Prop := (routeLinks die w.dstDie r).find? (fun j => j / 6 == die) = some l
      let same := (s.coach coach).fab.out.filter fun x =>
        x.sent && x.dstDie == w.dstDie && x.nums.any fun p => w.nums.any fun q => p.1 == q.1
      (s.retransmitDue coach w = false → Answers (.retransmitTimeout coach wid) s fun t => t = s) ∧
      (∀ r l, s.retransmitDue coach w = true → s.routeFrom die w.dstDie w.tried = some r → way r l →
        Answers (.retransmitTimeout coach wid) s fun t => SameBytes s t ∧ t.cores = s.cores ∧ t.net = s.net ∧
          (∀ i, i ≠ l → t.link i = s.link i) ∧
          (∃ ys : List Msg, (t.link l).wait = (s.link l).wait ++ ys ∧ ys.map (·.id) = same.map (·.id) ∧
            ys.map (·.nums) = same.map (·.nums) ∧ ys.map (·.data) = same.map (·.data) ∧ ys.map (·.mask) = same.map (·.mask) ∧
            ys.map (·.dstCo) = same.map (·.dstCo) ∧
            ∀ y ∈ ys, y.kind = .write ∧ y.srcCo = coach ∧ y.dst = w.dstDie ∧ (y.order, y.long) = r) ∧
          (w.nums ≠ [] → wid ∈ same.map (·.id)) ∧
          ∀ x ∈ (t.coach coach).fab.out, x.id ∈ same.map (·.id) → x.last = s.cyc ∧ x.tried.head? = some r) ∧
      (s.retransmitDue coach w = true → s.routeFrom die w.dstDie w.tried = none →
        Answers (.retransmitTimeout coach wid) s fun t => SameBytes s t ∧
          (∀ p ∈ w.nums, (w.dstDie, p.1) ∈ (t.coach coach).fab.broken) ∧
          ((s.coach coach).fab.broken ≠ [] → t.cores = s.cores) ∧
          ((s.coach coach).fab.broken = [] → (s.ctl w.core).own = false → ((t.ctl w.core).sr.get 0x040).toNat % 256 = 0x60) ∧
          ∀ r l, s.routeFrom die w.dstDie [] = some r → way r l → (s.die die).lost = false → (s.link l).dead = false →
            ∃ y ∈ (t.link l).wait, y.kind = .brk ∧ y.srcCo = coach ∧ y.dst = w.dstDie ∧ ∀ p ∈ w.nums, p ∈ y.nums)))

/-- R143, R146, R149, R330, R332 to R334, R394: a remote load with no reply for 1,048,576 cycles ends with TIMEOUT and changes no byte; a member's
contribution is read unit by unit and joins its reduction with the last unit; a reduction with every contribution writes the tree's value unit
by unit to the root's window, or to every member's in turn, and ends with its bytes, after a time that R394 leaves open, and after 1,048,576
cycles without one ends with PEER_ABSENT; fbar of a gang that stands on its coaches is complete once all cores have arrived, and ends on each
after a time of its own; a host copy moves one unit after another, tests its handle and translates before each host granule, stops there as
REVOKED when the handle no longer passes and as BADARG when the translation fails, and ends with the bytes it moved. That a unit is read and
written in one event (log 39), and that a translation fails as a mishap of the outside (log 6), are the model's choices. -/
def Obligations.CollectivesAndHostCopies : Prop :=
  ∀ (core n gang : Nat) (o : Op) (m : Msg) (z op : BitVec 2) (aq : Bool) (g t4 : BitVec 4) (a b c : Reg) (off : BitVec 11) (u : UCont)
    (s : State),
    let kc := coachOf core
    ((s.eng core).op? n = some o →
      (o.e.ins = .flLd z aq a b off u →
        let bytes := o.parts.flatMap (·.2)
        (o.at_ + 1048576 ≤ s.cyc → bytes.length < 64 * 4 ^ z.toNat → Answers (.remoteLoadTimeout core n) s fun t => SameBytes s t ∧
          OpEnds s t core n u.aw 0 4) ∧
        (s.cyc < o.at_ + 1048576 ∨ 64 * 4 ^ z.toNat ≤ bytes.length → Answers (.remoteLoadTimeout core n) s fun t => t = s)) ∧
      (∀ x, o.e.ins = .fred op g t4 a off u → o.grp = some x →
        (o.at_ + 1048576 ≤ s.cyc → o.parts.length < x.mem.length → Answers (.fredTimeout core n) s fun t => SameBytes s t ∧
          OpEnds s t core n u.aw 0 2) ∧
        (s.cyc < o.at_ + 1048576 ∨ x.mem.length ≤ o.parts.length → Answers (.fredTimeout core n) s fun t => t = s) ∧
        (o.parts.length < x.mem.length → Answers (.fredComplete core n) s fun t => t = s) ∧
        (x.mem.length ≤ o.parts.length →
          let elems (i : Nat) : List Nat := redElems t4.toNat (lookupD [] o.parts i)
          let out := (subtree op.toNat t4.toNat x.mem elems x.mem.length 0).flatMap (bytesOf (if t4 = 8 then 8 else 4))
          let loc (p : Nat × Nat) : Loc := s.memberLoc kc x x.dst o.e.v0.toNat p.1
          let to_ := if x.all then x.mem else x.mem.take 1
          let due := (s.settleOp o).1.due
          (o.done = false → s.cyc ≤ due) ∧ (o.done = true → due = o.due) ∧
          let at_ := o.pos % out.length
          let l := (nthD (.sram 0 0) (to_.map loc) (o.pos / out.length)).add at_
          (s.cyc < due ∨ s.served true l 64 = false → Answers (.fredComplete core n) s fun t =>
            SameBytes s t ∧ OnlyCore s { t with delays := s.delays } core ∧ t.ctl core = s.ctl core ∧ t.dat core = s.dat core ∧
            ∃ y ∈ (t.eng core).ops, y.id = n ∧ y.done = true ∧ y.due = due ∧ y.pos = o.pos) ∧
          (due ≤ s.cyc → s.served true l 64 = true → Answers (.fredComplete core n) s fun t =>
            (∀ i, i < 64 → at_ + i < out.length → t.mem.byte (l.key + i) = nthD 0 out (at_ + i)) ∧
            (∀ i, i < l.key ∨ l.key + 64 ≤ i → t.mem.byte i = s.mem.byte i) ∧
            (to_.length * out.length ≤ o.pos + 64 → OpEnds s t core n u.aw out.length 0) ∧
            (o.pos + 64 < to_.length * out.length → (∀ i, i ≠ core → t.core i = s.core i) ∧ t.ctl core = s.ctl core ∧
              ∃ y ∈ (t.eng core).ops, y.id = n ∧ y.done = true ∧ y.pos = o.pos + 64)))) ∧
      (∀ h, o.e.ins = .cph z a h c u → o.q = .f →
        let len := o.e.v2.toNat
        let ten := (s.gangOf kc).tenant
        let pos := o.pos
        let dev := o.e.v0.toNat + pos
        let w (i : Nat) : Nat := (s.handleWord (dieOf kc) ten (o.e.v1.toNat / 2 ^ 48) i).toNat
        let starts := pos = 0 ∨ (nthD 0 o.data 0 + pos) % 4096 = 0
        let valid := s.handleOk (dieOf kc) ten o.e.v1 len (z == 1) = true
        let stops (stat : Nat) : Prop := Answers (.cphGranule core n) s fun t => SameBytes s t ∧
          OnlyCore s { t with noise := s.noise } core ∧ t.ctl core = s.ctl core ∧
          ∃ x ∈ (t.eng core).ops, x.id = n ∧ x.done = true ∧ x.stat = stat ∧ x.pos = pos
        let moves (base pasid : Nat) : Prop := Answers (.cphGranule core n) s fun t =>
          t.ctl core = s.ctl core ∧ (∀ i, i ≠ core → t.core i = s.core i) ∧
          (∃ x ∈ (t.eng core).ops, x.id = n ∧ x.done = false ∧ x.pos = pos + 64 ∧ nthD 0 x.data 0 = base ∧ nthD 0 x.data 1 = pasid ∧
            s.cyc < x.due ∧ ((base + pos + 64) % 4096 ≠ 0 → pos + 64 < len → x.due = s.cyc + 1)) ∧
          (z = 1 → t.mem = s.mem.write (Loc.host pasid (base + pos)).key (s.ctxWas kc o.e.map o.e.ver dev 64)) ∧
          (z ≠ 1 → (s.coach kc).ph.prep = false → t.mem = s.mem.writeCells
            (s.ctxCells kc o.e.ver (s.parts kc o.e.map dev 64) (s.mem.read (Loc.host pasid (base + pos)).key 64)))
        (o.done = false → pos < len → o.due ≤ s.cyc → s.ctxServed kc o.e.map o.e.ver dev 64 = true →
          (starts → ¬ valid → stops 1) ∧
          (starts → valid → s.noise.headD false = true → stops 7) ∧
          (starts → valid → s.noise.headD false = false → moves (w 0 + o.e.v1.toNat % 2 ^ 32) (w 2 % 2 ^ 20)) ∧
          (¬ starts → moves (nthD 0 o.data 0) (nthD 0 o.data 1))) ∧
        (o.done = true ∨ len ≤ pos ∨ s.cyc < o.due ∨ s.ctxServed kc o.e.map o.e.ver dev 64 = false →
          Answers (.cphGranule core n) s fun t => t = s) ∧
        (o.done = true ∨ (len ≤ pos ∧ o.due ≤ s.cyc) → Answers (.cphComplete core n) s fun t => SameBytes s t ∧
          OpEnds s t core n u.aw o.pos o.stat))) ∧
    (lookup? s.net n = some m → m.due ≤ s.cyc → m.kind = .collective → (s.eng m.core).op? m.id = some o →
      let place := m.loc.add m.got.length
      let size := nthD 0 m.opnd 1
      let all := m.got ++ (s.viewOf place).read place.key (min 64 (size - m.got.length))
      (s.msgServed m = false → Answers (.fredContribution n) s fun t => t = s) ∧
      (s.msgServed m = true → Answers (.fredContribution n) s fun t => SameBytes s t ∧
        OnlyCore s { t with net := s.net, slots := s.slots } m.core ∧ t.ctl m.core = s.ctl m.core ∧
        (m.got.length + 64 < size → t.cores = s.cores ∧ lookup? t.net n = some { m with got := all }) ∧
        (size ≤ m.got.length + 64 → lookup? t.net n = none ∧ ∃ x ∈ (t.eng m.core).ops, x.id = m.id ∧
          lookup? x.parts (nthD 0 m.opnd 0) = some all ∧ ∀ i, i ≠ nthD 0 m.opnd 0 → lookup? x.parts i = lookup? o.parts i))) ∧
    (∀ k, s.onCoaches gang = true → s.fbarNext (s.gang gang) = some k → ((s.gang gang).cores.all fun i => s.fbarArrived i k) = true →
      Answers (.fbarComplete gang) s fun t => SameBytes s t ∧ t = { s with cores := t.cores, delays := t.delays } ∧
        (∀ i, i ∉ (s.gang gang).cores → t.core i = s.core i) ∧
        ∀ i ∈ (s.gang gang).cores, ∀ x, s.fbarOp i k = some x →
          (∀ y ∈ (t.eng i).ops, y.id = x.id → y.done = true) ∧
          (s.delays = [] → (∀ y ∈ (s.eng i).ops, ∀ v, y.e.ins = .fbar v → y.done = false) → ∀ y ∈ (t.eng i).ops, y.id ≠ x.id)) ∧
    (s.onCoaches gang = false → Answers (.fbarComplete gang) s fun t => t = s) ∧
    (∀ k, s.fbarNext (s.gang gang) = some k → ((s.gang gang).cores.all fun i => s.fbarArrived i k) = false →
      (∀ i ∈ (s.gang gang).cores, ∀ y ∈ (s.eng i).ops, ∀ v, y.e.ins = .fbar v → y.done = false) →
      Answers (.fbarComplete gang) s fun t => t = s)

/-- R22, R360, R361, R371, R372, R374, R377: a step opens in every coach of a gang that runs once every core has dispatched its step.begin or
has exited; the cores go on once the copies are done; the flags of all coaches with a core left decide a commit, and every waiting core is
given the decision; while a coach has stopped none of this happens. A spoiled step with no step open, or past the budget, ends the gang FAULTED,
and so does one whose losses cannot be replaced, with reason 2 in the save areas; one whose losses can be replaced starts again at a common
tick, each core at its recorded line. That the cores go on only when the copies of every coach are done (log 19), and that the record of a gang
that had not started counts as RUNNING first (log 20), are the model's. -/
def Obligations.StepTransactionEvents : Prop :=
  ∀ (gi : Nat) (s : State),
    let g := s.gang gi
    let runs : Prop := ∀ c ∈ g.coaches, (s.coach c).stand = .running
    let endsAs (code : Nat) (t : State) : Prop := ∃ x : State, x = { s with mem := x.mem } ∧
      (∀ c ∈ g.surviving, x.mem.byte (saveLoc c 4).key = 2) ∧
      (∀ k, (∀ c ∈ g.surviving, k ≠ (saveLoc c 4).key) → x.mem.byte k = s.mem.byte k) ∧ GangEnds x t gi code 4 .faulted
    (¬ runs → Answers (.stepBeginRelease gi) s (fun t => t = s) ∧ Answers (.stepCommitDecision gi) s (fun t => t = s)) ∧
    (runs → g.open_ = false → (∀ c ∈ g.cores, (s.ctl c).stand = .exited ∨ .stepBegin ∈ (s.ctl c).blocks) →
      (∃ c ∈ g.cores, .stepBegin ∈ (s.ctl c).blocks) → Answers (.stepBeginRelease gi) s fun t =>
        t.gang gi = { g with open_ := true, stepPh := (t.gang gi).stepPh } ∧ t.cores = s.cores ∧ SameBytes s t ∧
        (∀ c, c ∉ g.coaches → t.coach c = s.coach c) ∧
        ∀ c ∈ g.coaches, (t.coach c).ph.stepping = true ∧ lookupD 99 (t.gang gi).stepPh c = (s.coach c).ph.pht ∧
          ∀ i, i < 64 → (t.coach c).stepf.getLsbD i =
            if i = 2 then true else if i < 2 ∨ (12 ≤ i ∧ i < 16) then false else (s.coach c).stepf.getLsbD i) ∧
    (runs → g.open_ = true →
      (∀ c ∈ g.coaches, (s.coach c).ph.stepping = true ∧ (s.coach c).ph.stepWork = [] ∧ (s.coach c).ph.prep = false) →
      Answers (.stepBeginRelease gi) s fun t => SameBytes s t ∧ (∀ c, c ∉ g.cores → t.core c = s.core c) ∧
        (∀ c ∈ g.coaches, t.coach c = { s.coach c with ph := { (s.coach c).ph with stepping := false } }) ∧
        ∀ c ∈ g.cores,
          (.stepBegin ∉ (s.ctl c).blocks → t.core c = s.core c) ∧
          (.stepBegin ∈ (s.ctl c).blocks → t.core c = { s.core c with ctl := { s.ctl c with
            blocks := (s.ctl c).blocks.filter fun b => b != .stepBegin, hblocks := (s.ctl c).hblocks.filter fun b => b != .stepBegin
            inStep := true } })) ∧
    (runs → g.open_ = true → g.coaches.Nodup →
      (∀ c ∈ g.cores, (s.ctl c).stand = .exited ∨ ∃ id r, (s.ctl c).commitWait = some (id, r) ∧ s.relDone c r = true) →
      (∃ c ∈ g.cores, ∃ id r, (s.ctl c).commitWait = some (id, r)) →
      Answers (.stepCommitDecision gi) s fun t =>
        let counts (c : Nat) : Prop := ∃ x, coachOf x = c ∧ (s.ctl x).stand ≠ .exited
        let nf := ∃ c ∈ g.coaches, counts c ∧ (s.coach c).stepf.getLsbD 0 = true
        let ab := ∃ c ∈ g.coaches, counts c ∧ (s.coach c).stepf.getLsbD 1 = true
        SameBytes s t ∧ (t.gang gi).open_ = false ∧ (t.gang gi).stepn = (g.stepn + 1) % 2 ^ 32 ∧ (t.gang gi).restarts = [] ∧
        (¬ nf ∧ ¬ ab → (t.gang gi).cv = !g.cv) ∧ (nf ∨ ab → (t.gang gi).cv = g.cv) ∧
        (∀ c ∈ g.coaches, (t.coach c).stepf.getLsbD 2 = false ∧
          ((t.coach c).stepf.toNat / 2 ^ 16) % 2 ^ 32 = ((s.coach c).stepf.toNat / 2 ^ 16 + 1) % 2 ^ 32 ∧
          (¬ nf ∧ ¬ ab → (t.coach c).stepf.getLsbD 3 = !(s.coach c).stepf.getLsbD 3) ∧
          (nf ∨ ab → (t.coach c).stepf.getLsbD 3 = (s.coach c).stepf.getLsbD 3)) ∧
        ∀ c ∈ g.cores, (t.ctl c).inStep = false ∧ ∀ id r, (s.ctl c).commitWait = some (id, r) → .stepCommit id r ∉ (t.ctl c).blocks ∧
          ∀ p, (s.ctl c).pend = [p] → p.wait = some id → p.left = 0 → (s.ctl c).inHandler = false →
            ∃ v : Word, (t.ctl c).regs.get (regKey p.sh p.reg) = v ∧ v.toNat < 4 ∧ (v.getLsbD 0 = true ↔ nf) ∧ (v.getLsbD 1 = true ↔ ab)) ∧
    (g.stand = .stopping → s.spoiled g = true → (g.surviving.all fun c => (s.coach c).stand == .saved) = true →
      (∀ a, s.recordState gi = 1 → g.recAt = some a → Answers (.stepReissue gi) s fun t => t = { s with mem := t.mem } ∧
        t.mem.num (.dev (gi / 64) (a + 96)) 8 = 2 ∧
        ∀ k, k < (Loc.dev (gi / 64) (a + 96)).key ∨ (Loc.dev (gi / 64) (a + 96)).key + 8 ≤ k → t.mem.byte k = s.mem.byte k) ∧
      (s.recordState gi ≠ 1 → g.open_ = false ∨ s.overdue g = true → Answers (.stepReissue gi) s (endsAs g.code)) ∧
      (s.recordState gi ≠ 1 → g.open_ = true → s.overdue g = false → s.sparePlan gi = none →
        Answers (.stepReissue gi) s (endsAs 0x91)) ∧
      (s.recordState gi ≠ 1 → g.open_ = true → s.overdue g = false → s.sparePlan gi = some [] → Answers (.stepReissue gi) s fun t =>
        (t.gang gi).stand = .starting ∧ (t.gang gi).tick = startTick s.cyc ∧ (t.gang gi).lost = [] ∧ (t.gang gi).fault = none ∧
        (∀ c ∈ g.coaches, ∃ rx, (t.coach c).stand = .ready (startTick s.cyc) rx false) ∧
        ∀ c ∈ g.cores, ∀ l, lookup? g.restarts ((s.coach (coachOf c)).lco * 16 + c % 16) = some l →
          (t.ctl c).pc = l ∧ (t.ctl c).inStep = true))

/-- R38, R60, R97, R360, R361, R363 to R368, R378: stop messages, deadlines, evictions, the end of a gang, the loss of a die, the save of a
coach, and how a held or pre-empted gang goes on. The model's choices: a pre-empted gang with a coach on a lost die ends with 0x91 (log 20); 0x91 is
raised by core 0 of the lowest surviving coach (log 77); a request to a held gang stands until it resumes (log 98); a stop message that arrives is
the answer to it (log 100). -/
def Obligations.GangEvents : Prop :=
  ∀ (gi kc die : Nat) (fn : FnId) (v : Word) (s : State),
    let g := s.gang gi
    let k := s.coach kc
    (∀ t0, k.stopDue = some t0 →
      (t0 ≤ s.cyc → s.hearsHome kc = true → Answers (.stopMessage kc) s fun t =>
        t = (s.setCoach kc { k with stand := k.stand.stopped, stopDue := none }).setDie (dieOf kc) { s.die (dieOf kc) with asked := none }) ∧
      (s.cyc < t0 ∨ s.hearsHome kc = false → Answers (.stopMessage kc) s fun t => t = s)) ∧
    (g.budget < g.bused → g.stand = .running ∨ g.stand = .preempting ∨ g.stand = .starting ∨ g.stand = .stopping →
      Answers (.deadlineFault gi) s fun t => SameBytes s t ∧
        (∀ c, c ∉ g.cores ∨ (s.coach (coachOf c)).gang ≠ some gi → t.core c = s.core c) ∧
        ∀ c ∈ g.cores, (s.coach (coachOf c)).gang = some gi → (s.ctl c).own = false → (t.ctl c).own = true ∧
          ((t.ctl c).sr.get 0x040).toNat % 256 = 0x13 ∧ ((t.ctl c).sr.get 0x041).toNat = g.bused % 2 ^ 48) ∧
    (g.bused ≤ g.budget → Answers (.deadlineFault gi) s fun t => t = s) ∧
    (g.stand = .preempting ∨ (g.preTmo ≠ 0 ∧ (g.stand = .held ∨ g.stand = .resuming ∨ g.stand = .starting)) →
      (g.preAt + g.preTmo ≤ s.cyc → Answers (.eviction gi) s fun t => GangEnds s t gi 0xE1 4 .faulted) ∧
      (s.cyc < g.preAt + g.preTmo → Answers (.eviction gi) s fun t => t = s)) ∧
    (g.stand = .running ∨ g.stand = .preempting → (g.cores.all s.coreFinished) = true → (g.coaches.all fun c => (s.coach c).quiet) = true →
      Answers (.gangDone gi) s fun t => GangEnds s t gi 0 3 .done) ∧
    ((g.cores.all s.coreFinished) = false → Answers (.gangDone gi) s fun t => t = s) ∧
    ((s.die die).lost = true → Answers (.dieLost die) s fun t => t = s) ∧
    (∀ l c rest, (s.die die).lost = false → s.gangs.map (·.1) = [gi] → g.logicalOf die = some l → g.stand = .running → g.lost = [] →
      ({ g with lost := [l] } : Gang).surviving = c :: rest → (s.ctl (c * 16)).own = false → Answers (.dieLost die) s fun t =>
        (t.die die).lost = true ∧ (t.die die).holds = [] ∧ die ∉ t.present ∧ (t.gang gi).lost = [l] ∧ (∀ p ∈ t.net, p.2.dst ≠ die) ∧
        (∀ j, j < 6 → (t.link (die * 6 + j)).up = false ∧ (t.link (die * 6 + j)).mode = 4) ∧
        ((t.ctl (c * 16)).sr.get 0x040).toNat % 256 = 0x91 ∧ ((t.ctl (c * 16)).sr.get 0x041).toNat = l % 512) ∧
    (∀ l, (s.die die).lost = false → s.gangs.map (·.1) = [gi] → g.logicalOf die = some l → g.stand = .preempted → g.lost = [] →
      Answers (.dieLost die) s fun t => GangEnds s t gi 0x91 4 .faulted) ∧
    (k.gang = some gi → k.stand = .running → g.stand = .preempting → (s.markPoints kc).preemptReady g = true →
      Answers (.coachSave kc) s fun t => t.cores = s.cores ∧ SameBytes s t ∧ (∀ c, c ∉ g.coaches → c ≠ kc → t.coach c = s.coach c) ∧
        ∀ c ∈ g.coaches, (t.coach c).stand = .drained ∧ (t.coach c).tsave = (s.coach c).tclk ∧ (t.coach c).reason = 1 ∧
          s.cyc < (t.coach c).saveAt ∧ (t.coach c).saveAt ≤ s.cyc + 48000) ∧
    (k.gang = some gi → k.stand = .drained → g.stand = .stopping → s.faultSaveReady g kc = true → kc ∈ g.surviving →
      (∃ c ∈ g.surviving, c ≠ kc ∧ (s.coach c).stand ≠ .saved) → Answers (.coachSave kc) s fun t =>
        (t.coach kc).stand = .saved ∧ (t.coach kc).tsave = k.tend ∧ (∀ c, coachOf c ≠ kc → t.core c = s.core c) ∧
        t.mem.num (saveLoc kc 0) 4 = 0x56434153 ∧
        (t.coach kc).reason = (if s.spoiled g = true ∧ s.overdue g = false ∧ s.canReissue gi = true then 3 else 2) ∧ t.mem.num (saveLoc kc 8) 8 = k.tstop % 2 ^ 64 ∧
        t.mem.num (saveLoc kc 16) 8 = k.tend % 2 ^ 64 ∧
        ∀ c, coachOf c = kc → t.eng c = s.eng c ∧ t.dat c = s.dat c ∧ (t.ctl c).regs = (s.ctl c).regs ∧
          ((t.ctl c).sr.get 0x048).toNat = (s.ctl c).pc % 2 ^ 11 * 2 ^ 48 + (s.ctl c).lines % 2 ^ 48 ∧
          ∀ w, g.fault = some w → (s.ctl c).own = false → ((t.ctl c).sr.get 0x040).getLsbD 24 = false ∧
            ((t.ctl c).sr.get 0x040).toNat % 2 ^ 24 = w.toNat % 2 ^ 24 ∧ (t.ctl c).sr.get 0x041 = 0) ∧
    (g.stand = .resuming → g.coaches.Nodup → Answers (.gangResume gi) s fun t =>
      (t.gang gi).stand = .starting ∧ (t.gang gi).tick = startTick s.cyc ∧ (t.gang gi).fault = none ∧
      (∀ c ∈ g.coaches, ∃ rx, (t.coach c).stand = .ready (startTick s.cyc) rx true) ∧
      ∀ c, coachOf c ∈ g.coaches →
        let x := s.coach (coachOf c)
        let d := if x.reason = 1 then x.tsave - lookupD x.tsave x.tpt (coreIx c) else x.tend - x.tstop
        (t.ctl c).sr.get 0x005 = (s.ctl c).sr.get 0x005 + BitVec.ofNat 64 d ∧ (t.ctl c).own = false ∧
        (t.eng c).qv.map (·.n) = (s.eng c).qv.map fun e => if e.part then x.tsave else (e.n + d) % 2 ^ 64) ∧
    ((s.die die).vfUp = false → Answers (.gcmdResume die fn v) s (fun t => t = s) ∧ Answers (.gcmdEnd die fn v) s fun t => t = s) ∧
    (∀ slot : Nat, slot < 64 → gi = die * 64 + slot → (s.die die).vfUp = true → g.stand = .held → g.tenant = fn → fn ≠ 0 →
      (v.toNat = slot + 256 → Answers (.gcmdResume die fn v) s fun t => t = s.setGang gi { g with stand := .resuming }) ∧
      (v.toNat = slot + 512 → Answers (.gcmdEnd die fn v) s fun t => GangEnds s t gi g.code 4 .faulted)) ∧
    ((s.gang (die * 64 + v.toNat % 64)).stand ≠ .held → Answers (.gcmdResume die fn v) s (fun t => t = s) ∧
      Answers (.gcmdEnd die fn v) s fun t => t = s)

/-- R22, R23, R25, R26, R30 to R35, R38, R40, R42: the launch unit: the scan of a job log, placement and its holds, also for a pre-empted gang
that is to resume, the load of a context with its cores at entry, a pre-emption request, and the end of a child. The model's choices: the answer to
a hold request, a revocation and a release are known to every unit in their event (log 61); which coaches `choose` takes, and that a placement
gives way to a stronger hold as a request does (log 60); an image without `.timeline` leaves the area (log 99); the quota leaves out coaches of
gangs that are away (log 97); a request to a held gang stands (log 98). -/
def Obligations.LaunchUnitEvents : Prop :=
  ∀ (die vf gi n kc : Nat) (s : State),
    let d := s.die die
    let jlb := d.regs.get (vf * 65536 + 0x100)
    let base := jlb.toNat / 2 ^ 12 % 2 ^ 36 * 4096
    let log2n := (d.regs.get (vf * 65536 + 0x108)).toNat % 16
    let rd := s.mem.num (.dev die (base + 8)) 4
    let wr := s.mem.num (.dev die base) 4
    let rec_ := base + 64 + rd % 2 ^ (log2n + 4) * 128
    let words := (List.range 12).map fun i => s.mem.dword (.dev die (rec_ + 8 * i))
    let g := s.gang gi
    let k := s.coach kc
    (s.cyc % 4096 ≠ 0 ∨ jlb.getLsbD 0 = false ∨ d.unitOn = false → Answers (.jobLogScan die vf) s fun t => t = s) ∧
    (s.cyc % 4096 = 0 → jlb.getLsbD 0 = true → d.unitOn = true →
      (flag (d.tq vf) 0 = false → (wr + 2 ^ 32 - rd) % 2 ^ 32 ≤ 2 ^ (log2n + 4) → Answers (.jobLogScan die vf) s fun t => t = s) ∧
      (2 ^ (log2n + 4) < (wr + 2 ^ 32 - rd) % 2 ^ 32 → Answers (.jobLogScan die vf) s fun t =>
        ((t.die die).regs.get (vf * 65536 + 0x100)).getLsbD 0 = false ∧ (s.mem.num (.dev die (base + 16)) 1 ||| 1) = t.mem.num (.dev die (base + 16)) 1 ∧
        t.gangs = s.gangs ∧ t.cores = s.cores) ∧
      (flag (d.tq vf) 0 = true → (wr + 2 ^ 32 - rd) % 2 ^ 32 = 1 →
        (s.freeSlot die vf = none → Answers (.jobLogScan die vf) s fun t => t.gangs = s.gangs ∧ SameBytes s t) ∧
        (∀ slot, s.freeSlot die vf = some slot → slot / 64 = die →
          (∀ code, s.rejectCode die vf words = some code → Answers (.jobLogScan die vf) s fun t =>
            t.gangs = s.gangs ∧ t.mem.num (.dev die (rec_ + 96)) 8 = code * 256 + 5 ∧
            t.mem.num (.dev die (base + 8)) 4 = (rd + 1) % 2 ^ 32) ∧
          (s.rejectCode die vf words = none → Answers (.jobLogScan die vf) s fun t =>
            (t.gang slot).stand = .waiting ∧ (t.gang slot).tenant = vf ∧ (t.gang slot).words = words ∧
            (t.gang slot).recAt = some rec_ ∧ (t.gang slot).parent = none ∧ (∀ i, i ≠ slot → t.gang i = s.gang i) ∧
            t.mem.num (.dev die (rec_ + 96)) 8 = 1 ∧ t.mem.num (.dev die (base + 8)) 4 = (rd + 1) % 2 ^ 32)))) ∧
    (d.unitOn = false → Answers (.gangPlacement die) s fun t => t = s) ∧
    (∀ b l, d.unitOn = true → (∀ i ∈ slotsOf die, (s.gang i).stand = .waiting ∨ (s.gang i).stand = .holding → s.mayTry i = true) →
      s.oldest die 0 = some gi → gi / 64 = die → g.stand = .waiting →
      s.tenantCoaches g.tenant + g.ncoach ≤ fld (d.tq g.tenant) 16 12 → s.choose gi [] = (b, some l) →
      s.occupants gi (l.flatMap (·.2)) = [] → d.holds = [] → Answers (.gangPlacement die) s fun t =>
        (t.gang gi).stand = .holding ∧ (t.gang gi).coaches = l.flatMap (·.2) ∧ (t.gang gi).dies = l.map (·.1) ∧ (t.gang gi).grants = [die] ∧
        (∀ i, i ≠ gi → t.gang i = s.gang i) ∧ t.cores = s.cores ∧ t.coaches = s.coaches ∧ SameBytes s t ∧
        ∀ c ∈ l.flatMap (·.2), dieOf c = die → (c, gi, s.holdKey gi) ∈ (t.die die).holds) ∧
    (d.unitOn = true → (∀ i ∈ slotsOf die, (s.gang i).stand = .waiting ∨ (s.gang i).stand = .holding → s.mayTry i = true) →
      s.oldest die 0 = some gi → gi / 64 = die → g.stand = .preempted →
      s.tenantCoaches g.tenant + g.ncoach ≤ fld (d.tq g.tenant) 16 12 → (∀ c ∈ g.coaches, s.coachFree gi c = true) → d.holds = [] →
      Answers (.gangPlacement die) s fun t =>
        (t.gang gi).stand = .holding ∧ (t.gang gi).saved = g.saved ∧ (t.gang gi).coaches = g.byDie.flatMap (·.2) ∧
        (t.gang gi).grants = [die] ∧ (∀ i, i ≠ gi → t.gang i = s.gang i) ∧ t.cores = s.cores ∧ t.coaches = s.coaches ∧ SameBytes s t ∧
        ∀ c ∈ g.coaches, dieOf c = die → (c, gi, s.holdKey gi) ∈ (t.die die).holds) ∧
    (∀ m key coaches, lookup? s.net n = some m → m.due ≤ s.cyc → m.kind = .holdReq gi key coaches →
      let granted : Prop := (∀ c ∈ coaches, s.coachFree gi c = true) ∧ (s.die m.dst).unitOn = true ∧ s.ownFirst m.dst gi coaches = false
      let back (x : Gang) : GStand := if x.saved = [] then .waiting else .preempted
      (g.stand ≠ .holding ∨ g.try_ ≠ m.id → Answers (.holdRequest n) s fun t =>
        t = ({ s with net := dropKey s.net n } : State).setDie m.dst { s.die m.dst with asked := none }) ∧
      (g.stand = .holding → g.try_ = m.id → granted → Answers (.holdRequest n) s fun t =>
        (t.gang gi).grants = g.grants ++ [m.dst] ∧ (t.gang gi).stand = .holding ∧
        (∀ c ∈ coaches, (c, gi, key) ∈ (t.die m.dst).holds) ∧ lookup? t.net n = none ∧ t.coaches = s.coaches ∧ SameBytes s t ∧
        ∀ h ∈ (s.die m.dst).holds, h.1 ∈ coaches → h.2.1 ≠ gi → (s.gang h.2.1).stand = .holding →
          (t.gang h.2.1).stand = back (s.gang h.2.1)) ∧
      (g.stand = .holding → g.try_ = m.id → ¬ granted → Answers (.holdRequest n) s fun t =>
        (t.gang gi).stand = back g ∧ (t.gang gi).grants = [] ∧ lookup? t.net n = none ∧ t.coaches = s.coaches ∧
        ∀ i, i ≠ gi → t.gang i = s.gang i)) ∧
    (g.stand = .holding → s.mayTry gi = true → (g.dies.all g.grants.contains) = true → g.saved ≠ [] → (g.saved.map (·.coach)).Nodup →
      Answers (.holdCommit gi) s fun t =>
        (t.gang gi).stand = .resuming ∧ (t.gang gi).saved = [] ∧ SameBytes s t ∧
        (∀ y ∈ s.present, ∀ h ∈ (t.die y).holds, h.2.1 ≠ gi) ∧
        ∀ x ∈ g.saved, t.coach x.coach = { x.ctx with stand := .saved } ∧
          ∀ i, i < 16 → i < x.cores.length → t.core (x.coach * 16 + i) = nthD Core.reset x.cores i) ∧
    (g.stand = .holding → s.mayTry gi = true → (g.dies.all g.grants.contains) = true → g.saved = [] → g.coaches.Nodup →
      Answers (.holdCommit gi) s fun t =>
        (t.gang gi).stand = .loading ∧ t.cores = s.cores ∧ SameBytes s t ∧ (∀ c, c ∉ g.coaches → t.coach c = s.coach c) ∧
        ∀ i, i < g.coaches.length → ∃ due, s.cyc < due ∧
          t.coach (nthD 0 g.coaches i) = { Coach.reset with stand := .loading due, gang := some gi, lco := i }) ∧
    (g.stand = .holding → s.mayTry gi = false → Answers (.holdCommit gi) s fun t =>
      (t.gang gi).stand = (if g.saved = [] then GStand.waiting else .preempted) ∧ (t.gang gi).grants = [] ∧ t.coaches = s.coaches ∧ (∀ x ∈ s.present, ∀ h ∈ (t.die x).holds, h.2.1 ≠ gi)) ∧
    (g.stand = .holding → s.mayTry gi = true → (g.dies.all g.grants.contains) = false → Answers (.holdCommit gi) s fun t => t = s) ∧
    (∀ due, k.stand = .loading due → k.gang = some gi → due ≤ s.cyc → kc ∈ g.coaches → Answers (.contextLoaded kc) s fun t =>
      let img := g.image
      let hpol := mkFld 0 1 (fld ((s.die (dieOf kc)).regs.get (0x2200 + 8 * g.tenant)) 0 1)
      (∀ i, coachOf i ≠ kc → t.core i = s.core i) ∧
      (∀ i, coachOf i = kc → t.core i = coreAtEntry g (s.entryLine (gi / 64) img) (parseDict (s.sectionBytes (gi / 64) img 2)) hpol) ∧
      (t.coach kc).ph.pht = g.ph0 ∧
      ((g.coaches.all fun c => c == kc || (s.coach c).stand == .loaded) = false → (t.coach kc).stand = .loaded ∧ t.gang gi = g) ∧
      ((g.coaches.all fun c => c == kc || (s.coach c).stand == .loaded) = true → (t.gang gi).stand = .starting ∧
        (t.gang gi).tick = startTick s.cyc ∧ ∃ rx, (t.coach kc).stand = .ready (startTick s.cyc) rx false)) ∧
    (∀ e (x : Gang) (dict : Bits 35) (hp : Word) (r : Nat),
      ((coreAtEntry x e dict hp).ctl.pc = e ∧ (coreAtEntry x e dict hp).dat = Dat.reset ∧ (coreAtEntry x e dict hp).eng = Eng.reset ∧
        (1 ≤ r → r ≤ 8 → (coreAtEntry x e dict hp).ctl.regs.get r = nthD 0 x.words (3 + r)) ∧
        (r = 0 ∨ 8 < r → (coreAtEntry x e dict hp).ctl.regs.get r = 0) ∧
        (coreAtEntry x e dict hp).ctl.sr.get 0x002 = mkFld 0 7 x.galloc ∧ (coreAtEntry x e dict hp).ctl.sr.get 0x020 = mkFld 0 4 x.ph0)) ∧
    (g.stand = .running → Answers (.preemptionRequest gi) s fun t =>
      t.gang gi = { g with stand := .preempting, preAt := s.cyc, preTmo := 1048576 } ∧ t.cores = s.cores ∧ SameBytes s t ∧
      ∀ c, t.coach c = if c ∈ g.coaches then { s.coach c with preReq := true } else s.coach c) ∧
    (g.stand = .held → g.preTmo = 0 → Answers (.preemptionRequest gi) s fun t =>
      t = s.setGang gi { g with preAt := s.cyc, preTmo := 1048576 }) ∧
    (g.stand ≠ .running → g.stand ≠ .held ∨ g.preTmo ≠ 0 → Answers (.preemptionRequest gi) s fun t => t = s) ∧
    (∀ pg acc lcore w, g.parent = some (pg, acc, lcore, w) →
      (g.stand ≠ .done → g.stand ≠ .faulted → Answers (.childEnd gi) s fun t => t = s) ∧
      (g.stand = .done ∨ g.stand = .faulted → pg ≠ gi → (s.gang pg).held = false ∨ (s.gang pg).accept ≠ acc →
        Answers (.childEnd gi) s fun t => t = s.setGang gi { g with parent := none }) ∧
      (g.stand = .done ∨ g.stand = .faulted → pg ≠ gi → (s.gang pg).held = true → (s.gang pg).accept = acc → (s.gang pg).saved = [] →
        Answers (.childEnd gi) s fun t =>
          let core := (s.gang pg).coachAt (lcore / 16) * 16 + lcore % 16
          OnlyCore { s with gangs := t.gangs } t core ∧ SameBytes s t ∧ (t.gang gi).parent = none ∧
          (∀ r, r ≠ 0x080 + w → (t.ctl core).sr.get r = (s.ctl core).sr.get r) ∧
          ((lookupD (0, 0) (s.ctl core).awFirst w).1 ≠ s.cyc + 1 → (t.ctl core).sr.get (0x080 + w) = awComplete ((s.ctl core).sr.get (0x080 + w))
            (if g.stand = .done then 3 else g.code * 256 + 4) (if g.stand = .done then 0 else 5))))

/-- R24, R30, R31, R142, R187, R191, R285, R341, R364, R388, R389, R391, R393: what host accesses, samples and errors do to the registers
and queues of a die: reads that pop, the bits that writes store, the checks of KVPB and TCAP, telemetry, pacing once a millisecond, thermal
limits and storage errors. A virtual function exists from boot stage 2 on, and the firmware's work is done once stage 3 has come (R383, R386,
R387). The model's choices: which slots a virtual function reset starts anew (log 22); PACE goes to 0 by steps with EN 0 (log 65); the word that an
error event queues (log 66); the place where a popped EVQA or HFAQ entry stands (log 80); pages leave at once where a new pool layout leaves out
their granules (log 101). -/
def Obligations.HostRegistersAndErrors : Prop :=
  ∀ (die vf kc off pace watts : Nat) (temps : List Nat) (v info : Word) (s : State),
    let d := s.die die
    let only (t : State) : Prop := t = s.setDie die (t.die die)
    (d.vfUp = true ↔ d.mgmt.boot = 1 ∧ 2 ≤ d.mgmt.stage ∧ d.lost = false) ∧
    (d.firmware = true ↔ d.mgmt.boot = 1 ∧ d.mgmt.stage = 3 ∧ d.lost = false) ∧
    (d.vfUp = false → Answers (.hrevWrite die vf v) s (fun t => t = s) ∧ Answers (.evqaRead die vf) s (fun t => t = s) ∧
      Answers (.kvpbWrite die vf off v) s (fun t => t = s) ∧
      Answers (.virtualFunctionReset die vf) s (fun t => t = s) ∧ (1 ≤ vf → Answers (.registerWrite die vf off v) s fun t => t = s)) ∧
    (d.vfUp = true → Answers (.hrevWrite die vf v) s fun t => only t ∧ ((t.die die).regs.get (vf * 65536 + 0x118)).toNat = v.toNat % 2 ^ 16 ∧
      ∀ r, r ≠ vf * 65536 + 0x118 → (t.die die).regs.get r = d.regs.get r) ∧
    (∀ a b rest, d.vfUp = true → d.events vf = (a, b) :: rest → Answers (.evqaRead die vf) s fun t => only t ∧ (t.die die).events vf = rest ∧
      (t.die die).regs.get (vf * 65536 + 0x140) = a ∧ (0 < vf → t.regRead die vf 0x148 = b)) ∧
    (d.vfUp = true → d.events vf = [] → Answers (.evqaRead die vf) s fun t => only t ∧ (t.die die).events vf = [] ∧
      (t.die die).regs.get (vf * 65536 + 0x140) = 0) ∧
    (∀ a rest, d.hfaq = a :: rest → Answers (.hfaqRead die) s fun t => only t ∧ (t.die die).hfaq = rest ∧
      (t.die die).regs.get 0x4000 = a) ∧
    (d.hfaq = [] → Answers (.hfaqRead die) s fun t => only t ∧ (t.die die).regs.get 0x4000 = 0) ∧
    (∀ pool, d.vfUp = true → pool < 4 → flag (d.kvpb vf pool) 63 = false → v.getLsbD 63 = true →
      (let b := kvpbStored v
       let need := d.kvBase vf pool + b.toNat % 2 ^ 28 * kvGroupGranules b
       (d.capSize vf < need → Answers (.kvpbWrite die vf pool v) s fun t => t = s) ∧
       (need ≤ d.capSize vf → Answers (.kvpbWrite die vf pool v) s fun t => only t ∧ (t.die die).kvpb vf pool = b ∧
        ((d.pool (poolKey vf pool)).closing = false ∨ s.poolBusy die vf pool = false →
          (t.die die).pool (poolKey vf pool) = { Pool.reset with free := List.range (b.toNat % 2 ^ 28) }) ∧
        ((d.pool (poolKey vf pool)).closing = true → s.poolBusy die vf pool = true → (t.die die).pool (poolKey vf pool) = d.pool (poolKey vf pool)) ∧
        ∀ p, p ≠ poolKey vf pool → (t.die die).pool p = d.pool p))) ∧
    (∀ size tenant, s.capInUse die tenant = true → Answers (.tcapWrite die tenant size v) s fun t => t = s) ∧
    (∀ tenant, s.capInUse die tenant = false → s.capBase die tenant + v.toNat % 2 ^ 31 ≤ d.mgmt.capGran →
      Answers (.tcapWrite die tenant true v) s fun t => only t ∧ (t.die die).capSize tenant = v.toNat % 2 ^ 31 ∧
        t.capBase die tenant = s.capBase die tenant) ∧
    (1 ≤ vf → vf ≤ 16 →
      (Answers (.registerWrite die 0 (0x2000 + 8 * vf) v) s fun t => only t ∧
        ((t.die die).tq vf).getLsbD 0 = v.getLsbD 0 ∧ fld ((t.die die).tq vf) 40 8 = min 64 (fld v 40 8) ∧
        fld ((t.die die).tq vf) 16 12 = min 3072 (fld v 16 12)) ∧
      (Answers (.registerWrite die 0 0x6000 v) s fun t => only t ∧ fld ((t.die die).regs.get 0x6000) 0 16 = min 3200 (max 1600 (fld v 0 16)) ∧
        ((t.die die).regs.get 0x6000).getLsbD 16 = v.getLsbD 16 ∧ (t.die die).paceNow = d.paceNow) ∧
      (Answers (.registerWrite die 0 (0x2100 + 8 * vf) v) s fun t => t = { s.setDie die (t.die die) with mem := t.mem } ∧
        ((t.die die).regs.get (0x2100 + 8 * vf)).toNat = v.toNat % 2 ^ 25 ∧ lookup? (t.die die).laid vf = some d.mgmt.bad ∧
        ((∀ p ∈ d.pages, p.2.dirty = false) → t.mem = s.mem) ∧
        ∀ page p k, lookup? (t.die die).pages (pageKey vf page) = some p → page < 2 ^ 32 → p.coach = some k →
          t.inPool die vf k p.slot = true)) ∧
    (Answers (.registerWrite die 0 0x7000 v) s fun t => only t ∧ (t.die die).mgmt.pending =
      if d.firmware = true ∧ d.mgmt.pending = 0 then v.toNat + 1 else d.mgmt.pending) ∧
    (d.firmware = false → Answers (.telemetrySample die watts temps) s (fun t => t = s) ∧
      Answers (.paceUpdate die pace) s (fun t => t = s) ∧ Answers (.thermalLimit die) s fun t => t = s) ∧
    (d.firmware = true → watts < 65536 → temps.length = 8 → Answers (.telemetrySample die watts temps) s fun t => only t ∧
      (t.die die).regs.get 0x6008 = BitVec.ofNat 64 watts ∧
      ∀ i, i < 8 → ((t.die die).regs.get (0x6010 + 8 * i)).toNat = nthD 0 temps i % 2 ^ 32) ∧
    (s.cyc < d.paceAt → Answers (.paceUpdate die pace) s fun t => t = s) ∧
    (d.firmware = true → d.paceAt ≤ s.cyc → d.hot 840 = false → Answers (.paceUpdate die pace) s fun t => only t ∧
      (t.die die).paceAt = s.cyc + 3000000 ∧
      (let goal := if (d.regs.get 0x6000).getLsbD 16 then min 48 pace else 0
       d.paceNow ≤ 48 → (t.die die).paceNow = min (d.paceNow + 8) (max (d.paceNow - 8) goal)) ∧
      ∀ r, r ≠ 0x6000 → (t.die die).regs.get r = d.regs.get r) ∧
    (s.cyc % 64 = 0 → Answers (.paceWindow die) s fun t => t = s.setDie die { d with pace := d.paceNow }) ∧
    (d.firmware = true → d.hot 840 = true → d.hot 920 = false → Answers (.thermalLimit die) s fun t => only t ∧ (t.die die).paceNow = 48) ∧
    (d.firmware = true → d.hot 920 = true → s.gangs = [] → Answers (.thermalLimit die) s fun t => (t.die die).lost = true ∧ die ∉ t.present) ∧
    (let w := errorPlace kc (fld info 0 48)
     let dd := s.die (dieOf kc)
     let c := lookupD 0 dd.corr (fld w 32 30)
     Answers (.correctableError kc info) s fun t => t = s.setDie (dieOf kc) (t.die (dieOf kc)) ∧
      lookupD 0 (t.die (dieOf kc)).corr (fld w 32 30) = c + 1 ∧ (c ≠ 3 → (t.die (dieOf kc)).hfaq = dd.hfaq) ∧
      (c = 3 → dd.hfaq.length < 256 → dd.hfOvf = false → ∃ x, (t.die (dieOf kc)).hfaq = dd.hfaq ++ [x])) ∧
    (fld info 55 5 < 17 → (s.coach kc).gang ≠ none → Answers (.uncorrectableError kc info) s fun t => SameBytes s t ∧
      (let core := kc * 16 + (fld info 55 5 - 1)
       (s.ctl core).own = false → ((t.ctl core).sr.get 0x040).toNat % 256 = 0x90 ∧
        ((t.ctl core).sr.get 0x041).toNat = fld info 60 4 * 2 ^ 60 + fld info 0 48) ∧
      (fld info 60 4 ≠ 1 → (t.die (dieOf kc)).hfaq = (s.die (dieOf kc)).hfaq)) ∧
    (d.vfUp = true → Answers (.virtualFunctionReset die vf) s fun t => t = { s with mem := t.mem } ∧ ∀ slot, slot < 65536 →
      let l : Loc := .dev die (fld (d.regs.get (vf * 65536 + 0x110)) 12 36 * 4096 + slot * 32 + 8)
      t.mem.dword l = if fld (s.mem.dword l) 32 16 = 0xFFFF ∧ (s.mem.dword l).getLsbD 63 = false
        then setFld (s.mem.dword l) 32 16 1 else s.mem.dword l)

/-- R313, R314, R383 to R387: the reset of a package and its management mailbox: a reset with three verified stages boots, and one without
images stops with ERR and its links untrained; a command that runs on the firmware ends with its output in the buffer and ERR as its rule says;
the last piece of a stage image that boot would accept writes the stage's partition, any other writes none; any other command sets ERR. The
form of the pieces and of the outputs (log 23), the bytes that a quote signs (log 24), what sets ERR of RETIRE_GRANULES (log 64), and that
a boot is one event (log 6) are the model's. -/
def Obligations.ManagementEvents : Prop :=
  ∀ (die : Nat) (s : State),
    let d := s.die die
    let m := d.mgmt
    let out (t : State) (bytes : List Byte) (err : Bool) : Prop := (t.die die).mgmt.pending = 0 ∧ (t.die die).mgmt.err = err ∧
      t.mem = s.mem.write (Loc.mbx die 0).key bytes ∧ t.cores = s.cores ∧ (∀ i, i ≠ die → t.die i = s.die i)
    (m.stages = [] → s.gangs = [] → Answers (.powerOnReset die) s fun t =>
      (∀ j, j < 6 → t.link (die * 6 + j) = Link.reset) ∧ (t.die die).mgmt.err = true ∧ (t.die die).mgmt.boot = 2 ∧
      die ∈ t.present ∧ (t.die die).regs.get 0x6000 = 3200 ∧ (t.die die).pools = [] ∧ (t.die die).mgmt.bad = m.bad ∧
      (t.die die).mgmt.mr.head? = some (sha256 (List.replicate 32 0 ++ Config.romDigest)) ∧
      (∀ c, dieOf (coachOf c) = die → t.core c = Core.reset) ∧ ∀ c, dieOf (coachOf c) ≠ die → t.core c = s.core c) ∧
    (∀ a b c, m.stages = [a, b, c] → s.gangs = [] → s.noise = [] → Answers (.powerOnReset die) s fun t =>
      die ∈ t.present ∧
      (m.verified a = true ∧ m.verified b = true ∧ m.verified c = true →
        (t.die die).mgmt.err = false ∧ (t.die die).mgmt.boot = 1 ∧ (t.die die).mgmt.stage = 3 ∧
        (t.die die).mgmt.capGran = min (Config.capGranules die) (2 ^ 30) ∧
        (t.die die).mgmt.counter = max (max (max m.counter a.version) b.version) c.version ∧
        nthD [] (t.die die).mgmt.mr 1 = sha256 (List.replicate 32 0 ++ a.digest)) ∧
      (¬ (m.verified a = true ∧ m.verified b = true ∧ m.verified c = true) →
        (t.die die).mgmt.err = true ∧ (t.die die).mgmt.boot = 2)) ∧
    (d.firmware = true → m.pending = 2 → Answers (.quote die) s fun t =>
      let mrs := m.mr.flatMap fun r => r
      out t (mrs ++ bytesOf 8 (Config.serial die).toNat ++
        bytesOf 64 (Config.attest (sha256 (s.mem.read (Loc.mbx die 0).key 32 ++ mrs ++ quoteTail die)) m.quotes).toNat) false) ∧
    (d.firmware = true → m.pending = 3 → Answers (.readBadPageList die) s fun t =>
      let l := (m.bad.drop (s.mem.num (.mbx die 0) 8)).take 511
      out t (bytesOf 8 l.length ++ l.flatMap fun w => bytesOf 8 w.toNat) false ∧ (t.die die).mgmt.bad = m.bad) ∧
    (∀ w, d.firmware = true → m.pending = 4 → s.mem.num (.mbx die 0) 8 = 1 → s.mem.dword (.mbx die 8) = w →
      (m.bad.contains w = true → Answers (.retireGranules die) s fun t => out t (bytesOf 8 0) false ∧ (t.die die).mgmt.bad = m.bad) ∧
      (m.bad.contains w = false → badOk w = true → m.bad.length < 65536 → Answers (.retireGranules die) s fun t =>
        out t (bytesOf 8 1) false ∧ (t.die die).mgmt.bad = m.bad ++ [w]) ∧
      (m.bad.contains w = false → badOk w = false → Answers (.retireGranules die) s fun t =>
        out t (bytesOf 8 0) true ∧ (t.die die).mgmt.bad = m.bad)) ∧
    (d.firmware = true → m.pending = 5 →
      let w := s.mem.dword (.mbx die 0)
      let k := fld w 0 2
      let all := m.upd ++ ((s.mem.read (Loc.mbx die 0).key 4096).drop 8).take (fld w 16 16)
      let x : StageImage := ⟨all.take 64, all.drop 192, (all.drop 64).take 64, (all.drop 128).take 64⟩
      (w.getLsbD 8 = false → Answers (.stageUpdate die) s fun t => out t (bytesOf 8 0) false ∧
        (t.die die).mgmt.stages = m.stages ∧ (t.die die).mgmt.upd = all) ∧
      (w.getLsbD 8 = true → k ≠ 0 → m.verified x = true → Answers (.stageUpdate die) s fun t => out t (bytesOf 8 0) false ∧
        (t.die die).mgmt.upd = [] ∧ (t.die die).mgmt.stages[k - 1]? = some x ∧
        ∀ j, j < m.stages.length → j ≠ k - 1 → (t.die die).mgmt.stages[j]? = m.stages[j]?) ∧
      (w.getLsbD 8 = true → k = 0 ∨ m.verified x = false → Answers (.stageUpdate die) s fun t => out t (bytesOf 8 1) true ∧
        (t.die die).mgmt.upd = [] ∧ (t.die die).mgmt.stages = m.stages)) ∧
    (d.firmware = true → m.pending = 1 ∨ 5 < m.pending → Answers (.mailboxInvalidCommand die) s fun t => (t.die die).mgmt.pending = 0 ∧
      (t.die die).mgmt.err = true ∧ SameBytes s t ∧ t.cores = s.cores ∧ ∀ i, i ≠ die → t.die i = s.die i) ∧
    (d.firmware = false ∨ m.pending = 0 → Answers (.quote die) s (fun t => t = s) ∧ Answers (.readBadPageList die) s (fun t => t = s) ∧
      Answers (.retireGranules die) s (fun t => t = s) ∧ Answers (.stageUpdate die) s (fun t => t = s) ∧
      Answers (.mailboxInvalidCommand die) s fun t => t = s)

/-- R100, R168, R342: an instruction that its place forbids faults precisely, whatever its operands. A flow change, a loop form, exit or
yield in the LAST line of the innermost level raises a loop fault; what the arrival handler may not hold raises a handler fault there; an
amo or a fence.sc of scope dom (5) while HPOL.DOM is 0 raises a scope fault with the scope in ADDR bits 2:0, the amo when its operand
passes the earlier checks. (That exit and yield count among R100's flow changes is the model's reading, log 25.) -/
def Obligations.ForbiddenPlacesFault : Prop :=
  (∀ (d a b : Reg) (o : BitVec 21) (f : BitVec 16) (s : State), s.atLast = true →
     TakesFault (.br o) s 0x14 s.place52 ∧ TakesFault (.call d o) s 0x14 s.place52 ∧ TakesFault (.jr a) s 0x14 s.place52 ∧
     TakesFault (.ret a) s 0x14 s.place52 ∧ TakesFault (.beq a b f) s 0x14 s.place52 ∧ TakesFault (.bne a b f) s 0x14 s.place52 ∧
     TakesFault (.blt a b f) s 0x14 s.place52 ∧ TakesFault (.bge a b f) s 0x14 s.place52 ∧
     TakesFault (.blo a b f) s 0x14 s.place52 ∧ TakesFault (.bhs a b f) s 0x14 s.place52 ∧
     TakesFault (.loop a b f) s 0x14 s.place52 ∧ TakesFault (.loopPre a b f) s 0x14 s.place52 ∧
     TakesFault (.loopp a b f) s 0x14 s.place52 ∧ TakesFault (.looppPre a b f) s 0x14 s.place52 ∧
     TakesFault (.exit a) s 0x14 s.place52 ∧ TakesFault .yield s 0x14 s.place52) ∧
  (∀ (d a b : Reg) (f imm : BitVec 16) (m : BitVec 4) (w : BitVec 6) (q : BitVec 3) (n : BitVec 7)
     (x y : Bool) (k : BitVec 6) (s : State), s.inHandler = true →
     TakesFault (.wfa w) s 0x35 s.place52 ∧ TakesFault (.qWait .c f none) s 0x35 s.place52 ∧
     TakesFault (.launch d a x k) s 0x35 s.place52 ∧ TakesFault (.phPrep a m) s 0x35 s.place52 ∧
     TakesFault (.phAdv a m) s 0x35 s.place52 ∧ TakesFault (.loop a b f) s 0x35 s.place52 ∧
     TakesFault (.loopPre a b f) s 0x35 s.place52 ∧ TakesFault (.loopp a b f) s 0x35 s.place52 ∧
     TakesFault (.looppPre a b f) s 0x35 s.place52 ∧ TakesFault (.lbrk a) s 0x35 s.place52 ∧
     TakesFault .yield s 0x35 s.place52 ∧ TakesFault (.exit a) s 0x35 s.place52 ∧ TakesFault (.bar q) s 0x35 s.place52 ∧
     TakesFault .stepBegin s 0x35 s.place52 ∧ TakesFault (.stepCommit d) s 0x35 s.place52 ∧
     TakesFault .stepAbort s 0x35 s.place52 ∧ TakesFault (.gridShrink n) s 0x35 s.place52 ∧
     TakesFault (.tbase d a imm) s 0x35 s.place52 ∧ TakesFault (.fmtPush a y) s 0x35 s.place52 ∧
     TakesFault (.kgSet d a b) s 0x35 s.place52 ∧ TakesFault (.sset a 0x005) s 0x35 s.place52) ∧
  (∀ (d a b : Reg) (o : BitVec 2) (z : Bool) (p : BitVec 4) (s : State), flag ((s.ctl s.me).sr.get 0x051) 0 = false →
     TakesFault (.fenceSc 5) s 0x70 (s.place ||| mkFld 0 48 5) ∧
     (s.scalarCheck (s.reg a) (if z then 8 else 4) true = none → TakesFault (.amo d a b 5 o z p) s 0x70 (s.place ||| mkFld 0 48 5)))

/-- R60, R86, R90 to R92, R117, R118, R327, R333: the nominal issue cycle of an entry is TBASE as visible to the line plus STAMP, modulo
2^64, for a 64-bit form; one past that of the queue's entry before for a 32-bit form, and TBASE for the queue's first. q.wait and q.sig in a
queue other than the control queue are enqueued there like any entry, and q.sig registers on its arrival word. A line of one instruction
dispatches from the state alone, shown for li: its register takes the value, the line is counted, and the next line is the one after. The head
of a timed queue whose cycle takes place issues, shown for vadd: it leaves its queue, pops its counters, and is to write its line after its
latency. The head of an F queue that may issue does so, shown for fbar. -/
def Obligations.IssueCyclesAndQueueSignals : Prop :=
  (∀ (q : Queue) (c : Cont) (s : State), q.timed = true →
     let tbase := ((s.ctl s.me).sr.get 0x005).toNat
     nominalOf s q (some c) = (tbase + c.stamp.toNat) % 2 ^ 64 ∧
     (∀ p, lookup? (s.eng s.me).lastN q.tag = some p → nominalOf s q none = (p + 1) % 2 ^ 64) ∧
     (lookup? (s.eng s.me).lastN q.tag = none → nominalOf s q none = tbase)) ∧
  (∀ (q : Queue) (n : BitVec 16) (aw : BitVec 6) (k : Option Cont) (s : State), q ≠ .c →
     Enqueues (.qWait q n k) s q k [] {} none ∧ Enqueues (.qSig q aw k) s q k [] {} (some aw.toNat)) ∧
  (∀ (core : Nat) (it : Item) (d : Reg) (imm : BitVec 21) (s : State),
     let c := s.ctl core
     s.coreLive core = true → c.blocks = [] → c.accessHolds = false → c.handlerPending = false → c.inHandler = false → c.depth = 0 →
     c.brk = false → c.defer = [] → c.flow = none → c.pend = [] → c.acc = [] → c.fst = [] → (s.eng core).sigs = [] →
     s.illegalAt core c.pc (s.parts43 core c.pc) = none → s.parts43 core c.pc = [.item it] → it.q = .c → it.ins = .ok (.li d imm) →
     Answers (.lineDispatch core) s fun t => OnlyCore s { t with focus := s.focus } core ∧ SameBytes s t ∧ t.eng core = s.eng core ∧
       t.dat core = s.dat core ∧
       t.ctl core = { c with regs := (t.ctl core).regs, pc := (c.pc + 1) % 2048, lines := (c.lines + 1) % 2 ^ 48 } ∧
       ∀ r, (t.ctl core).reg r = if r = d ∧ d ≠ 0 then imm.signExtend 64 else c.reg r) ∧
  (∀ (core : Nat) (f : FTy) (d a b : GridOp) (k : Option Cont) (e : Entry) (rest : List Entry) (s : State),
     let kc := coachOf core
     let u := s.openCycle kc
     let v := u.focusEntry core e
     let x := u.eng core
     let lat := if f = .f64 then 8 else 4
     let key := core * 8 + Queue.v.tag
     s.takesPlace kc = true → (u.coach kc).due.contains key = true → x.qv = e :: rest → e.ins = .vadd f d a b k →
     ((s.coach kc).opened = some s.cyc → u = s) ∧
     Answers (.timedIssue core .v) s fun t => OnlyCore u { t with coaches := u.coaches, focus := u.focus } core ∧ SameBytes s t ∧
       t.focus.cur = none ∧ t.coach kc = { u.coach kc with due := (u.coach kc).due.filter fun i => i != key } ∧
       (∀ i, i ≠ kc → t.coach i = u.coach i) ∧ t.dat core = u.dat core ∧
       t.ctl core = { u.ctl core with sr := (t.ctl core).sr } ∧ (∀ n, n ≠ 0x009 → (t.ctl core).sr.get n = (u.ctl core).sr.get n) ∧
       (∀ i, i < 6 → (t.ctl core).token i = (u.ctl core).token i -
         (if e.part = false ∧ ((i = 2 ∧ ∃ c, k = some c ∧ c.pw = true) ∨ (i = 5 ∧ ∃ c, k = some c ∧ c.pe = true)) then 1 else 0)) ∧
       ∃ r : Run, t.eng core = { x with qv := rest, run := x.run ++ [r], lastA := (t.eng core).lastA } ∧
         (∀ i, lookup? (t.eng core).lastA i =
           if u.tokenMode core = true ∧ i = Queue.v.tag then some ((u.coach kc).tclk, e.n) else lookup? x.lastA i) ∧
         r.e = e ∧ r.q = .v ∧ r.t = (u.coach kc).tclk ∧ r.k = 0 ∧ r.last = lat - 1 ∧ r.push = lat - 1 ∧
         ∃ w, r.wr = [(lat - 1, w)] ∧ WritesLine d f.bytes (256 / f.bytes) (cellOn f.bytes (predNow v k)) (fun j =>
           f.fmt.round .rne (Val.add .rne (f.fmt.decode (src v f.bytes a j)) (f.fmt.decode (src v f.bytes b j)))) w) ∧
  (∀ (core : Nat) (z : UCont) (e : Entry) (rest : List Entry) (s : State),
     let kc := coachOf core
     (s.coach kc).stand = .running → (s.eng core).qf = e :: rest → e.ins = .fbar z → s.untimedReady core .f e = true →
     (s.eng core).sigs = [] →
     Answers (.fQueueIssue core) s fun t => OnlyCore s { t with focus := s.focus } core ∧ SameBytes s t ∧ t.focus.cur = none ∧
       t.dat core = s.dat core ∧ t.ctl core = { s.ctl core with nfbar := (s.ctl core).nfbar + 1 } ∧
       ∃ o, t.eng core = { s.eng core with qf := rest, ops := (s.eng core).ops ++ [o] } ∧ IsStarted o e .f s.cyc ∧
         o.pos = (s.ctl core).nfbar ∧ o.data = ((s.coach kc).fab.out.filter fun w => w.core == core).map (·.id))

/-- R164 to R166, R117, R169: registration and completion of an operation on an arrival word, field by field: the first
registration leaves PEND 1 and the other fields 0, a later one counts; a completion adds its value to COUNT (saturating), keeps the first
nonzero status, counts down, and sets SET with the last; of the statuses that come in one cycle, that of the operation that started first is
kept. At the end of a cycle a wfa ends when its word is SET, a q.wait when few enough of the operations it counts are incomplete, also in the
main stream while the handler runs, and a handler in hret returns to the main stream's next line, its results visible, once nothing of it is
outstanding; other waits stand. -/
def Obligations.ArrivalWordsAndWaits : Prop :=
  (∀ (w : Word) (val stat : Nat), stat < 16 →
     let pend := w.toNat / 2 ^ 52 % 2 ^ 11
     let c := awComplete w val stat
     (pend = 0 → (awRegister w).toNat = 2 ^ 52) ∧
     (pend ≠ 0 → pend < 2047 → (awRegister w).toNat = w.toNat + 2 ^ 52) ∧
     (pend ≠ 0 →
       c.toNat % 2 ^ 48 = min (w.toNat % 2 ^ 48 + val) (2 ^ 48 - 1) ∧
       c.toNat / 2 ^ 48 % 16 = (if w.toNat / 2 ^ 48 % 16 = 0 then stat else w.toNat / 2 ^ 48 % 16) ∧
       c.toNat / 2 ^ 52 % 2 ^ 11 = pend - 1 ∧ (pend = 1 → c.getLsbD 63 = true) ∧ (1 < pend → c.getLsbD 63 = w.getLsbD 63))) ∧
  (∀ (w : Word) (first : Nat × Nat) (now start val stat : Nat), stat < 16 →
     let u := (awUpdate w first now start val stat).1
     let c := awComplete w val stat
     (stat = 0 ∨ first.1 ≠ now + 1 ∨ first.2 ≤ start → u = c) ∧
     (stat ≠ 0 → first.1 = now + 1 → start < first.2 → u.toNat / 2 ^ 48 % 16 = stat ∧ u.toNat % 2 ^ 48 = c.toNat % 2 ^ 48 ∧
       u.toNat / 2 ^ 52 = c.toNat / 2 ^ 52)) ∧
  (∀ (x : Core),
     let y := x.wake
     let ends (b : Block) : Prop := (∃ k, b = .wfa k ∧ (x.ctl.sr.get (0x080 + k)).getLsbD 63 = true) ∨
       ∃ n ids, b = .qWait n ids ∧ (x.eng.wordOps.filter fun i => ids.contains i).length ≤ n
     y.dat = x.dat ∧ (∀ b, b ∈ y.ctl.blocks ↔ b ∈ x.ctl.blocks ∧ ¬ ends b) ∧
     (x.ctl.inHandler = false ∨ x.ctl.hblocks ≠ [.hret] ∨ (∃ a ∈ x.ctl.acc, a.hnd = true) ∨
         (∃ p ∈ x.ctl.pend, p.hnd = true ∧ p.wait.isSome = true) → (∀ b ∈ x.ctl.hblocks, ¬ ends b) →
       y = { x with ctl := { x.ctl with blocks := y.ctl.blocks } }) ∧
     (x.ctl.inHandler = true → x.ctl.hblocks = [.hret] → (∀ a ∈ x.ctl.acc, a.hnd = false) →
         (∀ p ∈ x.ctl.pend, p.hnd = true → p.wait = none) →
       y.ctl.hblocks = [] ∧ y.ctl.pc = x.ctl.mainPc ∧ y.ctl.inHandler = false ∧
       (y.ctl.sr.get 0x029).toNat % 2 ^ 63 = (x.ctl.sr.get 0x029).toNat % 2 ^ 63 ∧
       ∀ p, x.ctl.pend = [p] → p.hnd = true → y.ctl.regs.get (regKey p.sh p.reg) = p.val))

/-- R114, R115: br, call, jr and ret select the next line, call also gives sd the line after its own, and nothing else changes;
the line that dispatches next is the one a flow change selects, else the line after, modulo 2048, where no iteration boundary follows (the
handler meets none, and the main stream only at the LAST line of its innermost level). -/
def Obligations.JumpsAndTheNextLine : Prop :=
  (∀ (d a : Reg) (o : BitVec 21) (s : State), s.atLast = false →
     Answers (.br o) s (fun t => OnlyCtl s t s.me ∧ SameBytes s t ∧
       t.ctl s.me = { s.ctl s.me with flow := some (lineFrom s.focus.line o.toInt) }) ∧
     Answers (.call d o) s (fun t => OnlyCtl s t s.me ∧ SameBytes s t ∧
       ResultSeen (s.ctl s.me) (t.ctl s.me) d 1 (BitVec.ofNat 64 ((s.focus.line + 1) % 2048)) ∧
       t.ctl s.me = { s.ctl s.me with pend := (t.ctl s.me).pend, flow := some (lineFrom s.focus.line o.toInt) }) ∧
     Answers (.jr a) s (fun t => OnlyCtl s t s.me ∧ SameBytes s t ∧
       t.ctl s.me = { s.ctl s.me with flow := some ((s.reg a).toNat % 2048) }) ∧
     Answers (.ret a) s (fun t => OnlyCtl s t s.me ∧ SameBytes s t ∧
       t.ctl s.me = { s.ctl s.me with flow := some ((s.reg a).toNat % 2048) })) ∧
  (∀ (s : State) (core line : Nat) (hnd : Bool), (hnd = true ∨ (s.ctl core).lastLine ≠ some line) → (s.ctl core).defer = [] → (s.ctl core).brk = false →
     (s.ctl core).stand = .running →
     ((s.finishLine core line hnd).ctl core).pc = (s.ctl core).flow.getD ((line + 1) % 2048) ∧
     ((s.finishLine core line hnd).ctl core).flow = none)

/-- R246, R247, R253 to R259, R268, R271, R276: mclr clears, in the cycle after its issue, the cells of the planes and rows it names, or the
first rmx and rsm; mresc rescales one plane row, rmx and rsm in each of its cycles. A readout reads one row at its cadence, rounds each element
as its descriptor says, and writes it four cycles later: to SRAM as its bytes (FP64 in two halves), to the grid as each line is full or the last;
its enabled elements feed the amax register of its last row, and with CLR the row read is cleared in the same cycle. (The finite number that a
saturated exact cell reads as is the model's, log 14.) Streams are read unit by unit at their cadence; mspl.ld gives a slot its 4096 values after
64 cycles, and mspl.rd writes two units of its slots in each cycle. -/
def Obligations.ClearRescaleAndReadoutRows : Prop :=
  (∀ (m : BitVec 2) (c : BitVec 3) (y : Bool) (n : BitVec 6) (x : GridOp) (k : Option Cont) (r : Run) (start d : Dat),
     (r.e.ins = .mclr m c y n k →
       let out := mclrRun d r
       (r.k ≠ 1 → out = d) ∧
       (r.k = 1 → m = 3 → out.plane = d.plane ∧ out.grid = d.grid ∧ ∀ p,
         out.rmx p = (if p ≤ n.toNat then 0xFF800000 else d.rmx p) ∧ out.rsmAt p = if p ≤ n.toNat then 0 else d.rsmAt p) ∧
       (r.k = 1 → m ≠ 3 → out = { d with plane := out.plane } ∧ ∀ p q j, q < 64 → j < 64 →
         out.plane.get (planeKey p q j) =
           if c.toNat ≤ p ∧ p < c.toNat + (if m = 0 then 1 else if m = 1 then 3 else 2) ∧ q ≤ n.toNat then 0
           else d.plane.get (planeKey p q j))) ∧
     (r.e.ins = .mresc c y x n k →
       let out := rescRun start d r
       let p := r.k - 5
       let mo := start.rmx p
       let mx := Val.fmax (fp32.decode mo) (fp32.decode (wordAt r.data p))
       let new := fp32.round .rne mx
       let f := fp32.round .rne (Val.exp2 (Val.add .rne (fp32.decode mo) mx.negate))
       (r.k < 5 ∨ n.toNat < p → out = d) ∧
       (5 ≤ r.k → p ≤ n.toNat →
         ((mx.isNan = true ∨ mx = .inf false) →
           out.rmx p = fp32.nanEnc ∧ out.rsmAt p = fp32.nanEnc ∧ ∀ j, j < 64 → nthD 0 (out.planeRow c.toNat p) j = fp32.nanEnc) ∧
         (mx.isNan = false → mx ≠ .inf false → new = 0xFF800000 → out = d) ∧
         (mx.isNan = false → mx ≠ .inf false → new ≠ 0xFF800000 → mo = 0xFF800000 →
           out.rmx p = new ∧ out.rsmAt p = 0 ∧ ∀ j, j < 64 → nthD 1 (out.planeRow c.toNat p) j = 0) ∧
         (mx.isNan = false → mx ≠ .inf false → new ≠ 0xFF800000 → mo ≠ 0xFF800000 →
           out.rmx p = new ∧ out.rsmAt p = fp32.mul (start.rsmAt p) f ∧
           ∀ j, j < 64 → nthD 0 (out.planeRow c.toNat p) j = fp32.mul (nthD 0 (start.planeRow c.toNat p) j) f)) ∧
       out.grid = d.grid ∧ ∀ q l j, l < 64 → j < 64 → (q ≠ c.toNat ∨ l ≠ p) →
         out.plane.get (planeKey q l j) = d.plane.get (planeKey q l j))) ∧
  (∀ (c : BitVec 2) (g8 : BitVec 8) (b : Reg) (o : BitVec 11) (k : Option Cont) (core i : Nat) (r : Run) (s : State) (d : Dat),
     r.e.ins = .mrd c g8 b o k →
     let kc := coachOf core
     let w := nthD 0 r.e.cap 0
     let t := fld w 12 4
     let n := fld w 16 6 + 1
     let bt : Nat := if t = 8 then 8 else if t = 0 ∨ t = 9 then 4 else if t = 1 ∨ t = 2 then 2 else 1
     let rc : Nat := if t = 8 then 2 else 1
     let row := (fld w 22 6 + i) % 64
     let v (j : Nat) : Val := nthD .nan ((s.dat core).readRow (fld w 28 4) row) j
     let y := s.runRead core r
     let a := r.e.v0.toNat + i * (64 * bt)
     let on (x : Nat) : Bool := r.mask.getLsbD ((i * (64 * bt) + x) % 256 / 4)
     let piece (out : List Byte) (cyc off len : Nat) (z : Nat × WEff) : Prop := z.1 = cyc ∧ ∃ cells units, z.2 = .mem cells units ∧
       ∀ x, findEntry (s.gangOf kc) (s.mapOf kc r.e.map) (a + off) = some x → x.home = 1 → (a + off) % 4096 + len ≤ 4096 →
         ∀ p, p ∈ cells ↔ ∃ q, q < len ∧ on (off + q) = true ∧ p = ((s.locIn kc x r.e.ver (a + off)).key + q, nthD 0 out (off + q))
     let mx := fp32.round .rne (((List.range 64).filter fun j => on (j * bt)).foldl
       (fun m j => Val.fmax m (fp32.decode (fp32.round .rne (v j))).abs) (if i = 0 then .fin false 0 0 else fp32.decode (natOfBytes r.data2)))
     t ≤ 10 → isMx t = false → i < n → r.data.length = 8 + 64 * bt * i →
     (rc = 2 → r.k % 2 = 1 → y = r ∧ mrdClear d r = d) ∧
     (r.k = rc * i → mrdClear d r = (if flag w 8 then d.clearRead (fld w 28 4) row else d) ∧
       ∃ (out : List Byte) (ws am : List (Nat × WEff)), out.length = 64 * bt ∧
         (∀ j, j < 64 → natOfBytes ((out.drop (j * bt)).take bt) = roundT t (Rm.ofBits (BitVec.ofNat 2 (fld w 10 2))) (v j)) ∧
         y = { r with data := r.data ++ out, data2 := bytesOf 4 mx, wr := r.wr ++ ws ++ am } ∧
         (flag w 9 = true → t = 8 → ∃ z1 z2, ws = [z1, z2] ∧ piece out (r.k + 4) 0 256 z1 ∧ piece out (r.k + 5) 256 256 z2) ∧
         (flag w 9 = true → t ≠ 8 → ∃ z, ws = [z] ∧ piece out (r.k + 4) 0 (64 * bt) z) ∧
         (flag w 9 = false →
           let before := i * (64 * bt) / 256
           let after := if i + 1 = n then ((i + 1) * (64 * bt) + 255) / 256 else (i + 1) * (64 * bt) / 256
           ws.length = after - before ∧ ∀ (l : Nat) (z : Nat × WEff), ws[l]? = some z → z.1 = r.k + 4 ∧
             WritesLine (gridNext (GridOp.ofBits g8) (before + l)) 4 (min 64 ((i + 1) * (16 * bt) - 64 * (before + l))) r.mask.getLsbD
               (wordAt ((y.data.drop 8).drop (256 * (before + l)))) z.2) ∧
         (flag w 7 = false ∨ i + 1 ≠ n → am = []) ∧
         (flag w 7 = true → i + 1 = n → am =
           [(r.k + 4 + (if flag w 9 = true ∧ t = 8 then 1 else 0), .amax (fld w 3 3) (BitVec.ofNat 32 mx) (flag w 6))]))) ∧
  (∀ (d : Dat) (c q j : Nat), c < 16 → q < 64 → j < 64 →
     let v := nthD .nan (d.readRow c q) j
     let m := nthD 0 (d.exactRow (4 * (c - 8)) q) j
     let out := d.clearRead c q
     (c < 8 → v = fp32.decode (d.plane.get (planeKey c q j)).toNat) ∧
     (c = 8 ∨ c = 9 → (m = -(2 ^ 95) → v = .nan) ∧ (m = 2 ^ 95 - 1 → v.isFinite = true ∧ 2 ^ 1024 ≤ v.rat) ∧
       (m = -(2 ^ 95 - 1) → v.isFinite = true ∧ v.rat ≤ -(2 ^ 1024)) ∧
       (m ≠ -(2 ^ 95) → m ≠ 2 ^ 95 - 1 → m ≠ -(2 ^ 95 - 1) → v.isFinite = true ∧ v.rat = (m : Rat) / 2 ^ 48)) ∧
     (10 ≤ c → c < 14 → v = fp64.decode (nthD 0 (d.pairRow (2 * (c - 10)) q) j)) ∧
     (c = 14 → v = fp32.decode (d.rmx j)) ∧ (c = 15 → v = fp32.decode (d.rsmAt j)) ∧
     (c < 14 → out = { d with plane := out.plane } ∧ ∀ p l x, l < 64 → x < 64 →
       let base := if c < 8 then c else if c < 10 then 4 * (c - 8) else 2 * (c - 10)
       out.plane.get (planeKey p l x) =
         if l = q ∧ base ≤ p ∧ p < base + (if c < 8 then 1 else if c < 10 then 3 else 2) then 0 else d.plane.get (planeKey p l x)) ∧
     (c = 14 → out = { d with rmxX := out.rmxX } ∧ out.rmx j = 0xFF800000) ∧ (c = 15 → out = { d with rsm := out.rsm } ∧ out.rsmAt j = 0)) ∧
  (∀ (t n x u : Nat) (c : Nat × Nat), 0 < c.1 → 0 < c.2 →
     ((streamUnits t n c x).1 ≤ u ∧ u < (streamUnits t n c x).1 + (streamUnits t n c x).2 ↔
       64 * u < n * rowBytes t ∧ 64 * u * c.1 / (c.2 * rowBytes t) = x)) ∧
  (∀ (z : Bool) (c : BitVec 3) (g w : BitVec 2) (a b : Reg) (y : Bool) (n : BitVec 10) (n6 : BitVec 6) (k : Option Cont) (core : Nat)
     (r : Run) (s : State),
     let word := nthD 0 r.e.cap 0
     let out := s.runRead core r
     let reads (t : Nat) (cad : Nat × Nat) (v : Word) : List Byte :=
       let u := streamUnits t r.e.rem cad r.k
       seen s core r.e (v.toNat + 64 * u.1) (64 * u.2)
     let scales (cad : Nat × Nat) : List Byte :=
       ((List.range ((2 * r.e.rem + 63) / 64)).filter fun v => entryAt cad (32 * v) == r.k).flatMap fun v =>
         seen s core r.e (r.e.v1.toNat + 64 * v) (min 64 (2 * r.e.rem - 64 * v))
     let takes (t : Nat) (cad : Nat × Nat) : Prop :=
       out = { r with data := r.data ++ reads t cad r.e.v0, data2 := if isMx t then r.data2 ++ scales cad else r.data2 }
     let cad := splCadence r.e
     let entered : Prop := ∀ i ∈ rowsAt cad r.e.rem r.k, lookupD [] out.snaps i = (s.dat core).coef
     let ta := fwA (nthD 0 r.e.cap 2)
     (r.e.ins = .mmul z c y a n k ∨ r.e.ins = .mmulCh z c y a n k → takes (fwA word) (cadence (fwA word))) ∧
     (r.e.ins = .mattn z g a n6 k → takes (fwA word) (slower (cadence (fwA word)) (cadence (fwA (nthD 0 r.e.cap 1))))) ∧
     (r.e.ins = .msplEv g z w a n k → entered ∧ out = { r with data := r.data ++ reads ta cad r.e.v0, snaps := out.snaps }) ∧
     (r.e.ins = .msplDx g z w a b n k ∨ r.e.ins = .msplGs g z w a b n k → entered ∧
       out = { r with data := r.data ++ reads ta cad r.e.v0, data2 := r.data2 ++ reads ta cad r.e.v1, snaps := out.snaps })) ∧
  (∀ (b : Reg) (n s0 : BitVec 5) (k : Option Cont) (core : Nat) (r : Run) (s : State), r.e.ins = .msplLd b n s0 k →
     r.k < 64 * (n.toNat + 1) →
     let out := s.runRead core r
     let bs := r.data ++ seen s core r.e (r.e.v0.toNat + 128 * r.k) 128
     (r.k % 64 ≠ 63 → out = { r with data := bs }) ∧
     (r.k % 64 = 63 → ∃ cells, out = { r with data := [], wr := [(r.k, .coef cells)] } ∧
       ∀ p, p ∈ cells ↔ ∃ i j, i < 64 ∧ j < 64 ∧
         p = (coefKey (s0.toNat + r.k / 64) i j, BitVec.ofNat 16 (natOfBytes ((bs.drop (128 * i + 2 * j)).take 2))))) ∧
  (∀ (n : BitVec 3) (s0 : BitVec 5) (b : Reg) (o : BitVec 11) (k : Option Cont) (core : Nat) (r : Run) (s : State),
     r.e.ins = .msplRd n s0 b o k → r.k < 64 * (n.toNat + 1) → r.data.length = 8192 * (n.toNat + 1) →
     let kc := coachOf core
     let a := r.e.v0.toNat + 128 * r.k
     ∃ cells units, s.runRead core r = { r with wr := r.wr ++ [(r.k + 1, .mem cells units)] } ∧
       ∀ x, findEntry (s.gangOf kc) (s.mapOf kc r.e.map) a = some x → x.home = 1 → a % 4096 + 128 ≤ 4096 →
         ∀ p, p ∈ cells ↔ ∃ q, q < 128 ∧ p = ((s.locIn kc x r.e.ver a).key + q, nthD 0 r.data (128 * r.k + q))) ∧
  (∀ (c : Bits 16) (s0 n q i j : Nat), q < n → i < 64 → j < 64 →
     natOfBytes (((slotBytes c s0 n).drop (8192 * q + 128 * i + 2 * j)).take 2) = (c.get (coefKey (s0 + q) i j)).toNat)

/-- R129 to R132, R149, R182, R189, R190, R371, R391, R393: a move between tiers completes once its time has come, its pseudo-channels are served and the
eviction of its slot is over: a promotion copies its page and makes it resident, an eviction writes back a page that was written and frees
the slot, and neither touches a page past the tenant's allocation. The phase-shift engine of a running coach performs the next write of its shift set, or, with no shift prepared, of its step copy:
the granule is copied or zeroed once no access in flight names its storage, the writes that wait for every core come last, and the write leaves
the set; otherwise nothing changes. What landings of the cycle wrote over is copied as it stood. A mirror to HBM or the capacity tier is performed
when a window serves it. A lost die moves nothing. The order of the writes (log 16) and the mirrors that wait (log 55) are the model's reading. -/
def Obligations.BackgroundCopyEngines : Prop :=
  (∀ (die n : Nat) (m : TierMove) (s : State), (s.die die).moves.find? (fun x => x.id == n) = some m → m.due ≤ s.cyc →
     (m.promote = true → ∀ x ∈ (s.die die).moves, x.promote = false → x.coach = m.coach → x.slot ≠ m.slot) →
     (∀ i, i < 16 → (s.coach m.coach).pcServed s.cyc ((m.slot * 16 + i) % 128) = true) → (s.die die).lost = false →
     let key := pageKey m.tenant m.page
     let p := lookupD Page.reset (s.die die).pages key
     let low := (Loc.cap die (s.capBase die m.tenant * 4096 + m.page * 4096)).key
     let fast := (Loc.hbm m.coach (m.slot * 4096)).key
     Answers (.tierMoveComplete die n) s fun t =>
       (∀ x ∈ (t.die die).moves, x.id ≠ n) ∧ (∀ i, i ≠ die → t.die i = s.die i) ∧ t.cores = s.cores ∧ t.coaches = s.coaches ∧
       (t.die die).pools = (s.die die).pools ∧ (t.die die).regs = (s.die die).regs ∧
       (∀ i, i ≠ key → lookupD Page.reset (t.die die).pages i = lookupD Page.reset (s.die die).pages i) ∧
       (m.promote = true → (s.die die).capSize m.tenant ≤ m.page → lookupD Page.reset (t.die die).pages key = p ∧ SameBytes s t) ∧
       (m.promote = true → m.page < (s.die die).capSize m.tenant →
         lookupD Page.reset (t.die die).pages key = { p with coach := some m.coach, slot := m.slot, dirty := false } ∧
         t.mem.read fast 4096 = s.mem.read low 4096 ∧ ∀ i, i < fast ∨ fast + 4096 ≤ i → t.mem.byte i = s.mem.byte i) ∧
       (m.promote = false →
         lookupD Page.reset (t.die die).pages key = { p with coach := none, dirty := false } ∧
         (p.dirty = false ∨ (s.die die).capSize m.tenant ≤ m.page → SameBytes s t) ∧
         (p.dirty = true → m.page < (s.die die).capSize m.tenant → t.mem.read low 4096 = s.mem.read fast 4096 ∧ ∀ i, i < low ∨ low + 4096 ≤ i → t.mem.byte i = s.mem.byte i))) ∧
  (∀ (die n : Nat) (s : State), (s.die die).lost = true → Answers (.tierMoveComplete die n) s fun t => t = s) ∧
  (∀ (kc : Nat) (m : Mirror) (s : State), (s.coach kc).stand = .running → s.cyc < (s.coach kc).ph.due → (s.coach kc).ph.mirrors = [m] →
     (s.mirrorServed kc m = false → Answers (.shiftGranuleWrite kc) s fun t => SameBytes s t ∧ t.cores = s.cores ∧ t.coach kc = s.coach kc) ∧
     (s.mirrorServed kc m = true → Answers (.shiftGranuleWrite kc) s fun t => t.mem = s.mem.writeCells (s.mirrorAt kc m) ∧
       t.cores = s.cores ∧ t.coach kc = { s.coach kc with ph := { (s.coach kc).ph with mirrors := [] } })) ∧
  (∀ (kc : Nat) (s : State), (s.coach kc).stand = .running → (s.coach kc).ph.due ≤ s.cyc → (s.coach kc).ph.mirrors = [] →
     let ph := (s.coach kc).ph
     let effect (old : Mem) (w : ShiftWrite) (t : State) : Prop :=
       let dst := (s.homeNow kc w.dst).key
       (∀ l, w.src = some l → ∀ j, j < 4096 → t.mem.byte (dst + j) = old.byte ((s.homeNow kc l).key + j)) ∧
       (w.src = none → ∀ j, j < 4096 → t.mem.byte (dst + j) = 0) ∧ (∀ i, i < dst ∨ dst + 4096 ≤ i → t.mem.byte i = s.mem.byte i) ∧
       t.cores = s.cores ∧ (∀ i, i ≠ kc → t.coach i = s.coach i) ∧ s.cyc < (t.coach kc).ph.due
     (∀ w, ph.prep = true → s.nextWrite kc = some w → Answers (.shiftGranuleWrite kc) s fun t =>
       effect (s.mem.writeCells (s.coach kc).landed) w t ∧ (t.coach kc).ph.work = ph.work.filter (fun x => x != w) ∧
         t.coach kc = { s.coach kc with ph := { ph with work := (t.coach kc).ph.work, copied := (t.coach kc).ph.copied, due := (t.coach kc).ph.due } }) ∧
     (∀ w, ph.prep = false → s.nextCopy kc = some w → Answers (.shiftGranuleWrite kc) s fun t =>
       effect s.was w t ∧ (t.coach kc).ph.stepWork = ph.stepWork.filter (fun x => x != w) ∧
         t.coach kc = { s.coach kc with ph := { ph with stepWork := (t.coach kc).ph.stepWork, due := (t.coach kc).ph.due } }) ∧
     (∀ w, ph.prep = true → s.nextWrite kc = some w → w ∈ ph.work ∧ (w.wait = true → ph.reach.length = 16 ∧ ∀ x ∈ ph.work, x.wait = true) ∧
       ∀ c, coachOf c = kc → (w.dst.key / 4096) ∉ s.heldGranules c false) ∧
     ((ph.prep = true ∧ s.nextWrite kc = none) ∨ (ph.prep = false ∧ s.nextCopy kc = none) →
       Answers (.shiftGranuleWrite kc) s fun t => t = s))

/-- R99, R102, R106, R116: a loop form starts a new innermost level from the next line on: ITER 0, COUNT and LIMIT from sa, II and
the stage count from sb, FIRST the next line and LAST the line off16 on; a COUNT of 0 skips the body. A fifth level, and a loopp with a COUNT
above 0xFFFFFFF8, raise a loop fault. lbrk with no active level raises a loop fault; with sa = 0 it has no effect; else a plain level ends
after the line, and a pipelined one takes LIMIT := min(LIMIT, ITER + 1) from the next line on, STARTIT as it was. -/
def Obligations.LoopFormsAndBreak : Prop :=
  (∀ (a b : Reg) (o : BitVec 16) (s : State), s.inHandler = false → s.atLast = false →
     ((s.ctl s.me).depth < 4 →
       StartsLevel (.loop a b o) s false false a b o ∧ StartsLevel (.loopPre a b o) s true false a b o ∧
       ((s.reg a).toNat % 2 ^ 32 ≤ 0xFFFFFFF8 →
         StartsLevel (.loopp a b o) s false true a b o ∧ StartsLevel (.looppPre a b o) s true true a b o) ∧
       (0xFFFFFFF8 < (s.reg a).toNat % 2 ^ 32 →
         TakesFault (.loopp a b o) s 0x14 s.place52 ∧ TakesFault (.looppPre a b o) s 0x14 s.place52)) ∧
     ((s.ctl s.me).depth = 4 →
       TakesFault (.loop a b o) s 0x14 s.place52 ∧ TakesFault (.loopPre a b o) s 0x14 s.place52 ∧
       TakesFault (.loopp a b o) s 0x14 s.place52 ∧ TakesFault (.looppPre a b o) s 0x14 s.place52)) ∧
  (∀ (a : Reg) (s : State), s.inHandler = false →
     let c := s.ctl s.me
     let k := c.depth - 1
     (c.depth = 0 → TakesFault (.lbrk a) s 0x14 s.place52) ∧
     (c.depth ≠ 0 → s.reg a = 0 → Answers (.lbrk a) s fun t => t = s) ∧
     (c.depth ≠ 0 → s.reg a ≠ 0 → flag (c.sr.get (0x014 + k)) 41 = false → ChangesCtl (.lbrk a) s fun c => { c with brk := true }) ∧
     (c.depth ≠ 0 → s.reg a ≠ 0 → flag (c.sr.get (0x014 + k)) 41 = true →
       ∃ v : Word, (ChangesCtl (.lbrk a) s fun c => { c with defer := c.defer ++ [(0x018 + k, v)] }) ∧
         v.toNat / 2 ^ 32 = min ((c.sr.get (0x018 + k)).toNat / 2 ^ 32) ((c.sr.get (0x010 + k)).toNat % 2 ^ 32 + 1) ∧
         v.toNat % 2 ^ 32 = (c.sr.get (0x018 + k)).toNat % 2 ^ 32))

/-- R133, R134, R372, R373: ph.prep of a map that does not exist, or of another than the one prepared, and ph.adv of a map that
is not prepared, or by a core that has reached, raise phase faults with their causes; the first ph.prep starts the shift, one of the same
map has no effect, and ph.adv counts the core as reached and blocks it. Outside a step, step.commit and step.abort raise a step fault with
CAUSE 0; in one, step.commit blocks the core with its result pending, and step.abort sets AB of its coach and nothing else. -/
def Obligations.PhaseAndStepInstructions : Prop :=
  (∀ (a : Reg) (n : BitVec 4) (s : State), s.inHandler = false →
     let kc := coachOf s.me
     let k := s.coach kc
     let m := ((s.reg a).toNat % 16 + n.toNat) % 16
     let fault (c : Nat) : Word := s.place52 ||| mkFld 16 4 c
     (k.phases.length ≤ m → TakesFault (.phPrep a n) s 0x25 (fault 0)) ∧
     (m < k.phases.length → k.ph.prep = true → m = k.ph.pht → Answers (.phPrep a n) s fun t => t = s) ∧
     (m < k.phases.length → k.ph.prep = true → m ≠ k.ph.pht → TakesFault (.phPrep a n) s 0x25 (fault 1)) ∧
     (m < k.phases.length → k.ph.prep = false → Answers (.phPrep a n) s fun t =>
       let p := (t.coach kc).ph
       p.pht = m ∧ p.prep = true ∧ p.from_ = s.mapNow s.me ∧ p.work = s.shiftSet kc (s.mapNow s.me) m ∧
       p.reach = s.exitedCores kc ∧ p.ndone = (s.exitedCores kc).length ∧ p.copied = [] ∧ p.mirrors = k.ph.mirrors ∧
       t.coach kc = { k with ph := p } ∧ (∀ i, i ≠ kc → t.coach i = s.coach i) ∧ t.cores = s.cores ∧ SameBytes s t) ∧
     (k.ph.prep = false ∨ m ≠ k.ph.pht → TakesFault (.phAdv a n) s 0x25 (fault 2)) ∧
     (k.ph.prep = true → m = k.ph.pht → k.ph.reach.contains s.me = true → TakesFault (.phAdv a n) s 0x25 (fault 3)) ∧
     (k.ph.prep = true → m = k.ph.pht → k.ph.reach.contains s.me = false → Answers (.phAdv a n) s fun t =>
       (t.coach kc).ph = { k.ph with reach := k.ph.reach ++ [s.me] } ∧ t.ctl s.me = { s.ctl s.me with blocks := (s.ctl s.me).blocks ++ [.phAdv] } ∧
       (∀ i, i ≠ s.me → t.core i = s.core i) ∧ (∀ i, i ≠ kc → t.coach i = s.coach i) ∧ SameBytes s t)) ∧
  (∀ (d : Reg) (s : State), s.inHandler = false →
     ((s.coach (coachOf s.me)).stepOpen = false →
       TakesFault (.stepCommit d) s 0x81 (s.place52 ||| mkFld 16 4 0) ∧ TakesFault .stepAbort s 0x81 (s.place52 ||| mkFld 16 4 0)) ∧
     ((s.coach (coachOf s.me)).stepOpen = true →
       (Answers (.stepCommit d) s fun t => (∃ r, (t.ctl s.me).blocks = (s.ctl s.me).blocks ++ [.stepCommit s.uid r]) ∧ SameBytes s t ∧
         (t.ctl s.me).regs = (s.ctl s.me).regs ∧ OnlyCtl s { t with uid := s.uid } s.me ∧ t.uid = s.uid + 1 ∧
         (d ≠ 0 → (t.ctl s.me).pend = (s.ctl s.me).pend ++
           [{ reg := d.toNat, sh := s.inHandler, hnd := s.inHandler, left := 1, val := 0, wait := some s.uid }])) ∧
       (Answers .stepAbort s fun t => t = s.setCoach (coachOf s.me) (t.coach (coachOf s.me)) ∧
         t.coach (coachOf s.me) = { s.coach (coachOf s.me) with stepf := (t.coach (coachOf s.me)).stepf } ∧
         ∀ i, i < 64 → (t.coach (coachOf s.me)).stepf.getLsbD i = (i == 1 || (s.coach (coachOf s.me)).stepf.getLsbD i))))

/-- R105, R107, R113, R165, R167: tbase gives TBASE + sa + zero_extend(imm16) to sd and, from the next line on, to TBASE; sget gives
the state register; sset puts sa into the state register from the next line on; outside the arrival handler nothing else changes. At the
end of a line a deferred write reaches the writable bits of its state register and no other register: TBASE, AWM and CB0 to CB7 take every
bit; an arrival word takes every bit but PEND (62:52), which it keeps; AHV takes VEC (10:0) only. -/
def Obligations.TimeBaseAndStateRegisters : Prop :=
  (∀ (d a : Reg) (imm n : BitVec 16) (s : State),
     (s.inHandler = false →
       let v := (s.ctl s.me).sr.get 0x005 + s.reg a + imm.setWidth 64
       Answers (.tbase d a imm) s fun t => OnlyCtl s t s.me ∧ SameBytes s t ∧ ResultSeen (s.ctl s.me) (t.ctl s.me) d 1 v ∧
         t.ctl s.me = { s.ctl s.me with pend := (t.ctl s.me).pend, defer := (s.ctl s.me).defer ++ [(0x005, v)] }) ∧
     GivesResult (.sget d n) s d 1 (s.srRead s.me n.toNat) ∧
     (n.toNat ≠ 0x005 ∨ s.inHandler = false →
       Answers (.sset a n) s fun t => OnlyCtl s t s.me ∧ SameBytes s t ∧
         t.ctl s.me = { s.ctl s.me with defer := (s.ctl s.me).defer ++ [(n.toNat, s.reg a)] })) ∧
  (∀ (c : Ctl) (n : Nat) (v : Word), c.defer = [(n, v)] →
     (∀ m, m ≠ n → c.applyDefer.sr.get m = c.sr.get m) ∧
     (n = 0x005 ∨ n = 0x028 ∨ (0x030 ≤ n ∧ n ≤ 0x037) → c.applyDefer.sr.get n = v) ∧
     (0x080 ≤ n ∧ n ≤ 0x0BF → ∀ i, i < 64 →
       (c.applyDefer.sr.get n).getLsbD i = if 52 ≤ i ∧ i ≤ 62 then (c.sr.get n).getLsbD i else v.getLsbD i) ∧
     (n = 0x029 → ∀ i, i < 64 → (c.applyDefer.sr.get n).getLsbD i = if i < 11 then v.getLsbD i else (c.sr.get n).getLsbD i) ∧
     c.applyDefer = { c with sr := c.applyDefer.sr, defer := [] })

/-- R194 to R205, R210, R211, R218, R219: what the arithmetic of every engine gives: what an encoding stands for; one rounding of a finite
number, quotient or root in each mode, with ties, overflow and subnormals; exact sums, products and fused sums, with NaN, infinities and the
signs of zeros; the lesser and the greater; special values and powers of two of the functions; saturating integers; block formats; exact
widening; the pairwise tree and the ordered scan. (Other results of 2^x, log2 and tanh rest on the model's fixed point, log 11.) -/
def Obligations.ArithmeticAndRounding : Prop :=
  (fp64.nanEnc = 0x7FF8000000000000 ∧ fp32.nanEnc = 0x7FC00000 ∧ fp16.nanEnc = 0x7E00 ∧ bf16.nanEnc = 0x7FC0 ∧ e4m3.nanEnc = 0x7F ∧
    e5m2.nanEnc = 0x7E) ∧
  (∀ f ∈ [fp32, bf16, fp16, fp64, e4m3, e5m2], ∀ (rm : Rm) (n1 n2 n3 : Bool) (m1 m2 m3 ex fr : Nat) (e1 e2 e3 : Int),
    let x : Val := .fin n1 m1 e1
    let y : Val := .fin n2 m2 e2
    let z : Val := .fin n3 m3 e3
    (ex < 2 ^ f.eb → fr < 2 ^ f.fb →
      let d := f.decode (f.signEnc n1 + ex * 2 ^ f.fb + fr)
      let top : Prop := ex = 2 ^ f.eb - 1 ∧ (f.e4 = true → fr = 2 ^ f.fb - 1)
      (top → d = if f.e4 = false ∧ fr = 0 then .inf n1 else .nan) ∧
      (¬ top → d.isFinite = true ∧ d.neg? = n1 ∧
        |d.rat| = (if ex = 0 then fr * (2 : Rat) ^ f.qmin else (2 ^ f.fb + fr : Nat) * (2 : Rat) ^ (f.qmin + (ex : Int) - 1)))) ∧
    f.round rm .nan = f.nanEnc ∧ f.round rm (.inf n1) = (if f.e4 then 0x7F else f.signEnc n1 + (2 ^ f.eb - 1) * 2 ^ f.fb) ∧
    f.round rm (.fin n1 0 e1) = f.signEnc n1 ∧ (m1 ≠ 0 → Rounded f rm n1 x.rat (f.round rm x)) ∧
    (m1 ≠ 0 → m2 ≠ 0 → Rounded f rm (n1 != n2) (x.rat / y.rat : Rat) (f.round rm (Val.div x y))) ∧
    (m1 ≠ 0 → n1 = false → Rounded f rm false (Real.sqrt x.rat) (f.round rm x.sqrt) ∧
      Rounded f rm false (1 / Real.sqrt x.rat) (f.round rm x.rsqrt)) ∧
    ((Val.add rm x y).isFinite = true ∧ (Val.add rm x y).rat = x.rat + y.rat ∧
      (x.rat + y.rat = 0 → (Val.add rm x y).neg? = if n1 = n2 then n1 else rm == .rd)) ∧
    ((Val.mul x y).isFinite = true ∧ (Val.mul x y).rat = x.rat * y.rat ∧ (Val.mul x y).neg? = (n1 != n2)) ∧
    ((Val.fma rm x y z).isFinite = true ∧ (Val.fma rm x y z).rat = x.rat * y.rat + z.rat ∧
      (x.rat * y.rat + z.rat = 0 → (Val.fma rm x y z).neg? = if (n1 != n2) = n3 then n3 else rm == .rd))) ∧
  (∀ (rm : Rm) (n k : Bool) (m : Nat) (e : Int) (a b c : Val),
    let x : Val := .fin n m e
    (Val.add rm .nan a = .nan ∧ Val.add rm a .nan = .nan ∧ Val.add rm (.inf n) (.inf k) = (if n = k then .inf n else .nan) ∧
      Val.add rm (.inf k) x = .inf k ∧ Val.add rm x (.inf k) = .inf k) ∧
    (Val.mul .nan a = .nan ∧ Val.mul a .nan = .nan ∧ Val.mul (.inf n) (.inf k) = .inf (n != k) ∧
      Val.mul (.inf k) x = (if m = 0 then .nan else .inf (k != n)) ∧ Val.mul x (.inf k) = if m = 0 then .nan else .inf (n != k)) ∧
    (a = .nan ∨ b = .nan ∨ c = .nan ∨ Val.mul a b = .nan → Val.fma rm a b c = .nan) ∧
    (Val.div .nan a = .nan ∧ Val.div a .nan = .nan ∧ Val.div (.inf n) (.inf k) = .nan ∧ Val.div (.inf k) x = .inf (k != n) ∧
      (Val.div x (.inf k)).isZero = true ∧ (Val.div x (.inf k)).neg? = (n != k) ∧
      Val.div x (.fin k 0 0) = (if m = 0 then .nan else .inf (n != k))) ∧
    (Val.sqrt .nan = .nan ∧ Val.sqrt (.inf n) = (if n then .nan else .inf false) ∧ (m ≠ 0 → (Val.fin true m e).sqrt = .nan) ∧
      (Val.fin n 0 e).sqrt = .fin n 0 e) ∧
    (Val.rsqrt .nan = .nan ∧ (Val.rsqrt (.inf false)).isZero = true ∧ Val.rsqrt (.inf true) = .nan ∧
      (m ≠ 0 → (Val.fin true m e).rsqrt = .nan) ∧ (Val.fin n 0 e).rsqrt = .inf n) ∧
    ((a = .nan ∨ b = .nan → Val.fmin a b = .nan ∧ Val.fmax a b = .nan) ∧
      (a ≠ .nan → Val.fmin a (.inf true) = .inf true ∧ Val.fmax a (.inf false) = .inf false ∧ Val.fmin (.inf true) a = .inf true ∧
        Val.fmax (.inf false) a = .inf false) ∧
      (∀ n2 m2 e2, let y : Val := .fin n2 m2 e2
        (Val.fmin x y).rat = min x.rat y.rat ∧ (Val.fmax x y).rat = max x.rat y.rat ∧
        (m = 0 → m2 = 0 → (Val.fmin x y).neg? = (n || n2) ∧ (Val.fmax x y).neg? = (n && n2)))) ∧
    (Val.exp2 .nan = .nan ∧ (Val.exp2 (.inf true)).isZero = true ∧ Val.exp2 (.inf false) = .inf false ∧
      (∀ i : Int, -320 ≤ e → x.rat = i → |i| < 8192 → (Val.exp2 x).rat = (2 : Rat) ^ i)) ∧
    (Val.log2 .nan = .nan ∧ Val.log2 (.inf false) = .inf false ∧ Val.log2 (.inf true) = .nan ∧ Val.log2 (.fin n 0 e) = .inf true ∧
      (m ≠ 0 → Val.log2 (.fin true m e) = .nan) ∧ (∀ i : Int, x.rat = (2 : Rat) ^ i → (Val.log2 x).rat = i) ∧
      (x.rat = 1 → (Val.log2 x).neg? = false)) ∧
    (Val.tanh .nan = .nan ∧ (Val.tanh (.inf n)).rat = (if n then -1 else 1) ∧ (Val.tanh (.fin n 0 e)).isZero = true ∧
      (Val.tanh (.fin n 0 e)).neg? = n ∧ (Val.tanh x).neg? = n) ∧
    (∀ w, w = 8 ∨ w = 32 →
      let lo : Int := -2 ^ (w - 1)
      let hi : Int := 2 ^ (w - 1) - 1
      Val.roundInt rm w .nan = 0 ∧ Val.roundInt rm w (.inf n) = (if n then lo else hi) ∧
        ∃ i, RoundedInt rm x.rat i ∧ Val.roundInt rm w x = min (max i lo) hi)) ∧
  (∀ (t raw scale : Nat) (rm : Rm) (vs : List Val), t = 5 ∨ t = 6 ∨ t = 7 →
    let w : Nat := if t = 5 then 8 else if t = 6 then 6 else 4
    let frac : Int := 2 - (w : Int)
    let elem : Int := (BitVec.ofNat w raw).toInt
    let big : Rat := (vs.map fun v => |v.rat|).foldl max 0
    let ex : Int := if big = 0 then -127 else min (max (Int.log 2 big) (-127)) 127
    (scale < 255 → (mxUnpack t raw scale).rat = elem * (2 : Rat) ^ (frac + (scale : Int) - 127)) ∧ mxUnpack t raw 255 = .nan ∧
    ((∃ v ∈ vs, v.isFinite = false) → mxPack vs t rm = (255, vs.map fun _ => 0)) ∧
    ((∀ v ∈ vs, v.isFinite = true) → ((mxPack vs t rm).1 : Int) = ex + 127 ∧ (mxPack vs t rm).2.length = vs.length ∧
      ∀ (k : Nat) (v : Val), vs[k]? = some v → ∃ i : Int, RoundedInt rm (v.rat / (2 : Rat) ^ ex / (2 : Rat) ^ frac) i ∧
        (mxPack vs t rm).2[k]? = some (BitVec.ofInt w (min (max i (-(2 : Int) ^ (w - 1))) ((2 : Int) ^ (w - 1) - 1))).toNat)) ∧
  (∀ p ∈ [(e4m3, fp16), (e4m3, bf16), (e4m3, fp32), (e4m3, fp64), (e5m2, fp16), (e5m2, bf16), (e5m2, fp32), (e5m2, fp64), (fp16, fp32),
      (bf16, fp32), (fp16, fp64), (bf16, fp64), (fp32, fp64)], ∀ (z : Nat) (rm : Rm),
    let a := p.1.decode z
    let b := p.2.decode (p.2.round rm a)
    b.isFinite = a.isFinite ∧ b.isNan = a.isNan ∧ b.rat = a.rat ∧ b.neg? = a.neg?) ∧
  (∀ (op : Nat → Nat → Nat) (d n : Nat) (xs ys : List Nat), xs.length = 2 ^ n → ys.length = 2 ^ n →
    treeReduce op d (n + 1) (xs ++ ys) = op (treeReduce op d n xs) (treeReduce op d n ys) ∧
    (scanOrdered op xs).length = xs.length ∧ (scanOrdered op xs)[0]? = xs[0]? ∧
    ∀ i a b, (scanOrdered op xs)[i]? = some a → xs[i + 1]? = some b → (scanOrdered op xs)[i + 1]? = some (op a b))
end

