-- ==== Sys2Proof/Laws/Table.lean ====
section
/-! SUPPORT. The laws of tables: a read after a write gives the value written, a write leaves every other key alone, and every write keeps the canonical form. The memory operations inherit them. -/

namespace Sys2Proof.Machine

/-! ## Reading after writing -/

theorem lookupD_insertKey_other {α : Type} (d : α) (i k : Nat) (x : α) (h : k ≠ i) :
    ∀ l : List (Nat × α), lookupD d (insertKey i x l) k = lookupD d l k
  | [] => by simp [insertKey, lookupD, Ne.symm h]
  | (j, y) :: t => by
    by_cases hj : i < j
    · simp [insertKey, hj, lookupD, Ne.symm h]
    · simp only [insertKey, hj, if_false, lookupD]
      rw [lookupD_insertKey_other d i k x h t]

theorem lookupD_dropKey_other {α : Type} (d : α) (i k : Nat) (h : k ≠ i) :
    ∀ l : List (Nat × α), lookupD d (dropKey l i) k = lookupD d l k
  | [] => rfl
  | (j, y) :: t => by
    by_cases hj : j = i
    · subst hj; simp [dropKey, lookupD, Ne.symm h, lookupD_dropKey_other d j k h t]
    · simp [dropKey, hj, lookupD, lookupD_dropKey_other d i k h t]

theorem lookupD_dropKey_self {α : Type} (d : α) (i : Nat) : ∀ l : List (Nat × α), lookupD d (dropKey l i) i = d
  | [] => rfl
  | (j, y) :: t => by
    by_cases hj : j = i
    · subst hj; simp [dropKey, lookupD_dropKey_self d j t]
    · simp [dropKey, hj, lookupD, lookupD_dropKey_self d i t]

theorem lookupD_insertKey_self {α : Type} (d : α) (i : Nat) (x : α) :
    ∀ l : List (Nat × α), hasKey l i = false → lookupD d (insertKey i x l) i = x
  | [], _ => by simp [insertKey, lookupD]
  | (j, y) :: t, h => by
    simp only [hasKey, Bool.or_eq_false_iff, beq_eq_false_iff_ne] at h
    by_cases hj : i < j
    · simp [insertKey, hj, lookupD]
    · simp [insertKey, hj, lookupD, h.1, lookupD_insertKey_self d i x t h.2]

theorem hasKey_dropKey {α : Type} (i : Nat) : ∀ l : List (Nat × α), hasKey (dropKey l i) i = false
  | [] => rfl
  | (j, y) :: t => by
    by_cases hj : j = i
    · subst hj; simp [dropKey, hasKey_dropKey j t]
    · simp [dropKey, hj, hasKey, hasKey_dropKey i t]

/-- A read of the key just written gives the value written. -/
@[simp] theorem lookupD_putKey_self {α : Type} (d : α) (l : List (Nat × α)) (i : Nat) (x : α) :
    lookupD d (putKey l i x) i = x := lookupD_insertKey_self d i x _ (hasKey_dropKey i l)

/-- A write leaves every other key alone. -/
theorem lookupD_putKey_other {α : Type} (d : α) (l : List (Nat × α)) (i k : Nat) (x : α) (h : k ≠ i) :
    lookupD d (putKey l i x) k = lookupD d l k := by
  rw [putKey, lookupD_insertKey_other d i k x h, lookupD_dropKey_other d i k h]

/-- A read of any key after a write. -/
theorem lookupD_putKey {α : Type} (d : α) (l : List (Nat × α)) (i k : Nat) (x : α) :
    lookupD d (putKey l i x) k = if k = i then x else lookupD d l k := by
  by_cases h : k = i
  · subst h; simp
  · simp [h, lookupD_putKey_other d l i k x h]

/-- A read of any key of a bit-vector table after a write. -/
theorem Bits.get_put {w : Nat} (l : Bits w) (i k : Nat) (x : BitVec w) :
    Bits.get (Bits.put l i x) k = if k = i then x else Bits.get l k := by
  unfold Bits.get Bits.put
  by_cases hx : x = 0
  · rw [if_pos hx]
    by_cases h : k = i
    · rw [if_pos h, h, lookupD_dropKey_self, hx]
    · rw [if_neg h, lookupD_dropKey_other 0 i k h]
  · rw [if_neg hx, ← lookupD_putKey]

@[simp] theorem Bits.get_put_self {w : Nat} (l : Bits w) (i : Nat) (x : BitVec w) : Bits.get (Bits.put l i x) i = x := by
  simp [Bits.get_put]

theorem Bits.get_put_other {w : Nat} (l : Bits w) (i k : Nat) (x : BitVec w) (h : k ≠ i) :
    Bits.get (Bits.put l i x) k = Bits.get l k := by simp [Bits.get_put, h]

/-- Writing a list of pairs leaves every key alone that no pair names. -/
theorem Bits.get_puts_other {w : Nat} (k : Nat) : ∀ (ps : List (Nat × BitVec w)) (l : Bits w), (∀ p ∈ ps, p.1 ≠ k) →
    Bits.get (Bits.puts l ps) k = Bits.get l k
  | [], _, _ => rfl
  | (i, x) :: t, l, h => by
    have hi : k ≠ i := fun e => h (i, x) (by simp) e.symm
    rw [Bits.puts, Bits.get_puts_other k t _ (fun p hp => h p (by simp [hp])), Bits.get_put_other l i k x hi]

/-! ## The canonical form -/

theorem Bits.wf_cons {w : Nat} (k : Nat) (v : BitVec w) (t : Bits w) :
    Bits.wf ((k, v) :: t) = true ↔ v ≠ 0 ∧ (∀ p ∈ t.head?, k < p.1) ∧ Bits.wf t = true := by
  cases t with
  | nil => simp [Bits.wf]
  | cons p t => obtain ⟨k', v'⟩ := p; simp [Bits.wf, and_assoc]

theorem Bits.wf_tail {w : Nat} (p : Nat × BitVec w) (t : Bits w) (h : Bits.wf (p :: t) = true) : Bits.wf t = true :=
  ((Bits.wf_cons p.1 p.2 t).1 h).2.2

/-- Every key of a table in canonical form lies above the key before it. -/
theorem Bits.wf_lt {w : Nat} : ∀ (t : Bits w) (k : Nat) (v : BitVec w), Bits.wf ((k, v) :: t) = true → ∀ p ∈ t, k < p.1
  | [], _, _, _ => by simp
  | (k', v') :: t, k, v, h => by
    obtain ⟨_, hk, ht⟩ := (Bits.wf_cons k v _).1 h
    have hkk : k < k' := hk (k', v') (by simp)
    intro p hp
    rcases List.mem_cons.1 hp with rfl | hp
    · exact hkk
    · exact Nat.lt_trans hkk (Bits.wf_lt t k' v' ht p hp)

theorem Bits.wf_of {w : Nat} (k : Nat) (v : BitVec w) (t : Bits w) (hv : v ≠ 0) (hk : ∀ p ∈ t, k < p.1) (ht : Bits.wf t = true) :
    Bits.wf ((k, v) :: t) = true := by
  rw [Bits.wf_cons]
  refine ⟨hv, fun p hp => hk p ?_, ht⟩
  cases t with
  | nil => simp at hp
  | cons a b => simp at hp; simp [hp]

theorem mem_dropKey {α : Type} (i : Nat) (p : Nat × α) : ∀ l : List (Nat × α), p ∈ dropKey l i → p ∈ l ∧ p.1 ≠ i
  | [], h => by simp [dropKey] at h
  | (j, y) :: t, h => by
    by_cases hj : j = i
    · simp only [dropKey, hj, if_true] at h
      have := mem_dropKey i p t h
      exact ⟨by simp [this.1], this.2⟩
    · simp only [dropKey, hj, if_false, List.mem_cons] at h
      rcases h with rfl | h
      · exact ⟨by simp, hj⟩
      · have := mem_dropKey i p t h
        exact ⟨by simp [this.1], this.2⟩

/-- Removing a key keeps the canonical form. -/
theorem Bits.wf_dropKey {w : Nat} (i : Nat) : ∀ l : Bits w, Bits.wf l = true → Bits.wf (dropKey l i) = true
  | [], _ => rfl
  | (k, v) :: t, h => by
    have ht := Bits.wf_dropKey i t (Bits.wf_tail _ _ h)
    by_cases hk : k = i
    · simpa [dropKey, hk] using ht
    · simp only [dropKey, hk, if_false]
      exact Bits.wf_of k v _ ((Bits.wf_cons k v t).1 h).1 (fun p hp => Bits.wf_lt t k v h p (mem_dropKey i p t hp).1) ht

theorem mem_insertKey {α : Type} (i : Nat) (x : α) (p : Nat × α) :
    ∀ l : List (Nat × α), p ∈ insertKey i x l → p = (i, x) ∨ p ∈ l
  | [], h => by simpa [insertKey] using h
  | (j, y) :: t, h => by
    by_cases hj : i < j
    · simpa [insertKey, hj] using h
    · simp only [insertKey, hj, if_false, List.mem_cons] at h
      rcases h with rfl | h
      · simp
      · rcases mem_insertKey i x p t h with rfl | h <;> simp [*]

/-- Inserting a fresh key with a value that is not zero keeps the canonical form. -/
theorem Bits.wf_insertKey {w : Nat} (i : Nat) (x : BitVec w) (hx : x ≠ 0) :
    ∀ l : Bits w, Bits.wf l = true → (∀ p ∈ l, p.1 ≠ i) → Bits.wf (insertKey i x l) = true
  | [], _, _ => by simpa [insertKey, Bits.wf] using hx
  | (k, v) :: t, h, hi => by
    by_cases hk : i < k
    · simp only [insertKey, hk, if_true]
      refine Bits.wf_of i x _ hx (fun p hp => ?_) h
      rcases List.mem_cons.1 hp with rfl | hp
      · exact hk
      · exact Nat.lt_trans hk (Bits.wf_lt t k v h p hp)
    · have hne : k ≠ i := hi (k, v) (by simp)
      simp only [insertKey, hk, if_false]
      refine Bits.wf_of k v _ ((Bits.wf_cons k v t).1 h).1 (fun p hp => ?_)
        (Bits.wf_insertKey i x hx t (Bits.wf_tail _ _ h) fun p hp => hi p (by simp [hp]))
      rcases mem_insertKey i x p t hp with rfl | hp
      · show k < i; omega
      · exact Bits.wf_lt t k v h p hp

/-- Every write of a bit-vector table keeps the canonical form. -/
theorem Bits.wf_put {w : Nat} (l : Bits w) (i : Nat) (x : BitVec w) (h : Bits.wf l = true) : Bits.wf (Bits.put l i x) = true := by
  unfold Bits.put
  split
  · exact Bits.wf_dropKey i l h
  · exact Bits.wf_insertKey i x ‹_› _ (Bits.wf_dropKey i l h) fun p hp => (mem_dropKey i p l hp).2

/-- Keeping only some entries keeps the canonical form. -/
theorem Bits.wf_filter {w : Nat} (f : Nat × BitVec w → Bool) : ∀ l : Bits w, Bits.wf l = true → Bits.wf (l.filter f) = true
  | [], _ => rfl
  | (k, v) :: t, h => by
    have ht := Bits.wf_filter f t (Bits.wf_tail _ _ h)
    by_cases hf : f (k, v)
    · rw [List.filter_cons_of_pos hf]
      exact Bits.wf_of k v _ ((Bits.wf_cons k v t).1 h).1 (fun p hp => Bits.wf_lt t k v h p (List.mem_of_mem_filter hp)) ht
    · rwa [List.filter_cons_of_neg hf]

/-! ## Memory -/

/-- A byte read after a byte written. -/
theorem Mem.byte_setByte (m : Mem) (k j : Nat) (b : Byte) : Mem.byte (Mem.setByte m k b) j = if j = k then b else Mem.byte m j :=
  Bits.get_put (w := 8) m k j b

theorem Mem.wf_setByte (m : Mem) (k : Nat) (b : Byte) (h : Mem.wf m = true) : Mem.wf (Mem.setByte m k b) = true :=
  Bits.wf_put (w := 8) m k b h

theorem Mem.wf_write : ∀ (bs : List Byte) (m : Mem) (k : Nat), Mem.wf m = true → Mem.wf (Mem.write m k bs) = true
  | [], _, _, h => h
  | b :: t, m, k, h => Mem.wf_write t _ _ (Mem.wf_setByte m k b h)

theorem Mem.wf_writeCells : ∀ (cs : List Host.Cell) (m : Mem), Mem.wf m = true → Mem.wf (Mem.writeCells m cs) = true
  | [], _, h => h
  | (k, b) :: t, m, h => Mem.wf_writeCells t _ (Mem.wf_setByte m k b h)

theorem Mem.wf_setNum (m : Mem) (l : Loc) (n v : Nat) (h : Mem.wf m = true) : Mem.wf (Mem.setNum m l n v) = true :=
  Mem.wf_write _ _ _ h

theorem Mem.wf_clear (m : Mem) (k n : Nat) (h : Mem.wf m = true) : Mem.wf (Mem.clear m k n) = true := Bits.wf_filter (w := 8) _ m h

/-- A write of bytes leaves every byte alone that lies outside them. -/
theorem Mem.byte_write_other : ∀ (bs : List Byte) (m : Mem) (k j : Nat), (j < k ∨ k + bs.length ≤ j) →
    Mem.byte (Mem.write m k bs) j = Mem.byte m j
  | [], _, _, _, _ => rfl
  | b :: t, m, k, j, h => by
    have hl : (b :: t).length = t.length + 1 := rfl
    rw [Mem.write, Mem.byte_write_other t _ _ _ (by omega), Mem.byte_setByte, if_neg (by omega)]

/-- A write of bytes, read back byte by byte. -/
theorem Mem.byte_write : ∀ (bs : List Byte) (m : Mem) (k i : Nat) (h : i < bs.length), Mem.byte (Mem.write m k bs) (k + i) = bs[i]
  | b :: t, m, k, 0, _ => by
    rw [Mem.write, Mem.byte_write_other t _ _ _ (by omega), Mem.byte_setByte]; simp
  | b :: t, m, k, i + 1, h => by
    have := Mem.byte_write t (Mem.setByte m k b) (k + 1) i (by simpa using h)
    simpa [Mem.write, Nat.add_assoc, Nat.add_comm 1 i] using this

/-- A write of single bytes leaves every byte alone that none of them names. -/
theorem Mem.byte_writeCells_other (j : Nat) : ∀ (cs : List Host.Cell) (m : Mem), (∀ c ∈ cs, c.1 ≠ j) →
    Mem.byte (Mem.writeCells m cs) j = Mem.byte m j
  | [], _, _ => rfl
  | (k, b) :: t, m, h => by
    have hk : j ≠ k := fun e => h (k, b) (by simp) e.symm
    rw [Mem.writeCells, Mem.byte_writeCells_other j t _ (fun c hc => h c (by simp [hc])), Mem.byte_setByte, if_neg hk]

end Sys2Proof.Machine
end

