-- ==== Sys2Proof/Laws/State.lean ====
section
/-! SUPPORT. The small laws of the state: what every replacement of a part leaves and gives, one lemma for each field and each update; pending results (R87); arrival words (R164). -/

namespace Sys2Proof.Machine

/-! ## Replacing a part leaves every other field -/

@[simp] theorem State.setCore_cyc (s : State) (c : Nat) (x : Core) : (s.setCore c x).cyc = s.cyc := rfl
@[simp] theorem State.setCore_turn (s : State) (c : Nat) (x : Core) : (s.setCore c x).turn = s.turn := rfl
@[simp] theorem State.setCore_inbox (s : State) (c : Nat) (x : Core) : (s.setCore c x).inbox = s.inbox := rfl
@[simp] theorem State.setCore_delays (s : State) (c : Nat) (x : Core) : (s.setCore c x).delays = s.delays := rfl
@[simp] theorem State.setCore_noise (s : State) (c : Nat) (x : Core) : (s.setCore c x).noise = s.noise := rfl
@[simp] theorem State.setCore_focus (s : State) (c : Nat) (x : Core) : (s.setCore c x).focus = s.focus := rfl
@[simp] theorem State.setCore_uid (s : State) (c : Nat) (x : Core) : (s.setCore c x).uid = s.uid := rfl
@[simp] theorem State.setCore_present (s : State) (c : Nat) (x : Core) : (s.setCore c x).present = s.present := rfl
@[simp] theorem State.setCore_mem (s : State) (c : Nat) (x : Core) : (s.setCore c x).mem = s.mem := rfl
@[simp] theorem State.setCore_coaches (s : State) (c : Nat) (x : Core) : (s.setCore c x).coaches = s.coaches := rfl
@[simp] theorem State.setCore_gangs (s : State) (c : Nat) (x : Core) : (s.setCore c x).gangs = s.gangs := rfl
@[simp] theorem State.setCore_dies (s : State) (c : Nat) (x : Core) : (s.setCore c x).dies = s.dies := rfl
@[simp] theorem State.setCore_links (s : State) (c : Nat) (x : Core) : (s.setCore c x).links = s.links := rfl
@[simp] theorem State.setCore_net (s : State) (c : Nat) (x : Core) : (s.setCore c x).net = s.net := rfl

@[simp] theorem State.setCoach_cyc (s : State) (k : Nat) (x : Coach) : (s.setCoach k x).cyc = s.cyc := rfl
@[simp] theorem State.setCoach_turn (s : State) (k : Nat) (x : Coach) : (s.setCoach k x).turn = s.turn := rfl
@[simp] theorem State.setCoach_inbox (s : State) (k : Nat) (x : Coach) : (s.setCoach k x).inbox = s.inbox := rfl
@[simp] theorem State.setCoach_delays (s : State) (k : Nat) (x : Coach) : (s.setCoach k x).delays = s.delays := rfl
@[simp] theorem State.setCoach_noise (s : State) (k : Nat) (x : Coach) : (s.setCoach k x).noise = s.noise := rfl
@[simp] theorem State.setCoach_focus (s : State) (k : Nat) (x : Coach) : (s.setCoach k x).focus = s.focus := rfl
@[simp] theorem State.setCoach_uid (s : State) (k : Nat) (x : Coach) : (s.setCoach k x).uid = s.uid := rfl
@[simp] theorem State.setCoach_present (s : State) (k : Nat) (x : Coach) : (s.setCoach k x).present = s.present := rfl
@[simp] theorem State.setCoach_mem (s : State) (k : Nat) (x : Coach) : (s.setCoach k x).mem = s.mem := rfl
@[simp] theorem State.setCoach_cores (s : State) (k : Nat) (x : Coach) : (s.setCoach k x).cores = s.cores := rfl
@[simp] theorem State.setCoach_gangs (s : State) (k : Nat) (x : Coach) : (s.setCoach k x).gangs = s.gangs := rfl
@[simp] theorem State.setCoach_dies (s : State) (k : Nat) (x : Coach) : (s.setCoach k x).dies = s.dies := rfl
@[simp] theorem State.setCoach_links (s : State) (k : Nat) (x : Coach) : (s.setCoach k x).links = s.links := rfl
@[simp] theorem State.setCoach_net (s : State) (k : Nat) (x : Coach) : (s.setCoach k x).net = s.net := rfl

@[simp] theorem State.setGang_cyc (s : State) (g : Nat) (x : Gang) : (s.setGang g x).cyc = s.cyc := rfl
@[simp] theorem State.setGang_turn (s : State) (g : Nat) (x : Gang) : (s.setGang g x).turn = s.turn := rfl
@[simp] theorem State.setGang_inbox (s : State) (g : Nat) (x : Gang) : (s.setGang g x).inbox = s.inbox := rfl
@[simp] theorem State.setGang_delays (s : State) (g : Nat) (x : Gang) : (s.setGang g x).delays = s.delays := rfl
@[simp] theorem State.setGang_noise (s : State) (g : Nat) (x : Gang) : (s.setGang g x).noise = s.noise := rfl
@[simp] theorem State.setGang_focus (s : State) (g : Nat) (x : Gang) : (s.setGang g x).focus = s.focus := rfl
@[simp] theorem State.setGang_uid (s : State) (g : Nat) (x : Gang) : (s.setGang g x).uid = s.uid := rfl
@[simp] theorem State.setGang_present (s : State) (g : Nat) (x : Gang) : (s.setGang g x).present = s.present := rfl
@[simp] theorem State.setGang_mem (s : State) (g : Nat) (x : Gang) : (s.setGang g x).mem = s.mem := rfl
@[simp] theorem State.setGang_cores (s : State) (g : Nat) (x : Gang) : (s.setGang g x).cores = s.cores := rfl
@[simp] theorem State.setGang_coaches (s : State) (g : Nat) (x : Gang) : (s.setGang g x).coaches = s.coaches := rfl
@[simp] theorem State.setGang_dies (s : State) (g : Nat) (x : Gang) : (s.setGang g x).dies = s.dies := rfl
@[simp] theorem State.setGang_links (s : State) (g : Nat) (x : Gang) : (s.setGang g x).links = s.links := rfl
@[simp] theorem State.setGang_net (s : State) (g : Nat) (x : Gang) : (s.setGang g x).net = s.net := rfl

@[simp] theorem State.setDie_cyc (s : State) (d : Nat) (x : Die) : (s.setDie d x).cyc = s.cyc := rfl
@[simp] theorem State.setDie_turn (s : State) (d : Nat) (x : Die) : (s.setDie d x).turn = s.turn := rfl
@[simp] theorem State.setDie_inbox (s : State) (d : Nat) (x : Die) : (s.setDie d x).inbox = s.inbox := rfl
@[simp] theorem State.setDie_delays (s : State) (d : Nat) (x : Die) : (s.setDie d x).delays = s.delays := rfl
@[simp] theorem State.setDie_noise (s : State) (d : Nat) (x : Die) : (s.setDie d x).noise = s.noise := rfl
@[simp] theorem State.setDie_focus (s : State) (d : Nat) (x : Die) : (s.setDie d x).focus = s.focus := rfl
@[simp] theorem State.setDie_uid (s : State) (d : Nat) (x : Die) : (s.setDie d x).uid = s.uid := rfl
@[simp] theorem State.setDie_present (s : State) (d : Nat) (x : Die) : (s.setDie d x).present = s.present := rfl
@[simp] theorem State.setDie_mem (s : State) (d : Nat) (x : Die) : (s.setDie d x).mem = s.mem := rfl
@[simp] theorem State.setDie_cores (s : State) (d : Nat) (x : Die) : (s.setDie d x).cores = s.cores := rfl
@[simp] theorem State.setDie_coaches (s : State) (d : Nat) (x : Die) : (s.setDie d x).coaches = s.coaches := rfl
@[simp] theorem State.setDie_gangs (s : State) (d : Nat) (x : Die) : (s.setDie d x).gangs = s.gangs := rfl
@[simp] theorem State.setDie_links (s : State) (d : Nat) (x : Die) : (s.setDie d x).links = s.links := rfl
@[simp] theorem State.setDie_net (s : State) (d : Nat) (x : Die) : (s.setDie d x).net = s.net := rfl

@[simp] theorem State.setLink_cyc (s : State) (l : Nat) (x : Link) : (s.setLink l x).cyc = s.cyc := rfl
@[simp] theorem State.setLink_turn (s : State) (l : Nat) (x : Link) : (s.setLink l x).turn = s.turn := rfl
@[simp] theorem State.setLink_inbox (s : State) (l : Nat) (x : Link) : (s.setLink l x).inbox = s.inbox := rfl
@[simp] theorem State.setLink_delays (s : State) (l : Nat) (x : Link) : (s.setLink l x).delays = s.delays := rfl
@[simp] theorem State.setLink_noise (s : State) (l : Nat) (x : Link) : (s.setLink l x).noise = s.noise := rfl
@[simp] theorem State.setLink_focus (s : State) (l : Nat) (x : Link) : (s.setLink l x).focus = s.focus := rfl
@[simp] theorem State.setLink_uid (s : State) (l : Nat) (x : Link) : (s.setLink l x).uid = s.uid := rfl
@[simp] theorem State.setLink_present (s : State) (l : Nat) (x : Link) : (s.setLink l x).present = s.present := rfl
@[simp] theorem State.setLink_mem (s : State) (l : Nat) (x : Link) : (s.setLink l x).mem = s.mem := rfl
@[simp] theorem State.setLink_cores (s : State) (l : Nat) (x : Link) : (s.setLink l x).cores = s.cores := rfl
@[simp] theorem State.setLink_coaches (s : State) (l : Nat) (x : Link) : (s.setLink l x).coaches = s.coaches := rfl
@[simp] theorem State.setLink_gangs (s : State) (l : Nat) (x : Link) : (s.setLink l x).gangs = s.gangs := rfl
@[simp] theorem State.setLink_dies (s : State) (l : Nat) (x : Link) : (s.setLink l x).dies = s.dies := rfl
@[simp] theorem State.setLink_net (s : State) (l : Nat) (x : Link) : (s.setLink l x).net = s.net := rfl

/-! ## Reading a part after replacing one -/

theorem State.core_setCore (s : State) (c i : Nat) (x : Core) : (s.setCore c x).core i = if i = c then x else s.core i :=
  lookupD_putKey _ _ _ _ _
@[simp] theorem State.core_setCore_self (s : State) (c : Nat) (x : Core) : (s.setCore c x).core c = x := lookupD_putKey_self _ _ _ _
theorem State.core_setCore_other (s : State) (c i : Nat) (x : Core) (h : i ≠ c) : (s.setCore c x).core i = s.core i :=
  lookupD_putKey_other _ _ _ _ _ h
@[simp] theorem State.coach_setCore (s : State) (c i : Nat) (x : Core) : (s.setCore c x).coach i = s.coach i := rfl
@[simp] theorem State.gang_setCore (s : State) (c i : Nat) (x : Core) : (s.setCore c x).gang i = s.gang i := rfl
@[simp] theorem State.die_setCore (s : State) (c i : Nat) (x : Core) : (s.setCore c x).die i = s.die i := rfl
@[simp] theorem State.link_setCore (s : State) (c i : Nat) (x : Core) : (s.setCore c x).link i = s.link i := rfl
@[simp] theorem State.me_setCore (s : State) (c : Nat) (x : Core) : (s.setCore c x).me = s.me := rfl

@[simp] theorem State.core_setCoach (s : State) (k i : Nat) (x : Coach) : (s.setCoach k x).core i = s.core i := rfl
theorem State.coach_setCoach (s : State) (k i : Nat) (x : Coach) : (s.setCoach k x).coach i = if i = k then x else s.coach i :=
  lookupD_putKey _ _ _ _ _
@[simp] theorem State.coach_setCoach_self (s : State) (k : Nat) (x : Coach) : (s.setCoach k x).coach k = x := lookupD_putKey_self _ _ _ _
theorem State.coach_setCoach_other (s : State) (k i : Nat) (x : Coach) (h : i ≠ k) : (s.setCoach k x).coach i = s.coach i :=
  lookupD_putKey_other _ _ _ _ _ h
@[simp] theorem State.gang_setCoach (s : State) (k i : Nat) (x : Coach) : (s.setCoach k x).gang i = s.gang i := rfl
@[simp] theorem State.die_setCoach (s : State) (k i : Nat) (x : Coach) : (s.setCoach k x).die i = s.die i := rfl
@[simp] theorem State.link_setCoach (s : State) (k i : Nat) (x : Coach) : (s.setCoach k x).link i = s.link i := rfl
@[simp] theorem State.ctl_setCoach (s : State) (k i : Nat) (x : Coach) : (s.setCoach k x).ctl i = s.ctl i := rfl
@[simp] theorem State.eng_setCoach (s : State) (k i : Nat) (x : Coach) : (s.setCoach k x).eng i = s.eng i := rfl
@[simp] theorem State.dat_setCoach (s : State) (k i : Nat) (x : Coach) : (s.setCoach k x).dat i = s.dat i := rfl
@[simp] theorem State.me_setCoach (s : State) (k : Nat) (x : Coach) : (s.setCoach k x).me = s.me := rfl

@[simp] theorem State.core_setGang (s : State) (g i : Nat) (x : Gang) : (s.setGang g x).core i = s.core i := rfl
@[simp] theorem State.coach_setGang (s : State) (g i : Nat) (x : Gang) : (s.setGang g x).coach i = s.coach i := rfl
theorem State.gang_setGang (s : State) (g i : Nat) (x : Gang) : (s.setGang g x).gang i = if i = g then x else s.gang i :=
  lookupD_putKey _ _ _ _ _
@[simp] theorem State.gang_setGang_self (s : State) (g : Nat) (x : Gang) : (s.setGang g x).gang g = x := lookupD_putKey_self _ _ _ _
theorem State.gang_setGang_other (s : State) (g i : Nat) (x : Gang) (h : i ≠ g) : (s.setGang g x).gang i = s.gang i :=
  lookupD_putKey_other _ _ _ _ _ h
@[simp] theorem State.die_setGang (s : State) (g i : Nat) (x : Gang) : (s.setGang g x).die i = s.die i := rfl
@[simp] theorem State.link_setGang (s : State) (g i : Nat) (x : Gang) : (s.setGang g x).link i = s.link i := rfl
@[simp] theorem State.ctl_setGang (s : State) (g i : Nat) (x : Gang) : (s.setGang g x).ctl i = s.ctl i := rfl
@[simp] theorem State.eng_setGang (s : State) (g i : Nat) (x : Gang) : (s.setGang g x).eng i = s.eng i := rfl
@[simp] theorem State.dat_setGang (s : State) (g i : Nat) (x : Gang) : (s.setGang g x).dat i = s.dat i := rfl
@[simp] theorem State.me_setGang (s : State) (g : Nat) (x : Gang) : (s.setGang g x).me = s.me := rfl

@[simp] theorem State.core_setDie (s : State) (d i : Nat) (x : Die) : (s.setDie d x).core i = s.core i := rfl
@[simp] theorem State.coach_setDie (s : State) (d i : Nat) (x : Die) : (s.setDie d x).coach i = s.coach i := rfl
@[simp] theorem State.gang_setDie (s : State) (d i : Nat) (x : Die) : (s.setDie d x).gang i = s.gang i := rfl
theorem State.die_setDie (s : State) (d i : Nat) (x : Die) : (s.setDie d x).die i = if i = d then x else s.die i :=
  lookupD_putKey _ _ _ _ _
@[simp] theorem State.die_setDie_self (s : State) (d : Nat) (x : Die) : (s.setDie d x).die d = x := lookupD_putKey_self _ _ _ _
theorem State.die_setDie_other (s : State) (d i : Nat) (x : Die) (h : i ≠ d) : (s.setDie d x).die i = s.die i :=
  lookupD_putKey_other _ _ _ _ _ h
@[simp] theorem State.link_setDie (s : State) (d i : Nat) (x : Die) : (s.setDie d x).link i = s.link i := rfl
@[simp] theorem State.ctl_setDie (s : State) (d i : Nat) (x : Die) : (s.setDie d x).ctl i = s.ctl i := rfl
@[simp] theorem State.eng_setDie (s : State) (d i : Nat) (x : Die) : (s.setDie d x).eng i = s.eng i := rfl
@[simp] theorem State.dat_setDie (s : State) (d i : Nat) (x : Die) : (s.setDie d x).dat i = s.dat i := rfl
@[simp] theorem State.me_setDie (s : State) (d : Nat) (x : Die) : (s.setDie d x).me = s.me := rfl

@[simp] theorem State.core_setLink (s : State) (l i : Nat) (x : Link) : (s.setLink l x).core i = s.core i := rfl
@[simp] theorem State.coach_setLink (s : State) (l i : Nat) (x : Link) : (s.setLink l x).coach i = s.coach i := rfl
@[simp] theorem State.gang_setLink (s : State) (l i : Nat) (x : Link) : (s.setLink l x).gang i = s.gang i := rfl
@[simp] theorem State.die_setLink (s : State) (l i : Nat) (x : Link) : (s.setLink l x).die i = s.die i := rfl
theorem State.link_setLink (s : State) (l i : Nat) (x : Link) : (s.setLink l x).link i = if i = l then x else s.link i :=
  lookupD_putKey _ _ _ _ _
@[simp] theorem State.link_setLink_self (s : State) (l : Nat) (x : Link) : (s.setLink l x).link l = x := lookupD_putKey_self _ _ _ _
theorem State.link_setLink_other (s : State) (l i : Nat) (x : Link) (h : i ≠ l) : (s.setLink l x).link i = s.link i :=
  lookupD_putKey_other _ _ _ _ _ h
@[simp] theorem State.ctl_setLink (s : State) (l i : Nat) (x : Link) : (s.setLink l x).ctl i = s.ctl i := rfl
@[simp] theorem State.eng_setLink (s : State) (l i : Nat) (x : Link) : (s.setLink l x).eng i = s.eng i := rfl
@[simp] theorem State.dat_setLink (s : State) (l i : Nat) (x : Link) : (s.setLink l x).dat i = s.dat i := rfl
@[simp] theorem State.me_setLink (s : State) (l : Nat) (x : Link) : (s.setLink l x).me = s.me := rfl

/-! ## The three sides of a core -/

@[simp] theorem State.setCtl_cyc (s : State) (c : Nat) (x : Ctl) : (s.setCtl c x).cyc = s.cyc := rfl
@[simp] theorem State.setCtl_turn (s : State) (c : Nat) (x : Ctl) : (s.setCtl c x).turn = s.turn := rfl
@[simp] theorem State.setCtl_inbox (s : State) (c : Nat) (x : Ctl) : (s.setCtl c x).inbox = s.inbox := rfl
@[simp] theorem State.setCtl_delays (s : State) (c : Nat) (x : Ctl) : (s.setCtl c x).delays = s.delays := rfl
@[simp] theorem State.setCtl_noise (s : State) (c : Nat) (x : Ctl) : (s.setCtl c x).noise = s.noise := rfl
@[simp] theorem State.setCtl_focus (s : State) (c : Nat) (x : Ctl) : (s.setCtl c x).focus = s.focus := rfl
@[simp] theorem State.setCtl_uid (s : State) (c : Nat) (x : Ctl) : (s.setCtl c x).uid = s.uid := rfl
@[simp] theorem State.setCtl_present (s : State) (c : Nat) (x : Ctl) : (s.setCtl c x).present = s.present := rfl
@[simp] theorem State.setCtl_mem (s : State) (c : Nat) (x : Ctl) : (s.setCtl c x).mem = s.mem := rfl
@[simp] theorem State.setCtl_coaches (s : State) (c : Nat) (x : Ctl) : (s.setCtl c x).coaches = s.coaches := rfl
@[simp] theorem State.setCtl_gangs (s : State) (c : Nat) (x : Ctl) : (s.setCtl c x).gangs = s.gangs := rfl
@[simp] theorem State.setCtl_dies (s : State) (c : Nat) (x : Ctl) : (s.setCtl c x).dies = s.dies := rfl
@[simp] theorem State.setCtl_links (s : State) (c : Nat) (x : Ctl) : (s.setCtl c x).links = s.links := rfl
@[simp] theorem State.setCtl_net (s : State) (c : Nat) (x : Ctl) : (s.setCtl c x).net = s.net := rfl
@[simp] theorem State.coach_setCtl (s : State) (c i : Nat) (x : Ctl) : (s.setCtl c x).coach i = s.coach i := rfl
@[simp] theorem State.gang_setCtl (s : State) (c i : Nat) (x : Ctl) : (s.setCtl c x).gang i = s.gang i := rfl
@[simp] theorem State.die_setCtl (s : State) (c i : Nat) (x : Ctl) : (s.setCtl c x).die i = s.die i := rfl
@[simp] theorem State.link_setCtl (s : State) (c i : Nat) (x : Ctl) : (s.setCtl c x).link i = s.link i := rfl
@[simp] theorem State.me_setCtl (s : State) (c : Nat) (x : Ctl) : (s.setCtl c x).me = s.me := rfl
theorem State.core_setCtl (s : State) (c i : Nat) (x : Ctl) : (s.setCtl c x).core i = if i = c then { s.core c with ctl := x } else s.core i :=
  State.core_setCore s c i _
@[simp] theorem State.core_setCtl_self (s : State) (c : Nat) (x : Ctl) : (s.setCtl c x).core c = { s.core c with ctl := x } :=
  State.core_setCore_self s c _
theorem State.core_setCtl_other (s : State) (c i : Nat) (x : Ctl) (h : i ≠ c) : (s.setCtl c x).core i = s.core i :=
  State.core_setCore_other s c i _ h
@[simp] theorem State.ctl_setCtl_self (s : State) (c : Nat) (x : Ctl) : (s.setCtl c x).ctl c = x := by
  simp [State.ctl]
theorem State.ctl_setCtl_other (s : State) (c i : Nat) (x : Ctl) (h : i ≠ c) : (s.setCtl c x).ctl i = s.ctl i := by
  simp [State.ctl, State.core_setCtl_other s c i x h]
@[simp] theorem State.eng_setCtl (s : State) (c i : Nat) (x : Ctl) : (s.setCtl c x).eng i = s.eng i := by
  rw [State.eng, State.core_setCtl]; split <;> simp_all [State.eng]
@[simp] theorem State.dat_setCtl (s : State) (c i : Nat) (x : Ctl) : (s.setCtl c x).dat i = s.dat i := by
  rw [State.dat, State.core_setCtl]; split <;> simp_all [State.dat]

@[simp] theorem State.setEng_cyc (s : State) (c : Nat) (x : Eng) : (s.setEng c x).cyc = s.cyc := rfl
@[simp] theorem State.setEng_turn (s : State) (c : Nat) (x : Eng) : (s.setEng c x).turn = s.turn := rfl
@[simp] theorem State.setEng_inbox (s : State) (c : Nat) (x : Eng) : (s.setEng c x).inbox = s.inbox := rfl
@[simp] theorem State.setEng_delays (s : State) (c : Nat) (x : Eng) : (s.setEng c x).delays = s.delays := rfl
@[simp] theorem State.setEng_noise (s : State) (c : Nat) (x : Eng) : (s.setEng c x).noise = s.noise := rfl
@[simp] theorem State.setEng_focus (s : State) (c : Nat) (x : Eng) : (s.setEng c x).focus = s.focus := rfl
@[simp] theorem State.setEng_uid (s : State) (c : Nat) (x : Eng) : (s.setEng c x).uid = s.uid := rfl
@[simp] theorem State.setEng_present (s : State) (c : Nat) (x : Eng) : (s.setEng c x).present = s.present := rfl
@[simp] theorem State.setEng_mem (s : State) (c : Nat) (x : Eng) : (s.setEng c x).mem = s.mem := rfl
@[simp] theorem State.setEng_coaches (s : State) (c : Nat) (x : Eng) : (s.setEng c x).coaches = s.coaches := rfl
@[simp] theorem State.setEng_gangs (s : State) (c : Nat) (x : Eng) : (s.setEng c x).gangs = s.gangs := rfl
@[simp] theorem State.setEng_dies (s : State) (c : Nat) (x : Eng) : (s.setEng c x).dies = s.dies := rfl
@[simp] theorem State.setEng_links (s : State) (c : Nat) (x : Eng) : (s.setEng c x).links = s.links := rfl
@[simp] theorem State.setEng_net (s : State) (c : Nat) (x : Eng) : (s.setEng c x).net = s.net := rfl
@[simp] theorem State.coach_setEng (s : State) (c i : Nat) (x : Eng) : (s.setEng c x).coach i = s.coach i := rfl
@[simp] theorem State.gang_setEng (s : State) (c i : Nat) (x : Eng) : (s.setEng c x).gang i = s.gang i := rfl
@[simp] theorem State.die_setEng (s : State) (c i : Nat) (x : Eng) : (s.setEng c x).die i = s.die i := rfl
@[simp] theorem State.link_setEng (s : State) (c i : Nat) (x : Eng) : (s.setEng c x).link i = s.link i := rfl
@[simp] theorem State.me_setEng (s : State) (c : Nat) (x : Eng) : (s.setEng c x).me = s.me := rfl
theorem State.core_setEng (s : State) (c i : Nat) (x : Eng) : (s.setEng c x).core i = if i = c then { s.core c with eng := x } else s.core i :=
  State.core_setCore s c i _
@[simp] theorem State.core_setEng_self (s : State) (c : Nat) (x : Eng) : (s.setEng c x).core c = { s.core c with eng := x } :=
  State.core_setCore_self s c _
theorem State.core_setEng_other (s : State) (c i : Nat) (x : Eng) (h : i ≠ c) : (s.setEng c x).core i = s.core i :=
  State.core_setCore_other s c i _ h
@[simp] theorem State.ctl_setEng (s : State) (c i : Nat) (x : Eng) : (s.setEng c x).ctl i = s.ctl i := by
  rw [State.ctl, State.core_setEng]; split <;> simp_all [State.ctl]
@[simp] theorem State.eng_setEng_self (s : State) (c : Nat) (x : Eng) : (s.setEng c x).eng c = x := by
  simp [State.eng]
theorem State.eng_setEng_other (s : State) (c i : Nat) (x : Eng) (h : i ≠ c) : (s.setEng c x).eng i = s.eng i := by
  simp [State.eng, State.core_setEng_other s c i x h]
@[simp] theorem State.dat_setEng (s : State) (c i : Nat) (x : Eng) : (s.setEng c x).dat i = s.dat i := by
  rw [State.dat, State.core_setEng]; split <;> simp_all [State.dat]

@[simp] theorem State.setDat_cyc (s : State) (c : Nat) (x : Dat) : (s.setDat c x).cyc = s.cyc := rfl
@[simp] theorem State.setDat_turn (s : State) (c : Nat) (x : Dat) : (s.setDat c x).turn = s.turn := rfl
@[simp] theorem State.setDat_inbox (s : State) (c : Nat) (x : Dat) : (s.setDat c x).inbox = s.inbox := rfl
@[simp] theorem State.setDat_delays (s : State) (c : Nat) (x : Dat) : (s.setDat c x).delays = s.delays := rfl
@[simp] theorem State.setDat_noise (s : State) (c : Nat) (x : Dat) : (s.setDat c x).noise = s.noise := rfl
@[simp] theorem State.setDat_focus (s : State) (c : Nat) (x : Dat) : (s.setDat c x).focus = s.focus := rfl
@[simp] theorem State.setDat_uid (s : State) (c : Nat) (x : Dat) : (s.setDat c x).uid = s.uid := rfl
@[simp] theorem State.setDat_present (s : State) (c : Nat) (x : Dat) : (s.setDat c x).present = s.present := rfl
@[simp] theorem State.setDat_mem (s : State) (c : Nat) (x : Dat) : (s.setDat c x).mem = s.mem := rfl
@[simp] theorem State.setDat_coaches (s : State) (c : Nat) (x : Dat) : (s.setDat c x).coaches = s.coaches := rfl
@[simp] theorem State.setDat_gangs (s : State) (c : Nat) (x : Dat) : (s.setDat c x).gangs = s.gangs := rfl
@[simp] theorem State.setDat_dies (s : State) (c : Nat) (x : Dat) : (s.setDat c x).dies = s.dies := rfl
@[simp] theorem State.setDat_links (s : State) (c : Nat) (x : Dat) : (s.setDat c x).links = s.links := rfl
@[simp] theorem State.setDat_net (s : State) (c : Nat) (x : Dat) : (s.setDat c x).net = s.net := rfl
@[simp] theorem State.coach_setDat (s : State) (c i : Nat) (x : Dat) : (s.setDat c x).coach i = s.coach i := rfl
@[simp] theorem State.gang_setDat (s : State) (c i : Nat) (x : Dat) : (s.setDat c x).gang i = s.gang i := rfl
@[simp] theorem State.die_setDat (s : State) (c i : Nat) (x : Dat) : (s.setDat c x).die i = s.die i := rfl
@[simp] theorem State.link_setDat (s : State) (c i : Nat) (x : Dat) : (s.setDat c x).link i = s.link i := rfl
@[simp] theorem State.me_setDat (s : State) (c : Nat) (x : Dat) : (s.setDat c x).me = s.me := rfl
theorem State.core_setDat (s : State) (c i : Nat) (x : Dat) : (s.setDat c x).core i = if i = c then { s.core c with dat := x } else s.core i :=
  State.core_setCore s c i _
@[simp] theorem State.core_setDat_self (s : State) (c : Nat) (x : Dat) : (s.setDat c x).core c = { s.core c with dat := x } :=
  State.core_setCore_self s c _
theorem State.core_setDat_other (s : State) (c i : Nat) (x : Dat) (h : i ≠ c) : (s.setDat c x).core i = s.core i :=
  State.core_setCore_other s c i _ h
@[simp] theorem State.ctl_setDat (s : State) (c i : Nat) (x : Dat) : (s.setDat c x).ctl i = s.ctl i := by
  rw [State.ctl, State.core_setDat]; split <;> simp_all [State.ctl]
@[simp] theorem State.eng_setDat (s : State) (c i : Nat) (x : Dat) : (s.setDat c x).eng i = s.eng i := by
  rw [State.eng, State.core_setDat]; split <;> simp_all [State.eng]
@[simp] theorem State.dat_setDat_self (s : State) (c : Nat) (x : Dat) : (s.setDat c x).dat c = x := by
  simp [State.dat]
theorem State.dat_setDat_other (s : State) (c i : Nat) (x : Dat) (h : i ≠ c) : (s.setDat c x).dat i = s.dat i := by
  simp [State.dat, State.core_setDat_other s c i x h]

end Sys2Proof.Machine
end

