-- ==== Sys2Proof/Laws/Enqueue.lean ====
section
/-! SUPPORT. What an enqueue can do, once for every engine instruction: which fault it takes, and the entry it appends (R89, R90). -/

namespace Sys2Proof.Machine

/-! ## The checks of a grid operand and of the issue cycle -/

theorem allotOk_iff (n : Nat) (g : GridOp) : allotOk n g = true ↔ n = 64 ∨ (g.dir = .h ∧ g.idx.toNat < n) := by
  simp [allotOk]

theorem State.gridFault_inside {s : State} {gs : List GridOp} (h : Inside s gs) : s.gridFault gs = none := by
  have : gs.find? (fun g => !allotOk (s.galloc s.me) g) = none := by
    rw [List.find?_eq_none]
    intro g hg
    simp [(allotOk_iff _ _).2 (h g hg)]
  simp [State.gridFault, this]

theorem State.gridFault_first {s : State} {pre post : List GridOp} {g : GridOp} (h : Inside s pre) (hg : ¬ Inside s [g]) :
    s.gridFault (pre ++ g :: post) = some (.at127 0x30 g.bits.toNat) := by
  have h1 : pre.find? (fun g => !allotOk (s.galloc s.me) g) = none := by
    rw [List.find?_eq_none]
    intro g hg
    simp [(allotOk_iff _ _).2 (h g hg)]
  have h2 : allotOk (s.galloc s.me) g = false := by
    rw [← Bool.not_eq_true, allotOk_iff]
    simpa [Inside] using hg
  simp [State.gridFault, List.find?_append, h1, h2]

theorem State.orderOk_iff {s : State} {q : Queue} {n : Nat} : s.orderOk s.me q n = true ↔ InOrder s q n := by
  simp only [State.orderOk, InOrder]
  cases h : lookup? (s.eng s.me).lastN q.tag <;> simp

/-! ## The five outcomes of an enqueue -/

section
variable {s : State} {q : Queue} {ins : Instr} {k : Option Cont} {gs : List GridOp} {capture : Except Flt (List Word × State)}
  {operand : List Word → Except Flt Fields} {aw : Option Nat}

theorem State.enqueue_outside {pre post : List GridOp} {g : GridOp} (h : Inside s pre) (hg : ¬ Inside s [g]) :
    s.enqueue q ins k (pre ++ g :: post) capture operand aw = s.raise s.me 0x30 (s.place ||| mkFld 0 48 g.bits.toNat) := by
  simp [State.enqueue, State.gridFault_first h hg, State.take, State.faultAt]

theorem State.enqueue_order (h : Inside s gs) (hq : q.timed = true) (ho : ¬ InOrder s q (nominalOf s q k)) :
    s.enqueue q ins k gs capture operand aw = s.raise s.me 0x10 s.place52 := by
  have h1 : s.orderOk s.me q (s.nominal s.me q k) = false := by
    rw [← Bool.not_eq_true, State.orderOk_iff]
    simpa [nominalOf, hq] using ho
  simp [State.enqueue, State.gridFault_inside h, hq, h1, State.take, State.fault52]

theorem State.enqueue_placed (h : Inside s gs) (ho : q.timed = true → InOrder s q (nominalOf s q k)) :
    s.enqueue q ins k gs capture operand aw =
      match capture with
      | .error f => s.take f
      | .ok (cap, s1) =>
        match operand cap with
        | .error f => s.take f
        | .ok fs =>
          match aw with
          | some a => (s1.append q ins (nominalOf s q k) { fs with cap := cap }).awReg s1.me a
          | none => s1.append q ins (nominalOf s q k) { fs with cap := cap } := by
  have h1 : (q.timed && !s.orderOk s.me q (nominalOf s q k)) = false := by
    cases hq : q.timed
    · rfl
    · simp [State.orderOk_iff.2 (ho hq)]
  simp only [State.enqueue, State.gridFault_inside h]
  change (if (q.timed && !s.orderOk s.me q (nominalOf s q k)) = true then _ else _) = _
  rw [h1]
  rcases capture with f | ⟨cap, s1⟩
  · rfl
  · cases operand cap with
    | error f => rfl
    | ok fs => cases aw <;> rfl

end

/-! ## The entry -/

theorem Queue.tag_injective {p q : Queue} (h : p.tag = q.tag) : p = q := by cases p <;> cases q <;> first | rfl | (simp [Queue.tag] at h)

theorem Eng.queue_setQueue_self (x : Eng) (q : Queue) (l : List Entry) (h : q ≠ .c) : (x.setQueue q l).queue q = l := by
  cases q <;> first | rfl | exact absurd rfl h

theorem Eng.queue_setQueue_other (x : Eng) (p q : Queue) (l : List Entry) (h : p ≠ q) : (x.setQueue q l).queue p = x.queue p := by
  cases p <;> cases q <;> first | rfl | exact absurd rfl h

theorem lookup?_dropKey_self {α : Type} (i : Nat) : ∀ l : List (Nat × α), lookup? (dropKey l i) i = none
  | [] => rfl
  | (k, v) :: t => by
    by_cases h : k = i
    · simp [dropKey, h, lookup?_dropKey_self i t]
    · simp [dropKey, h, lookup?, lookup?_dropKey_self i t]

theorem lookup?_dropKey_other {α : Type} (i j : Nat) (hj : j ≠ i) : ∀ l : List (Nat × α), lookup? (dropKey l i) j = lookup? l j
  | [] => rfl
  | (k, v) :: t => by
    by_cases h : k = i
    · simp [dropKey, h, lookup?, lookup?_dropKey_other i j hj t, Ne.symm hj]
    · simp [dropKey, h, lookup?, lookup?_dropKey_other i j hj t]

theorem lookup?_insertKey {α : Type} (i j : Nat) (x : α) : ∀ l : List (Nat × α), lookup? l i = none →
    lookup? (insertKey i x l) j = if j = i then some x else lookup? l j
  | [], _ => by simp [insertKey, lookup?, eq_comm]
  | (k, v) :: t, h => by
    by_cases hk : k = i
    · simp [lookup?, hk] at h
    · simp only [lookup?, hk, if_false] at h
      by_cases hlt : i < k
      · simp [insertKey, hlt, lookup?, eq_comm]
      · simp only [insertKey, hlt, if_false, lookup?, lookup?_insertKey i j x t h]
        by_cases hj : k = j
        · simp [hj, show j ≠ i from fun e => hk (hj.trans e)]
        · simp [hj]

theorem lookup?_putKey {α : Type} (l : List (Nat × α)) (i j : Nat) (x : α) :
    lookup? (putKey l i x) j = if j = i then some x else lookup? l j := by
  rw [putKey, lookup?_insertKey _ _ _ _ (lookup?_dropKey_self i l)]
  split
  · rfl
  · next h => exact lookup?_dropKey_other i j h l

/-- An append, on a state that differs from s in the data side, the deferred writes and the durations read, joins the entry to s. -/
theorem State.append_joins {s s1 : State} {q : Queue} {i : Instr} {n : Nat} {fs : Fields} {d : Dat} {df : List (Nat × Word)}
    {dl : List Nat} (hq : q ≠ .c) (h1 : s1 = { s with cores := s1.cores, delays := dl })
    (hc : s1.core s.me = ⟨{ s.ctl s.me with defer := df }, s.eng s.me, d⟩)
    (ho : ∀ j, j ≠ s.me → s1.core j = s.core j) :
    Joins i s (s1.append q i n fs) q n fs d df dl none := by
  have me1 : s1.me = s.me := by rw [h1]; rfl
  have eng1 : s1.eng s.me = s.eng s.me := by simp [State.eng, hc]
  have ctl1 : s1.ctl s.me = { s.ctl s.me with defer := df } := by simp [State.ctl, hc]
  have dat1 : (s1.core s.me).dat = d := by simp [hc]
  have uid1 : s1.uid = s.uid := by rw [h1]
  have m1 : s1.mapNow s.me = s.mapNow s.me := by simp [State.mapNow, ctl1]
  have v1 : s1.verNow s.me = s.verNow s.me := by
    have : s1.coach (coachOf s.me) = s.coach (coachOf s.me) := by rw [h1]; rfl
    simp [State.verNow, ctl1, this]
  have c1 : s1.cyc = s.cyc := by rw [h1]
  have p1 : s1.place = s.place := by rw [h1]; rfl
  have sq : ∀ l, ((s.eng s.me).setQueue q l).run = (s.eng s.me).run ∧ ((s.eng s.me).setQueue q l).ops = (s.eng s.me).ops ∧
      ((s.eng s.me).setQueue q l).sigs = (s.eng s.me).sigs ∧ ((s.eng s.me).setQueue q l).shr = (s.eng s.me).shr ∧
      ((s.eng s.me).setQueue q l).lastN = (s.eng s.me).lastN ∧ ((s.eng s.me).setQueue q l).seqs = (s.eng s.me).seqs := by
    intro l; cases q <;> exact ⟨rfl, rfl, rfl, rfl, rfl, rfl⟩
  have qq : ∀ (x : Eng) (a : Tab Nat) (b : Tab Nat) p, ({ x with seqs := a, lastN := b } : Eng).queue p = x.queue p := by
    intro x a b p; cases p <;> rfl
  have et : ∀ (x : Eng) (u : Nat), ({ s1.setEng s.me x with uid := u } : State).eng s.me = x := by
    intro x u; simp [State.eng, State.core, State.setEng, State.setCore]
  unfold State.append
  simp only [me1, eng1, uid1, m1, v1, c1, p1]
  let e : Entry :=
    { ins := i, id := s.uid, seq := lookupD 0 (s.eng s.me).seqs q.tag, n := n, disp := s.cyc, map := s.mapNow s.me, ver := s.verNow s.me
      v0 := fs.v0, v1 := fs.v1, v2 := fs.v2, v3 := fs.v3, cap := fs.cap, place := s.place, rem := fs.rem, p0 := 0, zr := fs.zr
      part := false, cut := false }
  refine ⟨⟨e, ?_, rfl, rfl, rfl, rfl, rfl, rfl, rfl, rfl, rfl, rfl, rfl, rfl, rfl, rfl, rfl, rfl, rfl⟩,
    ?_, ?_, ?_, ?_, ?_, ?_, ?_, ?_, ?_, ⟨?_, ?_⟩, ?_, ?_, ?_⟩
  · rw [et]; exact (qq _ _ _ q).trans (Eng.queue_setQueue_self _ _ _ hq)
  · intro p hp; rw [et]; exact (qq _ _ _ p).trans (Eng.queue_setQueue_other _ _ _ _ hp)
  · intro p
    rw [et, (sq _).2.2.2.2.1]
    cases q.timed <;> simp [lookup?_putKey]
  · rw [et]; exact (sq _).1
  · rw [et]; exact (sq _).2.1
  · rw [et]; exact (sq _).2.2.1
  · rw [et]; exact (sq _).2.2.2.1
  · simpa [State.dat, State.core, State.setEng, State.setCore] using dat1
  · have : ∀ (x : Eng) (u : Nat), ({ s1.setEng s.me x with uid := u } : State).ctl s.me = s1.ctl s.me := by
      intro x u; simp [State.ctl, State.core, State.setEng, State.setCore]
    rw [this, ctl1]
  · intro r
    have := congrArg Ctl.sr ctl1
    simp only [State.ctl, State.core, State.setEng, State.setCore, lookupD_putKey_self] at this ⊢
    simp [this]
  · rw [h1]; rfl
  · intro j hj
    rw [← ho j hj]
    simp only [State.core, State.setEng, State.setCore]
    exact lookupD_putKey_other _ _ _ _ _ hj
  · rfl
  · rw [h1]; rfl
  · intro k; rw [h1]; rfl

/-- Registering on an arrival word after that. -/
theorem Joins.awReg {i : Instr} {s t : State} {q : Queue} {n : Nat} {fs : Fields} {d : Dat} {df : List (Nat × Word)}
    {dl : List Nat} (a : Nat) (h : Joins i s t q n fs d df dl none) : Joins i s (t.awReg s.me a) q n fs d df dl (some a) := by
  obtain ⟨e, h1, h2, h3, h4, h5, h6, h7, h8, h9, ⟨ha, hb⟩, hc, hd, he⟩ := h
  refine ⟨?_, ?_, ?_, ?_, ?_, ?_, ?_, ?_, ?_, ?_, ⟨?_, ?_⟩, ?_, ?_, ?_⟩
  · simpa [State.awReg] using e
  · simpa [State.awReg] using h1
  · simpa [State.awReg] using h2
  · simpa [State.awReg] using h3
  · simpa [State.awReg] using h4
  · simpa [State.awReg] using h5
  · simpa [State.awReg] using h6
  · simpa [State.awReg] using h7
  · have h : ∀ c : Ctl, c = { s.ctl s.me with sr := c.sr, defer := df } → ∀ y,
        c.setSr (0x080 + a) y = { s.ctl s.me with sr := (c.setSr (0x080 + a) y).sr, defer := df } :=
      fun _ hc y => congrArg (fun x : Ctl => x.setSr (0x080 + a) y) hc
    simpa [State.awReg] using h _ h8 _
  · intro r
    have := h9 r
    simp at this
    by_cases hr : r = 0x080 + a
    · subst hr; simp [State.awReg, Ctl.setSr, this]
    · simp [State.awReg, Ctl.setSr, Bits.get_put_other _ _ _ _ hr, hr, this]
  · simp only [State.mk.injEq] at ha ⊢
    simpa [State.awReg, State.setCtl, State.setCore] using ha
  · intro j hj
    exact (State.core_setCore_other _ _ _ _ hj).trans (hb j hj)
  · simpa [State.awReg] using hc
  · simpa [State.awReg] using hd
  · intro k; simpa [State.awReg] using he k

theorem takesFlt_of {i : Instr} {s : State} {f : Flt} (h : exec i s = .next (s.take f)) : TakesFlt i s f := by
  cases f <;> exact h

/-- The whole of an enqueue (R89): `chk` is what capture and operand come to. -/
theorem EnqueuesWith.of {i : Instr} {s : State} {q : Queue} {k : Option Cont} {gs : List GridOp} {chk : Option Flt} {fs : Fields}
    {d : Dat} {aw : Option Nat} {capture : Except Flt (List Word × State)} {operand : List Word → Except Flt Fields} (hq : q ≠ .c)
    (hx : s.focus.cur = none → exec i s = .next (s.enqueue q i k gs capture operand aw))
    (hf : ∀ f, chk = some f → capture = .error f ∨ ∃ cap s1, capture = .ok (cap, s1) ∧ operand cap = .error f)
    (hn : chk = none → ∃ s1 f1, capture = .ok (fs.cap, s1) ∧ operand fs.cap = .ok f1 ∧ { f1 with cap := fs.cap } = fs ∧
      s1 = { s with cores := s1.cores } ∧ s1.core s.me = ⟨s.ctl s.me, s.eng s.me, d⟩ ∧ ∀ j, j ≠ s.me → s1.core j = s.core j) :
    EnqueuesWith i s q k gs chk fs d aw := by
  intro hc
  have hx := hx hc
  refine ⟨?_, ?_, ?_⟩
  · intro pre g post hg hp ho
    rw [TakesFault, hx]; subst hg
    rw [State.enqueue_outside hp ho]
  · intro hi hq ho
    rw [TakesFault, hx, State.enqueue_order hi hq ho]
  · intro hi ho
    rw [State.enqueue_placed hi ho] at hx
    cases chk with
    | some f =>
      refine takesFlt_of ?_
      rcases hf f rfl with h | ⟨cap, s1, h1, h2⟩
      · simpa [h] using hx
      · simpa [h1, h2] using hx
    | none =>
      obtain ⟨s1, f1, h1, h2, h3, h4, h5, h6⟩ := hn rfl
      simp only [h1, h2, h3] at hx
      refine ⟨_, hx, ?_⟩
      have j := State.append_joins (s := s) (s1 := s1) (q := q) (i := i) (n := nominalOf s q k) (fs := fs) hq
        (d := d) (df := (s.ctl s.me).defer) (dl := s.delays) (by rw [h4]) h5 h6
      have me1 : s1.me = s.me := by rw [h4]; rfl
      cases aw with
      | none => exact j
      | some a => simp only [me1]; exact j.awReg a

/-- The whole of an enqueue that leaves the data side alone. -/
theorem EnqueuesChecked.of {i : Instr} {s : State} {q : Queue} {k : Option Cont} {gs : List GridOp} {cap : List Word}
    {operand : List Word → Except Flt Fields} {aw : Option Nat} {chk : Option Flt} {fs : Fields} (hq : q ≠ .c)
    (hx : s.focus.cur = none → exec i s = .next (s.enqueue q i k gs (.ok (cap, s)) operand aw))
    (hf : ∀ f, chk = some f → operand cap = .error f) (hn : chk = none → operand cap = .ok fs) :
    EnqueuesChecked i s q k gs chk { fs with cap := cap } aw :=
  EnqueuesWith.of hq hx (fun f h => .inr ⟨cap, s, rfl, hf f h⟩)
    fun h => ⟨s, fs, rfl, hn h, rfl, rfl, rfl, fun _ _ => rfl⟩

/-- The whole of an enqueue without a checked operand. -/
theorem Enqueues.of {i : Instr} {s : State} {q : Queue} {k : Option Cont} {gs : List GridOp} {cap : List Word}
    {operand : List Word → Except Flt Fields} {aw : Option Nat} {fs : Fields} (hq : q ≠ .c)
    (hx : s.focus.cur = none → exec i s = .next (s.enqueue q i k gs (.ok (cap, s)) operand aw))
    (hn : operand cap = .ok fs) : Enqueues i s q k gs { fs with cap := cap } aw :=
  EnqueuesChecked.of hq hx (fun _ h => nomatch h) fun _ => hn

end Sys2Proof.Machine
end

