-- ==== Sys2Proof/Laws/Results.lean ====
section
/-! SUPPORT. Pending results (R87): what a result leaves of the machine, which lines see it, and that the settling of results touches the registers and the list of pending results only. -/

namespace Sys2Proof.Machine

/-! ## A result -/

/-- A result of latency `lat` changes the list of pending results of its core and nothing else. -/
theorem State.result_eq (s : State) (r : Reg) (lat : Nat) (v : Word) :
    s.result r lat v = s.setCtl s.me ((s.ctl s.me).result r lat v none) := rfl

theorem Ctl.result_zero (c : Ctl) (lat : Nat) (v : Word) (w : Option Nat) : c.result 0 lat v w = c := if_pos rfl

/-- Outside s24 to s31 the shadow a result names does not matter. -/
@[simp] theorem regKey_shadow (sh : Bool) (r : Nat) : regKey (sh && decide (24 ≤ r)) r = regKey sh r := by
  unfold regKey; by_cases h : 24 ≤ r <;> simp [h]

theorem Ctl.result_of_ne (c : Ctl) (r : Reg) (lat : Nat) (v : Word) (w : Option Nat) (h : r ≠ 0) :
    c.result r lat v w =
      { c with pend := c.pend ++ [{ reg := r.toNat, sh := c.inHandler && decide (24 ≤ r.toNat), hnd := c.inHandler, left := lat, val := v, wait := w }] } :=
  if_neg h

@[simp] theorem Ctl.result_regs (c : Ctl) (r : Reg) (lat : Nat) (v : Word) (w : Option Nat) : (c.result r lat v w).regs = c.regs := by
  unfold Ctl.result; split <;> rfl

@[simp] theorem Ctl.result_sr (c : Ctl) (r : Reg) (lat : Nat) (v : Word) (w : Option Nat) : (c.result r lat v w).sr = c.sr := by
  unfold Ctl.result; split <;> rfl

@[simp] theorem Ctl.result_inHandler (c : Ctl) (r : Reg) (lat : Nat) (v : Word) (w : Option Nat) :
    (c.result r lat v w).inHandler = c.inHandler := by
  unfold Ctl.inHandler; rw [Ctl.result_sr]

/-- A result leaves the control side of its core as it was, but for its pending results. -/
theorem Ctl.result_frame (c : Ctl) (r : Reg) (lat : Nat) (v : Word) (w : Option Nat) :
    c.result r lat v w = { c with pend := (c.result r lat v w).pend } := by
  unfold Ctl.result; split <;> rfl

/-! ## Settling -/

/-- When a pending result becomes visible now: its lines have passed, its value is there, and the handler does not run or has given it. -/
theorem Ctl.landsNow_iff (c : Ctl) (p : Pend) :
    c.landsNow p = true ↔ p.left = 0 ∧ p.wait = none ∧ (p.hnd = true ∨ c.inHandler = false) := by
  simp [Ctl.landsNow, and_assoc]

/-- A result whose lines have not passed does not become visible. -/
theorem Ctl.landsNow_left (c : Ctl) (p : Pend) (h : p.left ≠ 0) : c.landsNow p = false := by simp [Ctl.landsNow, h]

@[simp] theorem Ctl.landsNow_land (c : Ctl) (q p : Pend) : (c.land q).landsNow p = c.landsNow p := rfl

@[simp] theorem Ctl.landsNow_pend (c : Ctl) (l : List Pend) (p : Pend) : ({ c with pend := l } : Ctl).landsNow p = c.landsNow p := rfl

/-- Settling touches the registers and the list of pending results only. -/
theorem settleFrom_frame : ∀ (l : List Pend) (c : Ctl) (keep : List Pend),
    settleFrom c keep l = { c with regs := (settleFrom c keep l).regs, pend := (settleFrom c keep l).pend }
  | [], _, _ => rfl
  | p :: rest, c, keep => by
    unfold settleFrom
    split
    · rw [settleFrom_frame rest (c.land p)]; rfl
    · rw [settleFrom_frame rest c]

/-- Settling a list whose last result is due leaves that result's value in its register. -/
theorem settleFrom_last (p : Pend) : ∀ (l : List Pend) (c : Ctl) (keep : List Pend), c.landsNow p = true →
    (settleFrom c keep (l ++ [p])).regs.get (regKey p.sh p.reg) = p.val
  | [], c, keep, h => by simp [settleFrom, h, Ctl.land]
  | q :: rest, c, keep, h => by
    simp only [List.cons_append, settleFrom]
    split
    · exact settleFrom_last p rest _ _ h
    · exact settleFrom_last p rest _ _ h

/-- Settling leaves a register alone to which no result of the list is due. -/
theorem settleFrom_other (k : Nat) : ∀ (l : List Pend) (c : Ctl) (keep : List Pend),
    (∀ p ∈ l, c.landsNow p = true → regKey p.sh p.reg ≠ k) → (settleFrom c keep l).regs.get k = c.regs.get k
  | [], _, _, _ => rfl
  | p :: rest, c, keep, h => by
    unfold settleFrom
    split
    · next hp =>
      rw [settleFrom_other k rest (c.land p) _ fun q hq => h q (by simp [hq])]
      exact Bits.get_put_other _ _ _ _ fun e => h p (by simp) hp e.symm
    · exact settleFrom_other k rest _ _ fun q hq => h q (by simp [hq])

/-- Every result that stays pending after settling was pending before. -/
theorem settleFrom_pend : ∀ (l : List Pend) (c : Ctl) (keep : List Pend) (p : Pend),
    p ∈ (settleFrom c keep l).pend → p ∈ keep ∨ (p ∈ l ∧ ¬c.landsNow p = true)
  | [], _, _, p, h => .inl h
  | q :: rest, c, keep, p, h => by
    unfold settleFrom at h
    split at h
    · rcases settleFrom_pend rest _ _ p h with h | h
      · exact .inl (List.mem_of_mem_filter h)
      · exact .inr ⟨by simp [h.1], h.2⟩
    · next hq =>
      rcases settleFrom_pend rest _ _ p h with h | h
      · rcases List.mem_append.1 h with h | h
        · exact .inl h
        · simp only [List.mem_singleton] at h; subst h; exact .inr ⟨by simp, hq⟩
      · exact .inr ⟨by simp [h.1], h.2⟩

/-- A pending result whose lines have not passed, and that no result to its register follows, stays the last one of the list. -/
theorem settleFrom_keep (p : Pend) (hp : p.left ≠ 0) : ∀ (l : List Pend) (c : Ctl) (keep : List Pend),
    ∃ l', (settleFrom c keep (l ++ [p])).pend = l' ++ [p]
  | [], c, keep => ⟨keep, by simp [settleFrom, Ctl.landsNow_left c p hp]⟩
  | q :: rest, c, keep => by
    simp only [List.cons_append, settleFrom]
    split
    · exact settleFrom_keep p hp rest _ _
    · exact settleFrom_keep p hp rest _ _

/-! ## Lines -/

theorem Ctl.countLine_frame (c : Ctl) (hnd : Bool) :
    c.countLine hnd = { c with regs := (c.countLine hnd).regs, pend := (c.countLine hnd).pend } := by
  unfold Ctl.countLine Ctl.settle
  rw [settleFrom_frame]

@[simp] theorem Ctl.countLine_sr (c : Ctl) (hnd : Bool) : (c.countLine hnd).sr = c.sr := by
  rw [Ctl.countLine_frame]

@[simp] theorem Ctl.countLine_inHandler (c : Ctl) (hnd : Bool) : (c.countLine hnd).inHandler = c.inHandler := by
  unfold Ctl.inHandler; rw [Ctl.countLine_sr]

@[simp] theorem Ctl.afterLines_inHandler (hnd : Bool) : ∀ (n : Nat) (c : Ctl), (c.afterLines hnd n).inHandler = c.inHandler
  | 0, _ => rfl
  | n + 1, c => by rw [Ctl.afterLines, Ctl.afterLines_inHandler hnd n, Ctl.countLine_inHandler]

/-- The last pending result is visible once as many lines of its stream have dispatched as it has left, the stream being the one that runs. -/
theorem Ctl.afterLines_last : ∀ (n : Nat) (c : Ctl) (l : List Pend) (p : Pend), c.pend = l ++ [p] →
    p.wait = none → p.hnd = c.inHandler → p.left = n + 1 → (c.afterLines p.hnd (n + 1)).regs.get (regKey p.sh p.reg) = p.val
  | 0, c, l, p, hc, hw, hh, hn => by
    simp only [Ctl.afterLines, Ctl.countLine, Ctl.settle, hc, List.map_append, List.map_cons, List.map_nil, beq_self_eq_true, if_true]
    refine settleFrom_last { p with left := p.left - 1 } _ _ _ ?_
    rw [Ctl.landsNow_pend, Ctl.landsNow_iff]
    refine ⟨by simp [hn], hw, ?_⟩
    rw [← hh]; cases p.hnd <;> simp
  | n + 1, c, l, p, hc, hw, hh, hn => by
    rw [Ctl.afterLines]
    have hk : ∃ l', (c.countLine p.hnd).pend = l' ++ [{ p with left := n + 1 }] := by
      simp only [Ctl.countLine, Ctl.settle, hc, List.map_append, List.map_cons, List.map_nil, beq_self_eq_true, if_true, hn]
      exact settleFrom_keep { p with left := n + 1 + 1 - 1 } (by simp) _ _ _
    obtain ⟨l', hl'⟩ := hk
    exact Ctl.afterLines_last n _ l' { p with left := n + 1 } hl' hw (hh.trans (Ctl.countLine_inHandler c p.hnd).symm) rfl

/-- A register to which nothing is pending keeps its value over any number of lines. -/
theorem Ctl.afterLines_other (hnd : Bool) (k : Nat) : ∀ (n : Nat) (c : Ctl), (∀ p ∈ c.pend, regKey p.sh p.reg ≠ k) →
    (c.afterLines hnd n).regs.get k = c.regs.get k
  | 0, _, _ => rfl
  | n + 1, c, h => by
    have hm : ∀ p ∈ c.pend.map (fun p : Pend => if p.hnd == hnd then { p with left := p.left - 1 } else p), regKey p.sh p.reg ≠ k := by
      intro p hp
      obtain ⟨q, hq, rfl⟩ := List.mem_map.1 hp
      split <;> exact h q hq
    rw [Ctl.afterLines, Ctl.afterLines_other hnd k n]
    · exact settleFrom_other k _ _ _ fun p hp _ => hm p hp
    · intro p hp
      rcases settleFrom_pend _ _ _ p hp with h' | h'
      · cases h'
      · exact hm p h'.1

/-- A result of latency `n + 1` given to a core is what its register reads after that many lines of its stream, s0 aside. -/
theorem Ctl.result_seen (c : Ctl) (r : Reg) (n : Nat) (v : Word) (h : r ≠ 0) :
    ((c.result r (n + 1) v none).afterLines c.inHandler (n + 1)).reg r = v := by
  rw [Ctl.reg, if_neg h, Ctl.afterLines_inHandler, Ctl.result_inHandler]
  rw [Ctl.result_of_ne c r _ v none h]
  rw [← regKey_shadow]
  exact Ctl.afterLines_last n _ c.pend
    { reg := r.toNat, sh := c.inHandler && decide (24 ≤ r.toNat), hnd := c.inHandler, left := n + 1, val := v, wait := none } rfl rfl rfl rfl

/-! ## One result more -/

/-- Settling does not depend on the list of pending results it replaces. -/
theorem settleFrom_pend_irrel : ∀ (l : List Pend) (c : Ctl) (keep q : List Pend),
    settleFrom { c with pend := q } keep l = settleFrom c keep l
  | [], _, _, _ => rfl
  | p :: rest, c, keep, q => by
    rw [settleFrom, settleFrom, Ctl.landsNow_pend]
    by_cases hp : c.landsNow p = true
    · rw [if_pos hp, if_pos hp]; exact settleFrom_pend_irrel rest (c.land p) _ q
    · rw [if_neg hp, if_neg hp]; exact settleFrom_pend_irrel rest c _ q

/-- Settling one list after another. -/
theorem settleFrom_append (m : List Pend) : ∀ (l : List Pend) (c : Ctl) (keep : List Pend),
    settleFrom c keep (l ++ m) = settleFrom (settleFrom c keep l) (settleFrom c keep l).pend m
  | [], c, keep => (settleFrom_pend_irrel m c keep keep).symm
  | p :: rest, c, keep => by
    simp only [List.cons_append, settleFrom]
    split
    · exact settleFrom_append m rest _ _
    · exact settleFrom_append m rest _ _

/-- A line counted, as the settling of the results brought one line nearer. -/
theorem Ctl.countLine_eq (c : Ctl) (hnd : Bool) (q : List Pend) : ({ c with pend := q } : Ctl).countLine hnd =
    settleFrom c [] (q.map fun p => if p.hnd == hnd then { p with left := p.left - 1 } else p) := by
  unfold Ctl.countLine Ctl.settle
  exact settleFrom_pend_irrel _ c [] _

/-- A line counted with one pending result more that does not become visible. -/
theorem Ctl.countLine_more (c : Ctl) (p : Pend) (n : Nat) (hn : p.left = n + 2) :
    ({ c with pend := c.pend ++ [p] } : Ctl).countLine p.hnd =
      { c.countLine p.hnd with pend := (c.countLine p.hnd).pend ++ [{ p with left := n + 1 }] } := by
  rw [Ctl.countLine_eq, List.map_append, settleFrom_append, ← Ctl.countLine_eq]
  simp [settleFrom, Ctl.landsNow_left, hn]

/-- A line counted with one pending result more that becomes visible. -/
theorem Ctl.countLine_lands (c : Ctl) (p : Pend) (hn : p.left = 1) (hw : p.wait = none) (hh : p.hnd = c.inHandler) :
    (({ c with pend := c.pend ++ [p] } : Ctl).countLine p.hnd).regs = (c.countLine p.hnd).regs.put (regKey p.sh p.reg) p.val := by
  rw [Ctl.countLine_eq, List.map_append, settleFrom_append, ← Ctl.countLine_eq]
  have hl : (c.countLine p.hnd).landsNow { p with left := 0 } = true := by
    rw [Ctl.landsNow_iff, Ctl.countLine_inHandler, ← hh]
    exact ⟨rfl, hw, by cases p.hnd <;> simp⟩
  simp [settleFrom, hn, hl, Ctl.land]

theorem Ctl.afterLines_more : ∀ (n m : Nat) (c : Ctl) (p : Pend), p.left = n + m + 1 →
    ({ c with pend := c.pend ++ [p] } : Ctl).afterLines p.hnd n =
      { c.afterLines p.hnd n with pend := (c.afterLines p.hnd n).pend ++ [{ p with left := m + 1 }] }
  | 0, m, c, p, h => by
    obtain ⟨_, _, _, left, _, _⟩ := p
    simp only [Nat.zero_add] at h
    subst h; rfl
  | n + 1, m, c, p, h => by
    rw [Ctl.afterLines, Ctl.afterLines, Ctl.countLine_more c p (n + m) (by omega)]
    exact Ctl.afterLines_more n m (c.countLine p.hnd) { p with left := n + m + 1 } rfl

theorem Ctl.afterLines_succ (hnd : Bool) : ∀ (n : Nat) (c : Ctl), c.afterLines hnd (n + 1) = (c.afterLines hnd n).countLine hnd
  | 0, _ => rfl
  | n + 1, c => by rw [Ctl.afterLines, Ctl.afterLines_succ hnd n]; rfl

theorem regKey_inj (sh : Bool) (a b : Reg) (h : regKey sh a.toNat = regKey sh b.toNat) : a = b := by
  unfold regKey at h
  have ha := a.isLt
  have hb := b.isLt
  apply BitVec.eq_of_toNat_eq
  cases sh <;> simp at h
  · exact h
  · split at h <;> split at h <;> omega

/-- A result of a latency above 0 is seen after that many lines, and nothing else changes what registers read. -/
theorem Ctl.result_resultSeen (c : Ctl) (d : Reg) (n : Nat) (v : Word) :
    ResultSeen c (c.result d (n + 1) v none) d (n + 1) v := by
  by_cases hd : d = 0
  · subst hd
    rw [Ctl.result_zero]
    exact ⟨fun _ _ _ => rfl, fun r => by simp⟩
  · rw [Ctl.result_of_ne c d _ v none hd]
    set p : Pend := { reg := d.toNat, sh := c.inHandler && decide (24 ≤ d.toNat), hnd := c.inHandler, left := n + 1, val := v, wait := none } with hp
    refine ⟨fun k r hk => ?_, fun r => ?_⟩
    · obtain ⟨m, hm⟩ : ∃ m, n = k + m := ⟨n - k, by omega⟩
      have := Ctl.afterLines_more k m c p (by simp [hp, hm])
      rw [show c.inHandler = p.hnd from rfl, this]
      rfl
    · have h1 := Ctl.afterLines_more n 0 c p (by simp [hp])
      have h2 : (({ c with pend := c.pend ++ [p] } : Ctl).afterLines p.hnd (n + 1)).regs =
          (c.afterLines p.hnd (n + 1)).regs.put (regKey p.sh p.reg) p.val := by
        rw [Ctl.afterLines_succ, Ctl.afterLines_succ, h1]
        exact Ctl.countLine_lands (c.afterLines p.hnd n) { p with left := 0 + 1 } rfl rfl (Ctl.afterLines_inHandler p.hnd n c).symm
      rw [show c.inHandler = p.hnd from rfl]
      unfold Ctl.reg
      rw [h2, show regKey p.sh p.reg = regKey c.inHandler d.toNat from regKey_shadow _ _, Ctl.afterLines_inHandler, Ctl.afterLines_inHandler,
        show ({ c with pend := c.pend ++ [p] } : Ctl).inHandler = c.inHandler from rfl]
      by_cases hr0 : r = 0
      · rw [if_pos hr0, if_pos hr0, if_neg fun h => h.2 (h.1.symm.trans hr0)]
      · rw [if_neg hr0, if_neg hr0]
        by_cases hrd : r = d
        · subst hrd; rw [if_pos ⟨rfl, hd⟩]; exact Bits.get_put_self _ _ _
        · rw [if_neg (fun h => hrd h.1)]
          exact Bits.get_put_other _ _ _ _ fun e => hrd (regKey_inj c.inHandler r d e)

/-- What a result given to the core of the instruction does to the machine. -/
theorem State.result_gives (i : Instr) (s : State) (d : Reg) (n : Nat) (v : Word) (h : exec i s = .next (s.result d (n + 1) v)) :
    GivesResult i s d (n + 1) v := by
  refine ⟨_, h, ⟨⟨⟨rfl, fun j hj => ?_⟩, ?_⟩, ?_, fun _ => rfl⟩, ?_⟩
  · exact State.core_setCtl_other _ _ _ _ hj
  · rw [State.result_eq, State.core_setCtl_self, State.ctl_setCtl_self]
  · rw [State.result_eq, State.ctl_setCtl_self]; exact Ctl.result_frame _ _ _ _ _
  · rw [State.result_eq, State.ctl_setCtl_self]; exact Ctl.result_resultSeen _ _ _ _

end Sys2Proof.Machine
end

