-- ==== Sys2Proof/Laws/Units.lean ====
section
/-! SUPPORT. What moving one unit of 64 bytes of a transfer does (R146), and what the marks that a die keeps for it leave (R321, R360): one lemma for each field that it leaves, and one for what it changes. -/

namespace Sys2Proof.Machine

/-! ## Slots and messages -/

/-- Taking a slot changes the slots alone (R146). -/
theorem State.takeSlot_eq (s : State) (dyn : Bool) (l : Loc) (n : Nat) :
    s.takeSlot dyn l n = { s with slots := (s.takeSlot dyn l n).slots } := by
  cases l <;> rfl

@[simp] theorem State.takeSlot_mem (s : State) (dyn : Bool) (l : Loc) (n : Nat) : (s.takeSlot dyn l n).mem = s.mem := by
  rw [State.takeSlot_eq]
@[simp] theorem State.takeSlot_cores (s : State) (dyn : Bool) (l : Loc) (n : Nat) : (s.takeSlot dyn l n).cores = s.cores := by
  rw [State.takeSlot_eq]
@[simp] theorem State.takeSlot_coaches (s : State) (dyn : Bool) (l : Loc) (n : Nat) : (s.takeSlot dyn l n).coaches = s.coaches := by
  rw [State.takeSlot_eq]
@[simp] theorem State.takeSlot_net (s : State) (dyn : Bool) (l : Loc) (n : Nat) : (s.takeSlot dyn l n).net = s.net := by
  rw [State.takeSlot_eq]

/-- Taking the slot for a unit of a result changes the slots alone (R146). -/
theorem State.takeCells_eq (s : State) (cells : List Host.Cell) : s.takeCells cells = { s with slots := (s.takeCells cells).slots } := by
  unfold State.takeCells
  split
  · exact s.takeSlot_eq true _ 1
  · rfl

/-- A unit is no longer than 64 bytes. -/
theorem Msg.unit_le (m : Msg) : m.unit ≤ 64 := Nat.min_le_left _ _

@[simp] theorem Msg.moved_got (m : Msg) (bs : List Byte) : (m.moved bs).got = m.got ++ bs := rfl
@[simp] theorem Msg.moved_size (m : Msg) (bs : List Byte) : (m.moved bs).size = m.size := rfl
@[simp] theorem Msg.moved_loc (m : Msg) (bs : List Byte) : (m.moved bs).loc = m.loc := rfl
@[simp] theorem Msg.moved_kind (m : Msg) (bs : List Byte) : (m.moved bs).kind = m.kind := rfl
@[simp] theorem Msg.moved_nums (m : Msg) (bs : List Byte) : (m.moved bs).nums = m.nums := rfl

/-- Moving a unit changes the slots, and how much the message has moved (R146). -/
theorem State.moveUnit_eq (s : State) (n : Nat) (m : Msg) (old : List Byte) :
    s.moveUnit n m old = { s with slots := (s.takeSlot true m.place 1).slots, net := putKey s.net n (m.moved old) } := by
  simp only [State.moveUnit, State.takeSlot_net]
  rw [State.takeSlot_eq]

/-! ## Units of results -/

/-- A unit of a result goes no further than the next multiple of 64 (R146). -/
theorem Op.unit_length (o : Op) (cells : List Host.Cell) : (o.unit cells).length ≤ 64 :=
  Nat.le_trans (List.length_take_le _ _) (Nat.sub_le _ _)

/-- The unit that an operation comes to is the rest of its result, when it is the last one. -/
theorem Op.unit_last {o : Op} {cells : List Host.Cell} (h : o.lastUnit cells = true) : o.unit cells = cells.drop o.pos := by
  simp only [Op.lastUnit, decide_eq_true_eq] at h
  exact List.take_of_length_le (by rw [List.length_drop]; omega)

/-- Coming to the next unit changes one core alone. -/
theorem State.nextUnit_other {core c : Nat} (s : State) (o : Op) (n : Nat) (h : c ≠ core) : (s.nextUnit core o n).core c = s.core c :=
  State.core_setEng_other s core c _ h

/-! ## Marks of a die -/

@[simp] theorem State.unhold_mem (s : State) (die n : Nat) : (s.unhold die n).mem = s.mem := rfl
@[simp] theorem State.unhold_net (s : State) (die n : Nat) : (s.unhold die n).net = s.net := rfl
@[simp] theorem State.unhold_cores (s : State) (die n : Nat) : (s.unhold die n).cores = s.cores := rfl
@[simp] theorem State.unhold_coaches (s : State) (die n : Nat) : (s.unhold die n).coaches = s.coaches := rfl
@[simp] theorem State.noteAnswer_mem (s : State) (die : Nat) : (s.noteAnswer die).mem = s.mem := rfl
@[simp] theorem State.noteAnswer_net (s : State) (die : Nat) : (s.noteAnswer die).net = s.net := rfl
@[simp] theorem State.noteAnswer_cores (s : State) (die : Nat) : (s.noteAnswer die).cores = s.cores := rfl
@[simp] theorem State.noteAnswer_coaches (s : State) (die : Nat) : (s.noteAnswer die).coaches = s.coaches := rfl
@[simp] theorem State.noteAnswer_gangs (s : State) (die : Nat) : (s.noteAnswer die).gangs = s.gangs := rfl

/-- A page that leaves its pool stands nowhere fast any more, and no core or coach changes (R189). -/
theorem State.leavePool_frame (s : State) (die tenant page : Nat) :
    (s.leavePool die tenant page).cores = s.cores ∧ (s.leavePool die tenant page).coaches = s.coaches ∧
    (s.leavePool die tenant page).gangs = s.gangs := by
  simp only [State.leavePool]
  split <;> exact ⟨rfl, rfl, rfl⟩

end Sys2Proof.Machine
end

