-- ==== Sys2Proof/Tests/Slice0.lean ====
section
/-! SUPPORT. Tests: ill-formed terms that the checks refuse, words of the spec decoded, single steps on small states, and for each statement with hypotheses a witness that meets them. -/

namespace Sys2Proof.Tests
open Machine

set_option Elab.async false

/-! ## Ill-formed terms, one for each kind of check (R51 to R65 and each entry) -/

/-- A plain timed continuation. -/
def k0 : Cont := ⟨0, false, false, false, false, 0, 0⟩
/-- A continuation with predicate q1. -/
def kq : Cont := { k0 with q := 1 }
/-- A continuation with an extra grid operand. -/
def kx : Cont := { k0 with xg := 9 }
/-- h lines. -/
def h (i : BitVec 6) : GridOp := ⟨.h, i⟩

theorem test_wf_control_fields :
    (Instr.cmpi 1 2 3 0).check = some .reserved ∧ (Instr.id 1 6).check = some .reserved ∧ (Instr.sget 1 0x00B).check = some .reserved ∧
    (Instr.sset 1 0x006).check = some .illegal ∧ (Instr.sset 1 0x0D8).check = some .illegal ∧ (Instr.sset 1 0x00B).check = some .reserved ∧
    (Instr.loop 1 2 0).check = some .illegal ∧ (Instr.loopPre 1 2 2048).check = some .illegal ∧
    (Instr.loopp 1 2 0xFFFF).check = some .illegal ∧ (Instr.looppPre 1 2 0).check = some .illegal ∧
    (Instr.amo 1 2 3 0 0 true 10).check = some .reserved ∧ (Instr.amo 1 2 3 6 0 true 1).check = some .illegal ∧
    (Instr.gridShrink 0).check = some .illegal ∧ (Instr.gridShrink 65).check = some .illegal ∧ (Instr.kgSet 4 1 2).check = some .illegal ∧
    (Instr.launch 1 2 false 5).check = some .illegal ∧ (Instr.bar 0).check = some .illegal ∧ (Instr.bar 4).check = some .illegal ∧
    (Instr.fenceSc 6).check = some .illegal ∧ (Instr.qWait .c 1 (some k0)).check = some .illegal ∧
    (Instr.qWait .v 1 (some kq)).check = some .illegal ∧ (Instr.qSig .f 1 (some k0)).check = some .illegal := by decide

theorem test_wf_timed_loads_and_stores :
    (Instr.ld (h 1) 2 0 (some kx)).check = some .illegal ∧ (Instr.ld (h 1) 2 0 (some { k0 with pw := true })).check = some .illegal ∧
    (Instr.ldt 3 (h 1) 2 0 none).check = some .illegal ∧ (Instr.ldg 0 (h 1) 2 0 0 { k0 with sw := true }).check = some .illegal ∧
    (Instr.cp 1 2 3 4 (some kq)).check = some .illegal ∧ (Instr.rput 1 2 (h 3) (some kq)).check = some .illegal ∧
    (Instr.rtake (h 1) 2 (some kx)).check = some .illegal ∧ (Instr.ldx 1 2 3 4 (some kq)).check = some .illegal ∧
    (Instr.tlRun 1 (some kq)).check = some .illegal ∧ (Instr.st (h 1) 2 0 (some { k0 with pe := true })).check = some .illegal ∧
    (Instr.stt 3 (h 1) 2 0 none).check = some .illegal ∧ (Instr.stg 0 (h 1) 2 0 0 { k0 with se := true }).check = some .illegal ∧
    (Instr.stStr (h 1) 2 3 true 0 (some kx)).check = some .illegal ∧ (Instr.sttStr 3 (h 1) 2 3 true 0 none).check = some .illegal := by
  decide

theorem test_wf_matrix :
    (Instr.mld true 1 (some kq)).check = some .illegal ∧ (Instr.mmul false 4 false 1 0 none).check = some .illegal ∧
    (Instr.mmulCh false 0 true 1 0 none).check = some .illegal ∧ (Instr.mmulCf true false 4 false 0 none).check = some .illegal ∧
    (Instr.mrd 1 0 0 0 (some kx)).check = some .illegal ∧ (Instr.mclr 1 1 false 0 none).check = some .illegal ∧
    (Instr.mclr 2 1 false 0 none).check = some .illegal ∧ (Instr.mclr 3 1 false 0 none).check = some .illegal ∧
    (Instr.mattn true 0 1 0 (some kx)).check = some .illegal ∧ (Instr.mresc 4 false (h 1) 0 none).check = some .illegal ∧
    (Instr.msplLd 1 15 5 none).check = some .illegal ∧ (Instr.msplEv 0 true 0 1 0 (some kq)).check = some .illegal ∧
    (Instr.msplDx 0 true 0 1 2 0 (some kq)).check = some .illegal ∧ (Instr.msplGs 0 true 3 1 2 0 none).check = some .illegal ∧
    (Instr.msplRf 0 (some kq)).check = some .illegal ∧ (Instr.msplRd 7 13 1 0 none).check = some .illegal := by decide

theorem test_wf_vector :
    (Instr.vadd .f32 (h 1) (h 2) (h 3) (some kx)).check = some .illegal ∧ (Instr.vabs .f64 (h 1) (h 2) (some kx)).check = some .illegal ∧
    (Instr.vexp2 .f64 (h 1) (h 2) none).check = some .illegal ∧ (Instr.vcmp 0 7 false 1 (h 1) (h 2) none).check = some .reserved ∧
    (Instr.vcmp 0 6 true 1 (h 1) (h 2) none).check = some .illegal ∧ (Instr.vcmp 2 0 true 1 (h 1) (h 2) none).check = some .illegal ∧
    (Instr.vsel (h 1) (h 2) (h 3) k0).check = some .illegal ∧ (Instr.vsel (h 1) (h 2) (h 3) { kq with xg := 1 }).check = some .illegal ∧
    (Instr.viadd true (h 1) (h 2) (h 3) (some kx)).check = some .illegal ∧
    (Instr.vcvt .rne (h 1) (h 2) 0xB 0 none).check = some .reserved ∧ (Instr.vcvt .rne (h 1) (h 2) 0 5 none).check = some .illegal ∧
    (Instr.vmxp 3 (h 1) (h 2) (h 3) none).check = some .illegal ∧ (Instr.vmxu 0 (h 1) (h 2) (h 3) (some kq)).check = some .illegal ∧
    (Instr.vmov (h 1) (h 2) (some kx)).check = some .illegal ∧ (Instr.vbc .f32 (h 1) (h 2) 64 none).check = some .illegal ∧
    (Instr.vbc .f64 (h 1) (h 2) 32 none).check = some .illegal ∧ (Instr.vperm (h 1) (h 2) (h 3) (some kx)).check = some .illegal ∧
    (Instr.vrot (h 1) (h 2) 1 (some kx)).check = some .illegal ∧ (Instr.vred 0 (h 1) (h 2) false 3 none).check = some .reserved ∧
    (Instr.vred 2 (h 1) (h 2) true 0 none).check = some .illegal ∧ (Instr.vscan 1 (h 1) (h 2) false false 0 none).check = some .illegal ∧
    (Instr.vscan 1 (h 1) (h 2) true false 0 none).check = some .illegal ∧ (Instr.vscan 0 (h 1) (h 2) true true 3 none).check = some .reserved ∧
    (Instr.vtop true 1 1 (h 1) (h 2) (some kx)).check = some .illegal ∧ (Instr.vchk .f32 (h 1) (some kx)).check = some .illegal ∧
    (Instr.vamax .f32 (h 1) (h 2) (some kx)).check = some .illegal := by decide

theorem test_wf_untimed :
    (Instr.flLd 0 false 1 2 3 ⟨0, 1⟩).check = some .illegal ∧ (Instr.fam 0 10 true 1 2 3 ⟨0, 0⟩).check = some .reserved ∧
    (Instr.fam 0 1 true 1 2 3 ⟨0, 1⟩).check = some .illegal ∧ (Instr.fcollSet 0 1 2 ⟨0, 1⟩).check = some .illegal ∧
    (Instr.fred 3 0 0 1 2 ⟨0, 0⟩).check = some .illegal ∧ (Instr.fred 0 0 2 1 2 ⟨0, 0⟩).check = some .illegal ∧
    (Instr.fbar ⟨0, 1⟩).check = some .illegal ∧ (Instr.cph 2 1 2 3 ⟨0, 0⟩).check = some .illegal ∧
    (Instr.spanOpen 0 1 ⟨0, 1⟩).check = some .illegal ∧ (Instr.spanRt 2 0 1 2 ⟨0, 0⟩).check = some .illegal ∧
    (Instr.kvWalk 2 0 1 0 ⟨0, 0⟩).check = some .illegal ∧ (Instr.kvWalk 0 0 1 1 ⟨0, 0⟩).check = some .illegal ∧
    (Instr.kvWalk 1 1 1 1 ⟨0, 0⟩).check = some .illegal ∧ (Instr.kvFork 2 1 2 3 ⟨0, 0⟩).check = some .illegal ∧
    (Instr.kvFork 1 1 2 0 ⟨0, 0⟩).check = some .illegal ∧ (Instr.kvDrop 1 ⟨0, 1⟩).check = some .illegal ∧
    (Instr.kvHint 0 1 2 3 ⟨0, 1⟩).check = some .illegal ∧ (Instr.spanApp 1 2 ⟨0, 1⟩).check = some .illegal := by decide

/-! ## Words, as the spec works them out or written from its encodings, bit field by bit field -/

/-- The ALU group: CR with op 0x00 and fn as in R59; add and sel as chapter 05 works them. -/
theorem test_decode_alu :
    decode .c 0x00611000 none = .ok (.add 3 1 2) ∧ decode .c 0x008531CF none = .ok (.sel 4 5 6 7) ∧
    decode .c 0x00632001 none = .ok (.sub 3 3 4) ∧ decode .c 0x02B5A008 none = .ok (.or 21 21 20) ∧
    decode .c (0x00#6 ++ 1#5 ++ 2#5 ++ 3#5 ++ 0x02#11) none = .ok (.mul 1 2 3) ∧
    decode .c (0x00#6 ++ 1#5 ++ 2#5 ++ 3#5 ++ 0x03#11) none = .ok (.mulh 1 2 3) ∧
    decode .c (0x00#6 ++ 1#5 ++ 2#5 ++ 3#5 ++ 0x04#11) none = .ok (.mulhn 1 2 3) ∧
    decode .c (0x00#6 ++ 1#5 ++ 2#5 ++ 3#5 ++ 0x05#11) none = .ok (.div 1 2 3) ∧
    decode .c (0x00#6 ++ 1#5 ++ 2#5 ++ 3#5 ++ 0x06#11) none = .ok (.rem 1 2 3) ∧
    decode .c (0x00#6 ++ 1#5 ++ 2#5 ++ 3#5 ++ 0x07#11) none = .ok (.and 1 2 3) ∧
    decode .c (0x00#6 ++ 1#5 ++ 2#5 ++ 3#5 ++ 0x09#11) none = .ok (.xor 1 2 3) ∧
    decode .c (0x00#6 ++ 1#5 ++ 2#5 ++ 3#5 ++ 0x0A#11) none = .ok (.shl 1 2 3) ∧
    decode .c (0x00#6 ++ 1#5 ++ 2#5 ++ 3#5 ++ 0x0B#11) none = .ok (.shr 1 2 3) ∧
    decode .c (0x00#6 ++ 1#5 ++ 2#5 ++ 3#5 ++ 0x0C#11) none = .ok (.sra 1 2 3) ∧
    decode .c (0x00#6 ++ 1#5 ++ 2#5 ++ 3#5 ++ 0x0D#11) none = .ok (.min 1 2 3) ∧
    decode .c (0x00#6 ++ 1#5 ++ 2#5 ++ 3#5 ++ 0x0E#11) none = .ok (.max 1 2 3) ∧
    decode .c (0x00#6 ++ 1#5 ++ 2#5 ++ 3#5 ++ 0x10#11) none = .ok (.cmpeq 1 2 3) ∧
    decode .c (0x00#6 ++ 1#5 ++ 2#5 ++ 3#5 ++ 0x11#11) none = .ok (.cmplt 1 2 3) ∧
    decode .c (0x00#6 ++ 1#5 ++ 2#5 ++ 3#5 ++ 0x12#11) none = .ok (.cmplo 1 2 3) ∧
    decode .c (0x00#6 ++ 1#5 ++ 2#5 ++ 0#5 ++ 0x13#11) none = .ok (.clz 1 2) ∧
    decode .c (0x00#6 ++ 1#5 ++ 2#5 ++ 0#5 ++ 0x14#11) none = .ok (.pop 1 2) := by decide

/-- Immediate forms, identifiers and state registers: the table of chapter 05, and chapters 18 and 21. -/
theorem test_decode_immediate_and_state :
    decode .c 0x04A50040 none = .ok (.addi 5 5 64) ∧ decode .c 0x09060001 none = .ok (.andi 8 6 1) ∧
    decode .c (0x03#6 ++ 8#5 ++ 6#5 ++ 0xFFFF#16) none = .ok (.ori 8 6 0xFFFF) ∧
    decode .c (0x04#6 ++ 8#5 ++ 6#5 ++ 0x8001#16) none = .ok (.xori 8 6 0x8001) ∧
    decode .c (0x05#6 ++ 8#5 ++ 6#5 ++ 0#10 ++ 63#6) none = .ok (.shli 8 6 63) ∧
    decode .c (0x06#6 ++ 8#5 ++ 6#5 ++ 0#10 ++ 1#6) none = .ok (.shri 8 6 1) ∧
    decode .c (0x07#6 ++ 8#5 ++ 6#5 ++ 0#10 ++ 33#6) none = .ok (.srai 8 6 33) ∧
    decode .c 0x20227FFB none = .ok (.cmpi 1 2 1 0x3FFB) ∧ decode .c 0x20E58010 none = .ok (.cmpi 7 5 2 16) ∧
    decode .c 0x252091A0 none = .ok (.li 9 0x91A0) ∧ decode .c 0x253F0250 none = .ok (.li 9 0x1F0250) ∧
    decode .c 0x29200000 none = .ok (.lih 9 0) ∧ decode .c 0x2C600002 none = .ok (.id 3 2) ∧ decode .c 0x30800000 none = .ok (.cyc 4) ∧
    decode .c 0x34090040 none = .ok (.tbase 0 9 64) ∧ decode .c 0x38400005 none = .ok (.sget 2 5) ∧
    decode .c 0x38600006 none = .ok (.sget 3 6) ∧ decode .c 0x3C030005 none = .ok (.sset 3 5) := by decide

/-- Flow: the table of chapter 05 and chapter 21. -/
theorem test_decode_flow :
    decode .c 0x401FFFFF none = .ok (.br 0x1FFFFF) ∧ decode .c 0x47E00005 none = .ok (.call 31 5) ∧
    decode .c 0x481F0000 none = .ok (.jr 31) ∧ decode .c 0x4C1F0000 none = .ok (.ret 31) ∧
    decode .c 0x50220003 none = .ok (.beq 1 2 3) ∧ decode .c 0x5580000F none = .ok (.bne 12 0 15) ∧
    decode .c (0x16#6 ++ 1#5 ++ 2#5 ++ 3#16) none = .ok (.blt 1 2 3) ∧ decode .c (0x17#6 ++ 1#5 ++ 2#5 ++ 3#16) none = .ok (.bge 1 2 3) ∧
    decode .c (0x18#6 ++ 1#5 ++ 2#5 ++ 3#16) none = .ok (.blo 1 2 3) ∧ decode .c (0x19#6 ++ 1#5 ++ 2#5 ++ 3#16) none = .ok (.bhs 1 2 3) ∧
    decode .c 0x68850002 none = .ok (.loop 4 5 2) ∧ decode .c (0x1B#6 ++ 4#5 ++ 5#5 ++ 2047#16) none = .ok (.loopPre 4 5 2047) ∧
    decode .c (0x1C#6 ++ 4#5 ++ 5#5 ++ 1#16) none = .ok (.loopp 4 5 1) ∧ decode .c (0x1D#6 ++ 4#5 ++ 5#5 ++ 1#16) none = .ok (.looppPre 4 5 1) ∧
    decode .c 0x78C00000 none = .ok (.lbrk 6) := by decide

/-- Scalar accesses, waits and the system group: R39, R54, R133, R134, R152, R166, R169 to R172, R243, R265, R350, R376. -/
theorem test_decode_system :
    decode .c 0x8089C010 none = .ok (.lds 4 9 3 false 16) ∧ decode .c 0x84A9BFFC none = .ok (.sts 5 9 2 true 0x1FFC) ∧
    decode .c 0x88642AE1 none = .ok (.amo 3 4 5 2 3 true 1) ∧ decode .c 0x8C000007 none = .ok (.wfa 7) ∧
    decode .c 0x90000020 none = .ok (.gridShrink 32) ∧ decode .c 0x94070000 none = .ok (.phPrep 7 0) ∧
    decode .c 0x98000002 none = .ok (.phAdv 0 2) ∧ decode .c 0x9C050000 none = .ok (.fmtPush 5 false) ∧
    decode .c 0x9C050001 none = .ok (.fmtPush 5 true) ∧ decode .c 0xA0042800 none = .ok (.kgSet 0 4 5) ∧
    decode .c 0xF0000002 none = .ok (.qWait .c 2 none) ∧ decode .c 0xF4000003 none = .ok (.qSig .c 3 none) ∧
    decode .c 0xF94B0045 none = .ok (.launch 10 11 true 5) ∧ decode .c (0x3F#6 ++ 0x01#5 ++ 7#5 ++ 0#16) none = .ok (.exit 7) ∧
    decode .c 0xFC400012 none = .ok (.trap 0x12) ∧ decode .c (0x3F#6 ++ 0x03#5 ++ 0#21) none = .ok .yield ∧
    decode .c 0xFC800000 none = .ok .hret ∧ decode .c (0x3F#6 ++ 0x05#5 ++ 0#18 ++ 3#3) none = .ok (.bar 3) ∧
    decode .c 0xFCC00002 none = .ok (.fenceSc 2) ∧ decode .c 0xFCC00005 none = .ok (.fenceSc 5) ∧
    decode .c (0x3F#6 ++ 0x07#5 ++ 0#21) none = .ok .stepBegin ∧ decode .c (0x3F#6 ++ 0x08#5 ++ 9#5 ++ 0#16) none = .ok (.stepCommit 9) ∧
    decode .c (0x3F#6 ++ 0x09#5 ++ 0#21) none = .ok .stepAbort := by decide

/-- The L and S queues: chapters 03, 07, 16, 18 and 19. -/
theorem test_decode_load_store :
    decode .l 0x04082802 (some 0x000C1000) = .ok (.ld (h 8) 5 2 (some ⟨12, false, false, false, true, 0, 0⟩)) ∧
    decode .l 0x09103000 none = .ok (.ldt 1 (h 16) 6 0 none) ∧
    decode .l 0x0D003A0F (some 0x00140050) = .ok (.ldg 1 (h 0) 7 2 15 ⟨20, false, false, false, false, 0, 40⟩) ∧
    decode .l 0x100C6B83 none = .ok (.cp 12 13 14 3 none) ∧ decode .l 0x14620500 none = .ok (.rput 3 2 (h 5) none) ∧
    decode .l 0x18070200 none = .ok (.rtake (h 7) 2 none) ∧
    decode .l (0x07#6 ++ 0#2 ++ 0#3 ++ 12#5 ++ 13#5 ++ 5#4 ++ 0#1 ++ 3#6) none = .ok (.ldx 12 13 5 3 none) ∧
    decode .l (0x08#6 ++ 0#10 ++ 7#16) none = .ok (.tlRun 7 none) ∧ decode .s 0x04095004 none = .ok (.st (h 9) 10 4 none) ∧
    decode .s (0x02#6 ++ 2#2 ++ 0#2 ++ 9#6 ++ 10#5 ++ 4#11) none = .ok (.stt 2 (h 9) 10 4 none) ∧
    decode .s (0x03#6 ++ 1#2 ++ 0#2 ++ 0#6 ++ 7#5 ++ 2#3 ++ 0#2 ++ 15#6) (some 0x00140050) =
      .ok (.stg 1 (h 0) 7 2 15 ⟨20, false, false, false, false, 0, 40⟩) ∧
    decode .s 0x10044982 none = .ok (.stStr (h 4) 9 3 false 2 none) ∧
    decode .s 0x1009B080 (some 0x00170400) = .ok (.stStr (h 9) 22 1 false 0 (some ⟨23, false, false, false, false, 2, 0⟩)) ∧
    decode .s (0x05#6 ++ 1#2 ++ 0#2 ++ 9#6 ++ 10#5 ++ 15#4 ++ 1#1 ++ 63#6) none = .ok (.sttStr 1 (h 9) 10 15 true 63 none) ∧
    decode .s 0xF4000008 (some 0x02580000) = .ok (.qSig .s 8 (some ⟨600, false, false, false, false, 0, 0⟩)) := by decide

/-- The M queue: chapters 11, 12, 13 and 15. -/
theorem test_decode_matrix :
    decode .m 0x0400243F none = .ok (.mld false 9 none) ∧ decode .m 0x0410243F none = .ok (.mld true 9 none) ∧
    decode .m 0x08230001 none = .ok (.mmul false 1 false 6 1 none) ∧ decode .m 0x09230001 none = .ok (.mmul true 1 false 6 1 none) ∧
    decode .m (0x03#6 ++ 1#2 ++ 4#3 ++ 1#1 ++ 6#5 ++ 0#5 ++ 63#10) none = .ok (.mmulCh true 4 true 6 63 none) ∧
    decode .m 0x12900001 none = .ok (.mmulCf true false 4 true 1 none) ∧ decode .m 0x15080000 none = .ok (.mrd 1 8 0 0 none) ∧
    decode .m 0x16005004 none = .ok (.mrd 2 0 10 4 none) ∧ decode .m 0x1820003F none = .ok (.mclr 0 1 false 63 none) ∧
    decode .m 0x1D030000 (some 0x012C0200) = .ok (.mattn true 0 6 0 (some ⟨300, false, false, false, false, 1, 0⟩)) ∧
    decode .m 0x1D0A0000 (some 0x00830200) = .ok (.mattn true 0 20 0 (some ⟨131, false, false, false, false, 1, 0⟩)) ∧
    decode .m 0x20914000 none = .ok (.mresc 4 true (h 20) 0 none) ∧ decode .m 0x400024C0 none = .ok (.msplLd 9 6 0 none) ∧
    decode .m 0x44A30003 none = .ok (.msplEv 0 true 1 6 3 none) ∧ decode .m 0x48431C03 none = .ok (.msplDx 0 false 2 6 7 3 none) ∧
    decode .m 0x4C831C03 none = .ok (.msplGs 0 true 0 6 7 3 none) ∧ decode .m 0x50000000 none = .ok (.msplRf 0 none) ∧
    decode .m 0x54C04800 none = .ok (.msplRd 6 0 9 0 none) ∧ decode .m 0x5448C400 none = .ok (.msplRd 2 8 24 1024 none) := by decide

/-- The V queue: floating and integer element-wise forms, chapters 03, 10, 18 and 19. -/
theorem test_decode_vector_elements :
    decode .v 0x04000102 none = .ok (.vadd .f32 (h 0) (h 1) (h 2) none) ∧
    decode .v (0x02#6 ++ 3#2 ++ 0x45#8 ++ 0x86#8 ++ 0xC7#8) none = .ok (.vsub .f64 ⟨.v, 5⟩ ⟨.d, 6⟩ ⟨.e, 7⟩ none) ∧
    decode .v 0x0C1C1B1D (some 0x00140800) = .ok (.vmul .f32 (h 28) (h 27) (h 29) (some ⟨20, false, false, false, false, 4, 0⟩)) ∧
    decode .v 0x1038291A (some 0x00210070) = .ok (.vfma .f32 (h 56) (h 41) (h 26) ⟨33, false, false, false, false, 0, 56⟩) ∧
    decode .v (0x05#6 ++ 2#2 ++ 1#8 ++ 2#8 ++ 3#8) (some 0) = .ok (.vfnm .f16 (h 1) (h 2) (h 3) k0) ∧
    decode .v (0x06#6 ++ 0#2 ++ 1#8 ++ 2#8 ++ 3#8) none = .ok (.vmin .f32 (h 1) (h 2) (h 3) none) ∧
    decode .v 0x1D0A0607 none = .ok (.vmax .bf16 (h 10) (h 6) (h 7) none) ∧
    decode .v (0x08#6 ++ 0#2 ++ 1#8 ++ 2#8 ++ 0#8) none = .ok (.vabs .f32 (h 1) (h 2) none) ∧
    decode .v (0x09#6 ++ 0#2 ++ 1#8 ++ 2#8 ++ 0#8) none = .ok (.vneg .f32 (h 1) (h 2) none) ∧
    decode .v (0x0A#6 ++ 0#2 ++ 1#8 ++ 2#8 ++ 3#8) none = .ok (.vdiv .f32 (h 1) (h 2) (h 3) none) ∧
    decode .v (0x0B#6 ++ 0#2 ++ 1#8 ++ 2#8 ++ 0#8) none = .ok (.vsqrt .f32 (h 1) (h 2) none) ∧
    decode .v (0x0C#6 ++ 0#2 ++ 1#8 ++ 2#8 ++ 0#8) none = .ok (.vrsqrt .f32 (h 1) (h 2) none) ∧
    decode .v (0x0D#6 ++ 0#2 ++ 1#8 ++ 2#8 ++ 0#8) none = .ok (.vrcp .f32 (h 1) (h 2) none) ∧
    decode .v 0x380D0D00 (some 0x000A0000) = .ok (.vexp2 .f32 (h 13) (h 13) (some ⟨10, false, false, false, false, 0, 0⟩)) ∧
    decode .v 0x3C191600 (some 0x00040000) = .ok (.vlog2 .f32 (h 25) (h 22) (some ⟨4, false, false, false, false, 0, 0⟩)) ∧
    decode .v (0x10#6 ++ 0#2 ++ 1#8 ++ 2#8 ++ 0#8) none = .ok (.vtanh .f32 (h 1) (h 2) none) ∧
    decode .v 0x44420506 none = .ok (.vcmp 0 2 false 2 (h 5) (h 6) none) ∧
    decode .v 0x48080507 (some 0x00161600) = .ok (.vsel (h 8) (h 5) (h 7) ⟨22, false, false, false, true, 3, 0⟩) ∧
    decode .v (0x13#6 ++ 0#2 ++ 1#8 ++ 2#8 ++ 3#8) (some 0x00000008) = .ok (.vclamp .f32 (h 1) (h 2) (h 3) { k0 with xg := 4 }) ∧
    decode .v (0x14#6 ++ 1#2 ++ 1#8 ++ 2#8 ++ 3#8) none = .ok (.viadd true (h 1) (h 2) (h 3) none) ∧
    decode .v (0x15#6 ++ 0#2 ++ 1#8 ++ 2#8 ++ 3#8) none = .ok (.visub false (h 1) (h 2) (h 3) none) ∧
    decode .v (0x16#6 ++ 0#2 ++ 1#8 ++ 2#8 ++ 3#8) none = .ok (.vimul false (h 1) (h 2) (h 3) none) ∧
    decode .v (0x17#6 ++ 0#2 ++ 1#8 ++ 2#8 ++ 3#8) none = .ok (.viand false (h 1) (h 2) (h 3) none) ∧
    decode .v (0x18#6 ++ 0#2 ++ 1#8 ++ 2#8 ++ 3#8) none = .ok (.vior false (h 1) (h 2) (h 3) none) ∧
    decode .v (0x19#6 ++ 0#2 ++ 1#8 ++ 2#8 ++ 3#8) none = .ok (.vixor false (h 1) (h 2) (h 3) none) ∧
    decode .v (0x1A#6 ++ 0#2 ++ 1#8 ++ 2#8 ++ 3#8) none = .ok (.vishl false (h 1) (h 2) (h 3) none) ∧
    decode .v (0x1B#6 ++ 0#2 ++ 1#8 ++ 2#8 ++ 3#8) none = .ok (.vishr false (h 1) (h 2) (h 3) none) ∧
    decode .v (0x1C#6 ++ 0#2 ++ 1#8 ++ 2#8 ++ 3#8) none = .ok (.visra false (h 1) (h 2) (h 3) none) ∧
    decode .v (0x1D#6 ++ 0#2 ++ 1#8 ++ 2#8 ++ 3#8) none = .ok (.vimin false (h 1) (h 2) (h 3) none) ∧
    decode .v (0x1E#6 ++ 0#2 ++ 1#8 ++ 2#8 ++ 3#8) none = .ok (.vimax false (h 1) (h 2) (h 3) none) := by decide

/-- The V queue: conversions, moves, reductions and helpers, chapters 10, 15, 18 and 19. -/
theorem test_decode_vector_lines :
    decode .v 0x800A0410 none = .ok (.vcvt .rne (h 10) (h 4) 1 0 none) ∧ decode .v 0x86100018 none = .ok (.vmxp 2 (h 16) (h 0) (h 24) none) ∧
    decode .v (0x22#6 ++ 1#2 ++ 1#8 ++ 2#8 ++ 3#8) none = .ok (.vmxu 1 (h 1) (h 2) (h 3) none) ∧
    decode .v (0x23#6 ++ 0#2 ++ 1#8 ++ 2#8 ++ 0#8) none = .ok (.vmov (h 1) (h 2) none) ∧
    decode .v 0x900B0A00 (some 0x00040000) = .ok (.vbc .f32 (h 11) (h 10) 0 (some ⟨4, false, false, false, false, 0, 0⟩)) ∧
    decode .v (0x25#6 ++ 0#2 ++ 1#8 ++ 2#8 ++ 3#8) none = .ok (.vperm (h 1) (h 2) (h 3) none) ∧
    decode .v (0x26#6 ++ 0#2 ++ 1#8 ++ 2#8 ++ 63#8) none = .ok (.vrot (h 1) (h 2) 63 none) ∧
    decode .v 0x9C060402 (some 0x000B0000) = .ok (.vred 0 (h 6) (h 4) false 2 (some ⟨11, false, false, false, false, 0, 0⟩)) ∧
    decode .v 0xA00D0C0C none = .ok (.vscan 0 (h 13) (h 12) true true 0 none) ∧
    decode .v 0xA4141516 none = .ok (.vhist false (h 20) (h 21) (h 22) none) ∧
    decode .v 0xA8090809 none = .ok (.vtop false 1 1 (h 8) (h 9) none) ∧
    decode .v 0xA80A0004 (some 0x00080200) = .ok (.vtop false 1 2 (h 0) (h 4) (some ⟨8, false, false, false, false, 1, 0⟩)) ∧
    decode .v 0xAC04080A (some 0x001E0016) = .ok (.vsmxMerge (h 4) (h 8) (h 10) ⟨30, false, false, false, false, 0, 11⟩) ∧
    decode .v 0xB0141516 (some 0x0028002E) = .ok (.vadam (h 20) (h 21) (h 22) ⟨40, false, false, false, false, 0, 23⟩) ∧
    decode .v (0x2D#6 ++ 3#2 ++ 0#8 ++ 2#8 ++ 0#8) none = .ok (.vchk .f64 (h 2) none) ∧
    decode .v (0x2E#6 ++ 0#2 ++ 1#8 ++ 2#8 ++ 0#8) none = .ok (.vamax .f32 (h 1) (h 2) none) := by decide

/-- The F and K queues: chapters 14 to 17 and 19. -/
theorem test_decode_untimed :
    decode .f 0x050C4804 (some 0x00020000) = .ok (.flLd 1 false 12 9 4 ⟨2, 0⟩) ∧
    decode .f 0x040D5000 (some 0x00030000) = .ok (.flLd 0 false 13 10 0 ⟨3, 0⟩) ∧
    decode .f 0x08184958 (some 0x00030000) = .ok (.fam 0 1 true 9 5 12 ⟨3, 0⟩) ∧
    decode .f 0x08904958 (some 0x00020000) = .ok (.fam 0 9 false 9 5 12 ⟨2, 0⟩) ∧
    decode .f 0x0A00481A (some 0x00050000) = .ok (.fam 2 0 false 9 0 13 ⟨5, 0⟩) ∧
    decode .f 0x0C204800 (some 0) = .ok (.fcollSet 2 9 0 ⟨0, 0⟩) ∧ decode .f 0x10215003 (some 0x00010000) = .ok (.fred 0 2 1 10 3 ⟨1, 0⟩) ∧
    decode .f 0x11000000 (some 0x00050000) = .ok (.fred 1 0 0 0 0 ⟨5, 0⟩) ∧ decode .f 0x14000000 (some 0x00090000) = .ok (.fbar ⟨9, 0⟩) ∧
    decode .f 0x190C6B80 (some 0x00050000) = .ok (.cph 1 12 13 14 ⟨5, 0⟩) ∧
    decode .f 0x181429C0 (some 0) = .ok (.cph 0 20 5 7 ⟨0, 0⟩) ∧
    decode .k 0x04450000 (some 0x00020000) = .ok (.spanOpen 2 5 ⟨2, 0⟩) ∧ decode .k 0x08053000 (some 0x00040000) = .ok (.spanApp 5 6 ⟨4, 0⟩) ∧
    decode .k 0x0D450000 (some 0x00030000) = .ok (.spanRt 1 2 5 0 ⟨3, 0⟩) ∧
    decode .k 0x100A2800 (some 0x00050012) = .ok (.kvWalk 0 10 5 0 ⟨5, 9⟩) ∧
    decode .k 0x11000A40 (some 0x00040000) = .ok (.kvWalk 1 0 1 9 ⟨4, 0⟩) ∧
    decode .k 0x16014000 (some 0x00060016) = .ok (.kvPlan 2 1 8 0 ⟨6, 11⟩) ∧
    decode .k 0x14014840 (some 0x00050002) = .ok (.kvPlan 0 1 9 64 ⟨5, 1⟩) ∧
    decode .k 0x18072980 (some 0x00010000) = .ok (.kvFork 0 7 5 6 ⟨1, 0⟩) ∧
    decode .k 0x1C070000 (some 0x00010000) = .ok (.kvDrop 7 ⟨1, 0⟩) ∧
    decode .k 0x20450240 (some 0x00010000) = .ok (.kvHint 2 5 0 9 ⟨1, 0⟩) := by decide

/-- Refused words: chapter 03's example and R46, R51, R53. -/
theorem test_decode_refuses :
    decode .l 0x04082802 (some 0x000C9000) = .error .illegal ∧ decode .c 0xA4A50040 none = .error .reserved ∧
    decode .v 0 none = .error .illegal ∧ decode .v 0xFC000000 none = .error .reserved ∧ decode .c 0x00611400 none = .error .illegal ∧
    decode .f 0x14000000 (some 0x00400000) = .error .illegal ∧ decode .c 0x00000015 none = .error .reserved := by decide

/-! ## Values that the spec works out -/

/-- R202: the borderline cases of chapter 09. -/
theorem test_rounding :
    e4m3.round .rne (Val.ofInt 300) = 0x79 ∧ e4m3.round .ru (Val.ofInt 1000000) = 0x7E ∧ e5m2.round .rne (Val.ofInt 1000000) = 0x7C ∧
    e5m2.round .rz (Val.ofInt 1000000) = 0x7B ∧ e4m3.round .rne (.inf true) = 0x7F ∧ roundT 0xA .rne .nan = 0 ∧
    roundT 0xA .rne (.fin false 601 (-1)) = 127 ∧ fp32.mul 0x71800000 0x71800000 = 0x7F800000 ∧ fp32.mul 0x0D800000 0x0D800000 = 0 ∧
    fp32.round .rne (bf16.decode 1) = 0x00010000 ∧ fp32.round .rne (fp32.decode 0xFFC01234) = 0x7FC00000 := by decide +kernel

/-- R208: the column sum of chapter 09 whose order matters. -/
theorem test_column_sum :
    fp32.add (fp32.add (fp32.add (fp32.add 0x4B800000 0x3F800000) 0xCB800000) 0x3F800000) 0 = 0x3F800000 := by decide +kernel

/-- R204: the block of chapter 09. -/
theorem test_mx_pack :
    let b := mxPack ([Val.fin false 11 (-1), .fin true 3 0, fp32.decode 0x3DCCCCCD, fp32.decode 0x40FFAE14] ++ List.replicate 28 (.fin false 0 0)) 5 .rne
    b.1 = 0x81 ∧ b.2.take 5 = [0x58, 0xD0, 0x02, 0x7F, 0] := by decide +kernel

/-- R209: a NaN operand leaves an exact cell at -2^95, and it stays there. -/
theorem test_exact_nan :
    exactStep 5 (e4m3.decode 0xFF) = -2 ^ 95 ∧ exactStep (-2 ^ 95) (Val.ofInt 1) = -2 ^ 95 := by decide +kernel

/-- The issued entry in the focus of a core with the given data and control sides. -/
def issuing (i : Instr) (d : Dat) (c : Ctl) (f : Entry → Entry := fun e => e) : State :=
  let e : Entry := f { ins := i, id := 0, seq := 0, n := 0, disp := 0, map := 0, ver := 0, v0 := 0, v1 := 0, v2 := 0, v3 := 0, cap := [], place := 0
                       rem := 0, p0 := 0, zr := 64, part := false, cut := false }
  { State.reset.setCore 0 ⟨c, Eng.reset, d⟩ with focus := { Focus.reset with cur := some e } }

/-- The effects that an issue writes, with their cycles. -/
def effects (i : Instr) (d : Dat) (c : Ctl := Ctl.reset) (f : Entry → Entry := fun e => e) : List (Nat × WEff) :=
  match exec i (issuing i d c f) with
  | .next t => (t.eng 0).run.flatMap (·.wr)
  | _ => []

/-- The cell of a row and column that the effects write. -/
def cellOf (ws : List (Nat × WEff)) (row col : Nat) : Option Cell32 :=
  (ws.flatMap fun w => match w.2 with
    | .grid cells => cells
    | _ => []).findSome? fun c => if c.1 = row * 64 + col then some c.2 else none

/-- Grid rows with the given cells from cell 0 on. -/
def rows (l : List (Nat × List Nat)) : Dat :=
  { Dat.reset with grid := Bits.puts [] (l.flatMap fun r => r.2.mapIdx fun j x => (r.1 * 64 + j, BitVec.ofNat 32 x)) }

/-- R233: vsmx.merge of chapter 10: s = (3.0, 1.5), o[0] = 3.0, u = (5.0, 2.0), p[0] = 1.0 give s = (5.0, 2.375), o[0] = 1.75. -/
theorem test_vsmx_merge :
    let ws := effects (.vsmxMerge (h 4) (h 8) (h 10) { k0 with xg := 11 })
      (rows [(4, [0x40400000]), (8, [0x40400000, 0x3FC00000]), (10, [0x3F800000]), (11, [0x40A00000, 0x40000000])])
    cellOf ws 4 0 = some 0x3FE00000 ∧ cellOf ws 8 0 = some 0x40A00000 ∧ cellOf ws 8 1 = some 0x40180000 := by decide +kernel

/-- R232: vtop.f32 with k = 2 of chapter 10. -/
theorem test_vtop :
    let ws := effects (.vtop false 1 1 (h 8) (h 9) none)
      (rows [(8, [0x3F000000, 0x40000000, 0xBF800000, 0x40000000, 0x7FC00000, 0x40400000])])
    cellOf ws 9 0 = some 5 ∧ cellOf ws 9 1 = some 1 ∧ cellOf ws 9 2 = some 0xFFFFFFFF ∧
    ws.any (fun w => match w.2 with
      | .pred p _ v => p == 1 && v == 0x22
      | _ => false) = true := by decide +kernel

/-- R231: vhist.i32 with a[i] = i mod 8 and b = 0 of chapter 10. -/
theorem test_vhist :
    let ws := effects (.vhist false (h 20) (h 21) (h 22) none) (rows [(21, (List.range 64).map (· % 8))])
    cellOf ws 20 0 = some 8 ∧ cellOf ws 20 7 = some 8 ∧ cellOf ws 20 8 = some 0 ∧ cellOf ws 20 63 = some 0 := by decide +kernel

/-- R230: vscan.i32.add.ex of 3, 1, 4, 1, then 0 of chapter 10. -/
theorem test_vscan :
    let ws := effects (.vscan 0 (h 13) (h 12) true true 0 none) (rows [(12, [3, 1, 4, 1])])
    cellOf ws 13 0 = some 0 ∧ cellOf ws 13 1 = some 3 ∧ cellOf ws 13 2 = some 4 ∧ cellOf ws 13 3 = some 8 ∧ cellOf ws 13 63 = some 9 := by
  decide +kernel

/-- R229: vred.bf16.add of 128 elements of 1.0 of chapter 10. -/
theorem test_vred :
    let ws := effects (.vred 1 (h 13) (h 12) false 0 none) (rows [(12, List.replicate 64 0x3F803F80)])
    cellOf ws 13 0 = some 0x43000000 ∧ cellOf ws 13 63 = some 0x43000000 := by decide +kernel

/-- R225: vcvt of 1000.0 to E4M3 and of -0.5 to INT8 downward, chapter 10; the elements of a narrower destination stand in cells 0 to 15. -/
theorem test_vcvt :
    (cellOf (effects (.vcvt .rne (h 1) (h 2) 3 0 none) (rows [(2, List.replicate 64 0x447A0000)])) 1 0) = some 0x7E7E7E7E ∧
    (cellOf (effects (.vcvt .rd (h 1) (h 2) 0xA 0 none) (rows [(2, List.replicate 64 0xBF000000)])) 1 0) = some 0xFFFFFFFF := by decide +kernel

/-- R219: vexp2.f32 of 128 is infinite, chapter 10; of -1 it is one half. -/
theorem test_vexp2 :
    let ws := effects (.vexp2 .f32 (h 1) (h 2) none) (rows [(2, [0x43000000, 0xBF800000])])
    cellOf ws 1 0 = some 0x7F800000 ∧ cellOf ws 1 1 = some 0x3F000000 := by decide +kernel

/-- R228: vperm takes 0 for an index of 64 or more (R240). -/
theorem test_vperm :
    let ws := effects (.vperm (h 1) (h 2) (h 3) none) (rows [(2, [7, 8, 9]), (3, [0x80000003, 2, 64])])
    cellOf ws 1 0 = some 0 ∧ cellOf ws 1 1 = some 9 ∧ cellOf ws 1 2 = some 0 ∧ cellOf ws 1 3 = some 7 := by decide +kernel

/-- R235: the vadam cell of chapter 10 whose wn is NaN: nothing is written and NF is set. -/
theorem test_vadam_nan : adamCell [0x3F00000000000000, 0x3F8000003F800000, 0x3A83126F, 0] 0x3F800000 0 0xC0800000 0 = none := by decide +kernel

/-- Register n of core 0 holds v. -/
def withReg (n : Nat) (v : Word) (s : State) : State := s.setCtl 0 { s.ctl 0 with regs := (s.ctl 0).regs.put n v }

/-- The value register d has `lat` lines after an instruction of the control queue. -/
def resultOf (i : Instr) (s : State) (d : Reg) (lat : Nat) : Option Word :=
  match exec i s with
  | .next t => some (((t.ctl 0).afterLines false lat).reg d)
  | _ => none

/-- R109: an immediate is sign-extended. -/
theorem test_addi : resultOf (.addi 1 2 0xFFFF) (withReg 2 5 State.reset) 1 1 = some 4 := by decide +kernel

/-- R108: the corners of div and rem, and the upper halves of the products. -/
theorem test_div_mulh :
    let s := withReg 2 (BitVec.intMin 64) (withReg 3 (BitVec.allOnes 64) State.reset)
    resultOf (.div 1 2 3) s 1 12 = some (BitVec.intMin 64) ∧ resultOf (.rem 1 2 3) s 1 12 = some 0 ∧
    resultOf (.div 1 2 0) s 1 12 = some (BitVec.allOnes 64) ∧ resultOf (.rem 1 2 0) s 1 12 = some (BitVec.intMin 64) ∧
    resultOf (.mulh 1 3 3) s 1 2 = some 0 ∧ resultOf (.mulhn 1 3 3) s 1 2 = some 0xFFFFFFFFFFFFFFFE := by decide +kernel

/-- R111: li and lih build the device address of chapter 05. -/
theorem test_li_lih :
    resultOf (.li 9 0x91A0) State.reset 9 1 = some 0x91A0 ∧
    resultOf (.lih 9 0) (withReg 9 0x91A0 State.reset) 9 1 = some 0x1234000000 := by decide +kernel

/-- R87: a pending result is not seen before its last line. -/
theorem test_latency :
    resultOf (.mul 6 2 2) (withReg 2 7 State.reset) 6 1 = some 0 ∧ resultOf (.mul 6 2 2) (withReg 2 7 State.reset) 6 2 = some 49 := by
  decide +kernel

/-- R177, R178, R180, R181: the segment of chapter 08 on pseudo-channel 5, started at TCLK 10: its ACT acts at 1162 and not at 1161, its RD at
1207 and not at 1206. -/
theorem test_timeline :
    let tl : Timeline := { Timeline.reset with running := true, start := 10, word := 1, at_ := 1162, cmdsAt := 0 }
    let act : Word := 0x2602920040000000
    let rd : Word := 0x0B42A20040310020
    tlDelta act = 152 ∧ tlPc act = 5 ∧ tlCmd act = 1 ∧ tlBank act = 2 ∧ tlRow act = 0x40 ∧ tlByte rd = 0x080405C0 ∧ tlSram rd = 2 ^ 21 + 0x400 ∧
    tl.cause act 1162 70926258176 = none ∧ (tl.cause act 1161 70926258176).map (·.1) = some 6 ∧
    (let tl2 := { tl with pcs := putKey tl.pcs 5 (PcState.reset.note act 1162) }
     tl2.cause rd 1207 70926258176 = none ∧ (tl2.cause rd 1206 70926258176).map (·.1) = some 0) := by decide +kernel

/-- R289 to R292, R297 to R299: the sequence of chapter 14: the retirement frees group 1 to the tail of the free list, the append opens a
node in group 3. -/
theorem test_spans :
    let p0 : Pool := { Pool.reset with free := List.range 8 }
    let p1 := ((p0.forkNew 5).1.open_ 5 1).1
    let p2 := ((p1.app 5 16 0).1.open_ 5 2).1
    let p3 := ((p2.app 5 20 0).1.open_ 5 3).1
    let p4 := (p3.app 5 12 0).1
    let r := p4.rt 5 2 true 0 0
    let a := r.1.app 5 1 0
    r.2 = (20, 0) ∧ r.1.free = [3, 4, 5, 6, 7, 1] ∧ a.2 = (28, 0) ∧ a.1.free = [4, 5, 6, 7, 1] ∧
    (lookup? a.1.seqs 5).map (·.next) = some 29 := by decide +kernel

/-- R266, R272: the basis of chapter 12 at x = -0.5 and, clamped, at x = -3.0. -/
theorem test_spline_basis :
    let k : Knots := ⟨0x3F800000C0000000, 0x104⟩
    let at_ (x : Nat) : Nat × List Nat := match basis k (fp32.decode x) with
      | .on m u _ => (m, betas 3 u)
      | _ => (99, [])
    at_ 0xBF000000 = (1, [0x3E000000, 0x40380000, 0x40380000, 0x3E000000]) ∧
    at_ 0xC0400000 = (0, [0x3F800000, 0x40800000, 0x3F800000, 0]) := by decide +kernel

/-- R275: the refinement of chapter 12. -/
theorem test_spline_refine :
    let st : Bits 16 := Bits.puts [] [(4096, 0x3F80), (8192, 0x4000), (12288, 0x3F00)]
    let cells := (refineCells st ⟨⟨0x3F800000C0000000, 0x104⟩, 0x10⟩).filter fun c => c.1 % 4096 == 0
    cells.map (·.2) = [0x3F00, 0x3F80, 0x3FC0, 0x3FD8, 0x3FA0, 0x3F20, 0x3E80, 0x3D80, 0, 0, 0] := by decide +kernel

/-- R164, R165: a copy of 512 bytes and one of 128 on one arrival word. -/
theorem test_arrival_word :
    let w := awRegister (awRegister 0)
    let w1 := awComplete w 512 0
    let w2 := awComplete w1 128 4
    w.toNat = 2 * 2 ^ 52 ∧ w1.toNat = 2 ^ 52 + 512 ∧ w2 = 0x8004000000000280 := by decide +kernel

/-! ## Witnesses: a state and operands that meet the hypotheses of each statement, at the values where clauses meet -/

/-- Whether an outcome is a next state. -/
def isNext (o : Host.Outcome State Fault Refusal) : Bool := match o with
  | .next _ => true
  | _ => false

theorem of_isNext {o : Host.Outcome State Fault Refusal} (h : isNext o = true) : ∃ t, o = .next t := by
  cases o <;> simp_all [isNext]

/-- A map entry: first granule, number of granules, home, and the home's low bits; shared, readable and writable. -/
def entryAt_ (baseg leng home low : Nat) : MapEntry :=
  ⟨BitVec.ofNat 64 (leng * 2 ^ 36 + baseg), BitVec.ofNat 64 (2 ^ 59 + 3 * 2 ^ 52 + home * 2 ^ 48 + low)⟩

/-- A map: blocks 0 and 1 of carriage 0, HBM, a PSRAM window on the coach's own block 2, and the capacity tier. -/
def map0 : List MapEntry :=
  [entryAt_ 0 512 1 0, entryAt_ 512 512 1 512, entryAt_ 0x1000 16 2 0, entryAt_ 0x2000 16 4 1024, entryAt_ 0x3000 16 3 0]

/-- A gang of one coach that runs. -/
def gang0 : Gang := { Gang.reset with
  stand := .running, tenant := 1, words := [0, 0x10001, 0, 0, 0, 0, 0, 0, 0, 0, 0, 0], dies := [0], coaches := [0], budget := 1000 }

/-- Core 0 of coach 0 at a line, with an allotment of 64 lines, in a gang of one coach with two maps. -/
def M : State :=
  let s1 := (State.reset.setGang 0 gang0).setCoach 0 { Coach.reset with stand := .running, gang := some 0, phases := [map0, map0] }
  s1.setCore 0 { Core.reset with ctl := { Ctl.reset with stand := .running, sr := Bits.puts [] [(0x001, 0), (0x002, 64), (0x003, 1000)] } }

/-- Change the control side of core 0. -/
def onCtl (f : Ctl → Ctl) (s : State) : State := s.setCtl 0 (f (s.ctl 0))
/-- Change the engine side of core 0. -/
def onEng (f : Eng → Eng) (s : State) : State := s.setEng 0 (f (s.eng 0))
/-- Change the data side of core 0. -/
def onDat (f : Dat → Dat) (s : State) : State := s.setDat 0 (f (s.dat 0))
/-- Change coach 0. -/
def onCoach (f : Coach → Coach) (s : State) : State := s.setCoach 0 (f (s.coach 0))
/-- Change gang 0. -/
def onGang (f : Gang → Gang) (s : State) : State := s.setGang 0 (f (s.gang 0))
/-- Change die 0. -/
def onDie (f : Die → Die) (s : State) : State := s.setDie 0 (f (s.die 0))
/-- State register n of core 0 holds v. -/
def withSr (n : Nat) (v : Word) : State → State := onCtl fun c => c.setSr n v
/-- The arrival handler runs on core 0. -/
def inHnd (s : State) : State := withSr 0x029 0x8000000000000000 s
/-- Line 0 is the LAST of the innermost level of core 0. -/
def lastLine (s : State) : State := withSr 0x014 0x0000080000000000 s

theorem witness_DecodeAndEncodeAgree :
    (Instr.vfma .f64 (h 1) (h 2) (h 3) k0).WellFormed ∧ encode (.vfma .f64 (h 1) (h 2) (h 3) k0) = some ⟨.v, 0x13010203, some 0⟩ ∧
    decode .v 0x13010203 (some 0) = .ok (.vfma .f64 (h 1) (h 2) (h 3) k0) := by unfold Instr.WellFormed; decide

theorem witness_MemoryStaysCanonical : State.reset.mem.wf = true ∧ ∃ t, step State.reset = .next t :=
  ⟨by decide, of_isNext (by decide +kernel)⟩

theorem witness_TheClockCounts :
    (∃ t, step { M with turn := 2 ^ 200 } = .next t) ∧ ({ M with turn := 2 ^ 200 } : State).inbox = [] ∧
    ({ M with turn := 2 ^ 200 } : State).nextEvent = none ∧
    (∃ t, step { M with inbox := [.paceWindow 0] } = .next t) ∧ M.inbox = [] ∧ M.nextEvent ≠ none :=
  ⟨of_isNext (by decide +kernel), by decide, by decide +kernel, of_isNext (by decide +kernel), by decide, by decide +kernel⟩

theorem witness_RegisterArithmeticResults :
    (1 : Reg) ≠ 0 ∧ (0x14 : BitVec 6) ≠ 0x0F ∧ (0x14 : BitVec 6).toNat ≤ 0x14 ∧ 0x14 < (0x15 : BitVec 6).toNat := by decide

theorem witness_ImmediateForms : (63 : BitVec 16).toNat < 64 ∧ ¬ (64 : BitVec 16).toNat < 64 := by decide

theorem witness_IdentifiersAndCycle : (5 : BitVec 16).toNat < 6 ∧ 6 ≤ (6 : BitVec 16).toNat ∧ (1 : Reg) ≠ 0 ∧ (1 : BitVec 21) ≠ 0 := by decide

theorem witness_TimeBaseAndStateRegisters :
    M.inHandler = false ∧ (5 : BitVec 16).toNat = 0x005 ∧ ((6 : BitVec 16).toNat ≠ 0x005 ∧ (inHnd M).inHandler = true) ∧
    ({ Ctl.reset with defer := [(0x028, 7)] } : Ctl).defer = [(0x028, 7)] ∧ ({ Ctl.reset with defer := [(0x037, 7)] } : Ctl).defer = [(0x037, 7)] ∧
    ({ Ctl.reset with defer := [(0x080, 7)] } : Ctl).defer = [(0x080, 7)] ∧ ({ Ctl.reset with defer := [(0x029, 7)] } : Ctl).defer = [(0x029, 7)] := by
  decide +kernel

theorem witness_JumpsAndTheNextLine :
    M.atLast = false ∧ (M.ctl 0).lastLine ≠ some 0 ∧ (let c := (onCtl (fun c => c.setSr 0x014 (2 ^ 43 + 5)) M).ctl 0
     c.lastLine = some 5 ∧ c.lastLine ≠ some 4) ∧ (M.ctl 0).defer = [] ∧ (M.ctl 0).brk = false ∧ (M.ctl 0).stand = .running ∧
    (onCtl (fun c => { c with flow := some 2047 }) M).ctl 0 ≠ M.ctl 0 := by decide +kernel

theorem witness_ConditionalBranches :
    M.atLast = false ∧ M.reg 1 = M.reg 2 ∧ (withReg 1 5 M).reg 1 ≠ (withReg 1 5 M).reg 2 ∧
    ((withReg 1 (-1) M).reg 1).toInt < ((withReg 1 (-1) M).reg 2).toInt ∧ ((withReg 1 (-1) M).reg 2).toNat ≤ ((withReg 1 (-1) M).reg 1).toNat := by
  decide +kernel

theorem witness_ForbiddenPlacesFault :
    (lastLine M).atLast = true ∧ (inHnd M).inHandler = true ∧ flag ((M.ctl M.me).sr.get 0x051) 0 = false ∧
    M.scalarCheck ((withReg 1 64 M).reg 1) 8 true = none := by decide +kernel

theorem witness_LoopFormsAndBreak :
    M.inHandler = false ∧ M.atLast = false ∧ (M.ctl M.me).depth < 4 ∧
    ((withReg 1 0xFFFFFFF8 M).reg 1).toNat % 2 ^ 32 ≤ 0xFFFFFFF8 ∧ 0xFFFFFFF8 < ((withReg 1 0xFFFFFFF9 M).reg 1).toNat % 2 ^ 32 ∧
    (let s := (withSr 0x014 0x0000080000000001 ∘ withSr 0x015 0x0000080000000001 ∘ withSr 0x016 0x0000080000000001 ∘
       withSr 0x017 0x0000080000000001) M
     (s.ctl s.me).depth = 4 ∧ s.atLast = false ∧ s.inHandler = false) ∧
    (M.ctl M.me).depth = 0 ∧ ((lastLine M).ctl 0).depth ≠ 0 ∧ (lastLine M).reg 1 = 0 ∧ (withReg 1 1 (lastLine M)).reg 1 ≠ 0 ∧
    flag (((lastLine M).ctl 0).sr.get 0x014) 41 = false ∧ flag (((withSr 0x014 0x00000A0000000000 M).ctl 0).sr.get 0x014) 41 = true := by
  decide +kernel

/-- A core whose innermost level is number k: at line 0 as FIRST and LAST, of two stages, with CFG bits, ITER, COUNT and LIMIT. -/
def looping (k : Nat) (bits : Word) (iter count limit : Nat) : Ctl :=
  let c := M.ctl 0
  let s1 := (List.range (k + 1)).foldl (fun r j => r.put (0x014 + j) 0x0000080000000000) c.sr
  let s2 := (s1.put (0x014 + k) (bits ||| 0x0000084000000000)).put (0x010 + k) (BitVec.ofNat 64 (count * 2 ^ 32 + iter))
  { c with sr := s2.put (0x018 + k) (BitVec.ofNat 64 (limit * 2 ^ 32)) }

theorem witness_IterationBoundary :
    (∀ j ∈ List.range 4, (M.ctl 0).levelActive j = false) ∧ (M.ctl 0).brk = false ∧
    (∀ k ∈ List.range 4, ∀ p ∈ [((0 : Word), 0, 9, 9), (0, 8, 9, 9), (0x0000020000000000, 8, 9, 9), (0x0000020000000000, 9, 9, 9),
        (0x0000040000000000, 0, 9, 9), (0x0000060000000000, 1, 9, 9)],
      let c := looping k p.1 p.2.1 p.2.2.1 p.2.2.2
      (∀ j ∈ List.range 4, c.levelActive j = decide (j ≤ k)) ∧ c.brk = false ∧ ({ c with brk := true } : Ctl).brk = true ∧
      (c.sr.get (0x014 + k)).toNat % 2048 = 0 ∧ (c.sr.get (0x010 + k)).toNat % 2 ^ 32 + 1 = p.2.1 + 1 ∧
      (c.sr.get (0x018 + k)).toNat / 2 ^ 32 = 9 ∧ (c.sr.get (0x014 + k)).toNat / 2 ^ 38 % 8 + 1 = 2) ∧
    (let c := { looping 1 0x0000060000000000 3 9 2 with cuts := [1] }
     (c.sr.get (0x014 + 1)).toNat / 2 ^ 41 % 2 ≠ 0 ∧ 1 ∈ c.cuts ∧ (c.sr.get (0x018 + 1)).toNat / 2 ^ 32 = 2 ∧
     (c.sr.get (0x010 + 1)).toNat / 2 ^ 32 = 9 ∧ 2 + 2 < (c.sr.get (0x010 + 1)).toNat % 2 ^ 32 + 1 + 1) := by
  refine ⟨?_, ?_, ?_, ?_⟩ <;> decide +kernel

theorem witness_RaisedFaultIsRecorded :
    255 < 256 ∧ (M.ctl 0).own = false ∧ ((onCtl (fun c => { c with own := true }) M).ctl 0).own = true ∧
    (M.coach (0 / 16)).gang = some 0 ∧ (M.gang 0).fault = none ∧ (M.gang 0).stand ≠ .held ∧ spoils 0x10 = false ∧
    (let s := onGang (fun g => { g with stand := .held }) (onCoach (fun k => { k with stand := .saved }) M)
     (s.gang 0).stand = .held ∧ spoils 0x90 = true ∧ 0 ∈ (s.gang 0).coaches ∧ (s.coach 0).stand = .saved) := by decide +kernel

/-- An entry of an instruction, with captured words, a number of rows and operands. -/
def entryOf (i : Instr) (cap : List Word) (rem : Nat) (v0 v1 v2 : Word) : Entry :=
  { ins := i, id := 7, seq := 0, n := 0, disp := 0, map := 0, ver := 0, v0 := v0, v1 := v1, v2 := v2, v3 := 0, cap := cap, place := 0
    rem := rem, p0 := 0, zr := 64, part := false, cut := false }

/-- Core 0 about to dispatch one placed word. -/
def placed (w : Nat) : State := M.withFetchWord 32 w

theorem witness_TrapIsAPreciseFault :
    M.atLast = false ∧
    (let s := placed 0xFC400012
     let it : Item := { lane := 1, half := false, q := .c, w := 0xFC400012, ins := .ok (.trap 0x12) }
     s.coreLive 0 = true ∧ (s.ctl 0).streamBlocks = [] ∧ (s.ctl 0).accessHolds = false ∧
     s.illegalAt 0 (s.ctl 0).pc (s.parts43 0 (s.ctl 0).pc) = none ∧
     (let is := (s.ctl 0).enabled (s.ctl 0).pc (s.header 0 (s.ctl 0).pc % 8) (itemsOf (s.parts43 0 (s.ctl 0).pc))
      s.stalls 0 is = false ∧ s.lineBlocks 0 is = false) ∧
     itemsOf (s.parts43 0 (s.ctl 0).pc) = it :: [] ∧ (s.focusOn 0 (s.ctl 0).pc 0 it).atLast = false) := by decide +kernel

theorem witness_BlockingInstructions :
    M.inHandler = false ∧ (M.coach (coachOf M.me)).ph.prep = false ∧ (M.coach (coachOf M.me)).stepOpen = false ∧
    ((onCoach (fun k => { k with ph := { k.ph with prep := true } }) M).coach 0).ph.prep = true ∧
    (let s := onCtl (fun c => { c with inStep := true }) (onCoach (fun k => { k with stepf := 4 }) M)
     (s.coach 0).ph.prep = false ∧ (s.coach 0).stepOpen = true ∧ (s.ctl 0).inStep = true) ∧
    (inHnd M).inHandler = true ∧ (2 : BitVec 3).toNat ≠ 5 ∧ flag (((withSr 0x051 1 M).ctl 0).sr.get 0x051) 0 = true := by decide +kernel

theorem witness_ScalarAccessesStart :
    (let s := withReg 1 64 M
     s.scalarCheck (s.reg 1 + (8 : BitVec 13).signExtend 64) 8 false = none ∧ s.scalarCheck (s.reg 1 + (8 : BitVec 13).signExtend 64) 8 true = none ∧
     s.scalarCheck (s.reg 1) 8 true = none ∧ s.domOk 4 = true ∧ (s.reg 1 + (4 : BitVec 13).signExtend 64).toNat % 8 ≠ 0) ∧
    ((withReg 1 4 M).reg 1).toNat % 8 ≠ 0 := by decide +kernel

/-- A scalar access of core 0 to block 0. -/
def access0 (k : AccKind) : Access :=
  { id := 9, kind := k, loc := .sram 0 64, map := 0, size := 8, data := 5, cmp := 0, hnd := false, left := 3, rel := none, due := 0, at_ := 0 }

theorem witness_ScalarAccessCompletes :
    (let s (k : AccKind) := onCtl (fun c => { c with acc := [access0 k] }) M
     (s .load).accessReady 0 = some (access0 .load) ∧ (s .store).accessReady 0 = some (access0 .store) ∧
     (s (.amo 9)).accessReady 0 = some (access0 (.amo 9)) ∧ ({ s .load with slots := [(2 ^ 20, 1)] } : State).accessReady 0 = none ∧ ((s .load).coach (coachOf 0)).ph.prep = false ∧ (access0 .load).size ≤ 8 ∧
     (let p : Pend := { reg := 5, sh := false, hnd := false, left := 0, val := 0, wait := some 9 }
      (((onCtl (fun c => { c with pend := [p] }) (s .load)).ctl 0).pend = [p] ∧ p.wait = some (access0 .load).id ∧ (M.ctl 0).inHandler = false))) := by
  decide +kernel

theorem witness_YieldExitAndSignal :
    M.inHandler = false ∧ M.atLast = false ∧ (M.coach (coachOf M.me)).preReq = false ∧
    ((onCoach (fun k => { k with preReq := true }) M).coach 0).preReq = true ∧ M.reg 1 = 0 ∧ (withReg 1 3 M).reg 1 ≠ 0 ∧
    (M.coach (coachOf M.me)).gang = some 0 ∧ ((M.die (0 / 64)).events (M.gang 0).tenant).length < 64 := by decide +kernel

theorem witness_PhaseAndStepInstructions :
    M.inHandler = false ∧ (M.coach 0).phases.length ≤ 2 ∧ 1 < (M.coach 0).phases.length ∧ (M.coach 0).ph.prep = false ∧
    (let s := onCoach (fun k => { k with ph := { k.ph with prep := true, pht := 1 } }) M
     1 < (s.coach 0).phases.length ∧ (s.coach 0).ph.prep = true ∧ 1 = (s.coach 0).ph.pht ∧ 0 ≠ (s.coach 0).ph.pht ∧
     (s.coach 0).ph.reach.contains s.me = false) ∧
    ((onCoach (fun k => { k with ph := { k.ph with prep := true, pht := 1, reach := [0] } }) M).coach 0).ph.reach.contains 0 = true ∧
    (M.coach 0).stepOpen = false ∧ ((onCoach (fun k => { k with stepf := 4 }) M).coach 0).stepOpen = true := by decide +kernel

theorem witness_ShrinkPushKnotsAndLaunch :
    M.inHandler = false ∧ M.galloc M.me < (65 : BitVec 7).toNat ∧ (64 : BitVec 7).toNat = M.galloc M.me ∧ (63 : BitVec 7).toNat < M.galloc M.me ∧
    (M.eng 0).shr = [] ∧ (M.eng 0).naming 63 = [] ∧ fwPushOk ((withReg 1 0x11 M).reg 1) = true ∧ fwPushOk ((withReg 1 0x400 M).reg 1) = false ∧
    knotsOk 0x3F800000C0000000 0x104 = true ∧ knotsOk 0x3F800000C0000000 0 = false := by decide +kernel

theorem witness_ArrivalWordsAndWaits :
    (15 < 16 ∧ (0 : Word).toNat / 2 ^ 52 % 2 ^ 11 = 0 ∧ (0x0010000000000000 : Word).toNat / 2 ^ 52 % 2 ^ 11 = 1 ∧
      (0x7FE0000000000000 : Word).toNat / 2 ^ 52 % 2 ^ 11 = 2046) ∧
    (let x (b : Block) : Core := { Core.reset with ctl := { Ctl.reset with blocks := [b] } }
     (x (.wfa 3)).ctl.hblocks ≠ [.hret] ∧ (x (.wfa 3)).ctl.inHandler = false ∧ (x (.qWait 2 [7])).ctl.blocks = [.qWait 2 [7]]) ∧
    (let p : Pend := { reg := 5, sh := true, hnd := true, left := 0, val := 7, wait := none }
     let x : Core := { Core.reset with ctl := { (inHnd M).ctl 0 with hblocks := [.hret], pend := [p] } }
     x.ctl.inHandler = true ∧ x.ctl.hblocks = [.hret] ∧ x.ctl.acc = [] ∧ x.ctl.pend = [p] ∧ p.hnd = true ∧ p.wait = none ∧
     (∀ b ∈ ({ x with ctl := { x.ctl with hblocks := [.hret, .wfa 3] } } : Core).ctl.hblocks, b ≠ .wfa 4)) ∧
    (3 < 16 ∧ (3 ≠ 0 ∧ ((1 : Nat), (5 : Nat)).1 = 0 + 1 ∧ 4 < ((1 : Nat), (5 : Nat)).2) ∧ ((1 : Nat), (5 : Nat)).2 ≤ 6 ∧ ((0 : Nat), (0 : Nat)).1 ≠ 0 + 1) := by decide +kernel

/-- What an enqueue statement asks of a state: a dispatching line, a grid operand inside and one outside the allotment, an issue cycle in
and out of order. -/
theorem witness_placed :
    let s := onEng (fun e => { e with lastN := [(2, 5), (3, 5), (4, 5), (5, 5)] }) M
    M.focus.cur = none ∧ Inside M [⟨.v, 63⟩] ∧ ¬ Inside (withSr 0x002 1 M) [h 1] ∧ Inside (withSr 0x002 1 M) [h 0] ∧
    InOrder M .v (nominalOf M .v (some k0)) ∧ Queue.v.timed = true ∧ ¬ InOrder s .v (nominalOf s .v (some k0)) ∧ InOrder s .v (nominalOf s .v none) := by
  refine ⟨by decide +kernel, ?_, ?_, ?_, State.orderOk_iff.1 (by decide +kernel), rfl, fun hh => ?_, State.orderOk_iff.1 (by decide +kernel)⟩
  · unfold Inside; decide +kernel
  · unfold Inside; decide +kernel
  · unfold Inside; decide +kernel
  · exact absurd (State.orderOk_iff.2 hh) (by decide +kernel)

theorem witness_VectorInstructionsEnqueue : (2 : BitVec 2) ≠ 3 ∧ M.focus.cur = none ∧ Inside M [⟨.v, 63⟩, h 0] ∧ Queue.v.timed = true := by
  unfold Inside; decide +kernel

theorem witness_IssueCyclesAndQueueSignals :
    Queue.l.timed = true ∧ lookup? (M.eng M.me).lastN Queue.l.tag = none ∧
    lookup? ((onEng (fun e => { e with lastN := [(2, 5)] }) M).eng 0).lastN Queue.l.tag = some 5 ∧ Queue.f ≠ Queue.c := by decide +kernel

/-- Registers 1, 2 and 3 of core 0 hold the given values. -/
def regs3 (a b c : Word) : State := withReg 1 a (withReg 2 b (withReg 3 c M))

theorem witness_LoadQueueInstructionsEnqueue :
    M.cyc < 2 ^ 62 ∧ (0 : BitVec 3).toNat = M.me % 8 ∧ (1 : BitVec 3).toNat ≠ M.me % 8 ∧
    -- a copy of 64 bytes from HBM to block 0, without and with an end in the capacity tier
    (let s := regs3 0 0x1000000 64
     firstFault [aligned 64 (s.reg 2), aligned 64 (s.reg 1), aligned 64 (s.reg 3), require (0 < (s.reg 3).toNat ∧ (s.reg 3).toNat ≤ 2 ^ 32) 0x33 64,
       reaches s .bulk false (s.reg 2) 64, reaches s .bulk true (s.reg 1) 64] = none ∧
     hasCap (s.parts 0 0 (s.reg 2).toNat 64) = false ∧ hasCap (s.parts 0 0 (s.reg 1).toNat 64) = false) ∧
    (let s := onDie (fun d => { d with regs := d.regs.put 0x2318 16 }) (regs3 0 0x3000000 64)
     hasCap (s.parts 0 0 (s.reg 2).toNat 64) = true ∧ reaches s .bulk false (s.reg 2) 64 = none) ∧
    -- a gather of one row of 64 bytes from HBM
    (let s := withSr 0x060 0x0000_0FC0_0000_0000 (regs3 0 0x1000000 0)
     reaches s .ldxSrc false (s.reg 2) 64 = none ∧ reaches s .ldxDst true (s.reg 1) 64 = none) ∧
    reaches M .timedLocal false 0 1024 = none ∧ aligned 64 4 ≠ none ∧ (M.reg 1).toNat < 2 ^ 48 := by decide +kernel

theorem witness_StoreQueueInstructionsEnqueue :
    aligned 64 0 = none ∧ reaches M .timedStore true 0 1024 = none ∧ reaches M .timedStore true 0x2000000 256 = none ∧
    walOver (M.ctl M.me) (M.walUse M.me 0 0 0 1) = none ∧ hasWindow (M.parts 0 0 0x2000000 256) = true ∧ hasWindow (M.parts 0 0 0 256) = false ∧
    (M.reg 1).toNat < 2 ^ 48 ∧ ¬ ((withReg 1 0x1000000000000 M).reg 1).toNat < 2 ^ 48 := by decide +kernel

/-- Format words of BF16 tiles in both FIFOs. -/
def fmts (s : State) : State := onDat (fun d => { d with fifo0 := [0x11, 0x11], fifo1 := [0x11] }) s

theorem witness_MatrixInstructionsEnqueue :
    (let s := fmts (regs3 0x200000 0 0)
     takes s false (fun w => decide (fwB w ≤ 8)) = none ∧ inBlock s true false (s.reg 1) 8192 = none ∧
     takes s false (tileWordOk (s.dat 0) 1 false) = none ∧ inBlock s false false (s.reg 2) 128 = none ∧ s.me % 8 ≠ 7 ∧ s.tokenMode s.me = false ∧
     takes s false attnLeadOk = none ∧ takes s true attnTrailOk = none) ∧
    takes M false (fun _ => true) ≠ none ∧ mrcOk 0x100110D0 8 0 0 = true ∧ mrcSram 0x100110D0 = false ∧ mrcOk 0x30200 0 10 4 = true ∧ mrcSram 0x30200 = true := by
  decide +kernel

/-- Knot grid 0 of core 0: cubic, G 4, spacing 1.0, first knot -2.0. -/
def knotted (s : State) : State := withSr 0x0E0 0x3F800000C0000000 (withSr 0x0E4 0x104 s)

theorem witness_SplineInstructionsEnqueue :
    (let s := knotted (onDat (fun d => { d with fifo0 := [0x10] }) (regs3 0 0x200000 0))
     ((s.ctl 0).sr.get 0x0E4).toNat % 32 ≠ 0 ∧ takes s false (fun w => splAOk w && splBOk w) = none ∧ takes s false splAOk = none ∧
     inBlock s false false (s.reg 1) 256 = none ∧ inBlock s true false (s.reg 2) 256 = none ∧ inBlock s true false (s.reg 2) (7 * 8192) = none ∧
     inBlock s true true (s.reg 2) (7 * 8192) = none ∧ takes s false (fun w => splBOk w && fwAcc w == 0) = none ∧ 2 * 4 ≤ 16 ∧ 2 * 4 + 3 ≤ 20 ∧
     2 ≤ ((s.ctl 0).sr.get 0x0E0).toNat / 2 ^ 55 % 256) ∧ ((M.ctl 0).sr.get 0x0E4).toNat % 32 = 0 := by decide +kernel

theorem witness_UntimedInstructionsEnqueue :
    reaches M .fabric false 0x2000000 64 = none ∧ reaches M .ctx true 0 64 = none ∧ reaches M .fabric true 0x2000000 8 = none ∧ aligned 64 0 = none ∧
    reaches M .ctx true 0 37056 = none ∧ reaches M .host true 0 64 = none ∧
    (let hw : Word := 0x8000000100000000
     (onDie (fun d => { d with regs := (d.regs.put 0x2200 0) }) M).focus.cur = none ∧ hw.toNat % 2 ^ 32 % 64 = 0) := by decide +kernel

/-- The state whose next event is the dispatch of the placed line, and one of a 64-bit form. -/
def placed64 (w : Nat) : State := M.withFetchWord 64 w

/-- A V entry that issues next: its coach's cycle is open and it is the one head due. -/
def issuing1 : State :=
  { (onCoach (fun k => { k with opened := some 0, due := [4] })
      (onEng (fun x => { x with qv := [entryOf (.vmov (h 1) (h 2) none) [] 0 0 0 0] })
        (onCtl (fun c => { c with blocks := [.wfa 0] }) M))) with turn := placeIn 3 0 }

theorem witness_OneLineAndOneHead :
    (let s := placed 0x252091A0
     let c := s.ctl 0
     let it : Item := { lane := 1, half := false, q := .c, w := 0x252091A0, ins := .ok (.li 9 0x91A0) }
     s.coreLive 0 = true ∧ c.blocks = [] ∧ c.accessHolds = false ∧ c.handlerPending = false ∧ c.inHandler = false ∧ c.depth = 0 ∧
     c.brk = false ∧ c.defer = [] ∧ c.flow = none ∧ c.pend = [] ∧ c.acc = [] ∧ c.fst = [] ∧ (s.eng 0).sigs = [] ∧
     s.parts43 0 c.pc = [.item it] ∧ s.illegalAt 0 c.pc (s.parts43 0 c.pc) = none) ∧
    (let e := { entryOf (.vadd .f32 (h 1) (h 2) (h 3) none) [] 0 0 0 0 with n := 99 }
     let s (o : Option Nat) := onEng (fun x => { x with qv := [e] })
       (onCoach (fun k => { k with opened := o, due := [4], tclk := 99 }) { M with cyc := 99 })
     ((s (some 99)).coach 0).opened = some (s (some 99)).cyc ∧ (∀ o ∈ [some 99, none], (s o).takesPlace 0 = true ∧
       (((s o).openCycle 0).coach 0).due.contains (0 * 8 + Queue.v.tag) = true ∧ (((s o).openCycle 0).eng 0).qv = [e])) := by
  refine ⟨?_, ?_⟩ <;> decide +kernel

theorem witness_StepRunsTheDecodedInstruction :
    (let s := placed 0x00611000
     s.inbox = [] ∧ (Instr.add 3 1 2).queue? = some .c ∧ (∀ j ∈ [3, 4, 5, 6, 7], s.laneWord 0 0 j = 0) ∧ lenClass .c 0x00611000 ≠ .long ∧
     s.header 0 0 = Queue.c.tag * 16 ∧ s.laneWord 0 0 1 = 0x00611000 ∧ s.laneWord 0 0 2 = 0 ∧
     (s.nextEvent.map fun c => (c.ev, c.again)) = some (.lineDispatch 0, false) ∧ s.coreLive 0 = true ∧ (s.ctl 0).handlerPending = false ∧
     (s.ctl 0).streamBlocks = [] ∧ (s.ctl 0).accessHolds = false ∧
     (let it : Item := { lane := 1, half := false, q := .c, w := 0x00611000, ins := .ok (.add 3 1 2) }
      s.parts43 0 (s.ctl 0).pc = [.item it] ∧ s.illegalAt 0 0 [.item it] = none ∧ s.stalls 0 [it] = false ∧ s.lineBlocks 0 [it] = false)) ∧
    (let s := placed64 0x000C100004082802
     lenClass .l 0x04082802 ≠ .short ∧ s.header 0 0 = Queue.l.tag * 16 + 0x800 ∧ s.laneWord 0 0 1 = 0x04082802 ∧ s.laneWord 0 0 2 = 0x000C1000) := by
  decide +kernel

theorem witness_StepRunsTheIssue :
    (let s := issuing1
     s.inbox = [] ∧ (s.nextEvent.map fun c => c.ev) = some (.timedIssue 0 .v) ∧ s.takesPlace (coachOf 0) = true ∧ (s.coach 0).opened = some s.cyc ∧
     (s.coach 0).due.contains (0 * 8 + Queue.v.tag) = true ∧ s.tokenMode 0 = false ∧ (s.eng 0).queue .v ≠ []) := by decide +kernel

/-- A core of coach 0 blocked so. -/
def blocked (b : Block) : State := onCtl (fun c => { c with blocks := [b] }) M

/-- An image of 48 bytes with no section, at 0x2000; its CRC is that of the standard CRC-32. -/
def imaged (s : State) : State :=
  { s with mem := ([(0, 4, 0x31495342), (4, 2, 1), (0x0E, 1, 1), (0x0F, 1, 1), (0x10, 8, 1000), (0x24, 4, 48), (0x28, 4, 0x7441A634)] :
      List (Nat × Nat × Nat)).foldl (fun m p => m.setNum (.dev 0 (0x2000 + p.1)) p.2.1 p.2.2) s.mem }

/-- Core 0 waits for its launch of a record at byte 128 of its control memory, with arrival word 4, on a die whose unit runs. -/
def launching : State :=
  let s := imaged (onDie (fun d => { d with
    mgmt := { d.mgmt with boot := 1, stage := 3 }, regs := Bits.puts [] [(0x10100, 0x1001), (0x2008, 0x0000020000100001)] })
    (blocked (.launch 1 (some 4) 128 0)))
  { s with mem := (s.mem.setNum (.cmem 0 128) 8 0x2000).setNum (.cmem 0 136) 8 0x10001 }

theorem witness_CoreEvents :
    -- an arrival word that calls the handler
    (let s := withSr 0x028 0x8 (withSr 0x083 0x8000000000000000 M)
     ((s.ctl 0).sr.get 0x028).getLsbD 3 = true ∧ ((s.ctl 0).sr.get (0x080 + 3)).getLsbD 63 = true ∧
     (∀ i, i < 3 → ¬ (((s.ctl 0).sr.get 0x028).getLsbD i = true ∧ ((s.ctl 0).sr.get (0x080 + i)).getLsbD 63 = true)) ∧ s.coreLive 0 = true ∧
     (s.ctl 0).inHandler = false ∧
     (match s.tryDispatch 0 with
      | .fault _ _ => false
      | _ => true) = true) ∧
    -- launch answers: a record at a bad address, and one for which no slot is free
    (let s := blocked (.launch 1 none 65536 0)
     (s.ctl 0).blocks = .launch 1 none 65536 0 :: [] ∧ 0 ≤ s.cyc ∧ 65536 ≤ (65536 : Word).toNat ∧ (s.eng 0).sigs = [] ∧
     (let p : Pend := { reg := 5, sh := false, hnd := false, left := 0, val := 0, wait := some 1 }
      ((onCtl (fun c => { c with pend := [p] }) s).ctl 0).pend = [p] ∧ p.wait = some 1 ∧ p.left = 0 ∧ (s.ctl 0).inHandler = false)) ∧
    (let s := blocked (.launch 1 none 128 0)
     (128 : Word).toNat < 65536 ∧ (128 : Word).toNat % 128 = 0 ∧ s.freeSlot (dieOf (coachOf 0)) (s.gang 0).tenant = none) ∧
    -- a child that is accepted, one of a bad image, one of a lower class, and a word with 2,047 pending
    (let s := launching
     let words := (List.range 12).map fun i => s.mem.dword (.cmem 0 (128 + 8 * i))
     (s.ctl 0).blocks = [.launch 1 (some 4) 128 0] ∧ s.freeSlot 0 (s.gang 0).tenant = some 1 ∧ (s.gang 0).prio ≤ (nthD 0 words 1).toNat / 2 ^ 32 % 4 ∧
     (s.ctl 0).sr.get 0x084 = 0 ∧ s.rejectCode 0 (s.gang 0).tenant words = none ∧
     (({ s with mem := [] } : State).rejectCode 0 (s.gang 0).tenant words).isSome = true ∧
     (nthD 0 words 1).toNat / 2 ^ 32 % 4 < (onGang (fun g => { g with words := [0, 0x100010001] }) s |>.gang 0).prio ∧
     ((withSr 0x084 0x7FF0000000000000 s).ctl 0 |>.sr.get 0x084).toNat / 2 ^ 52 % 2 ^ 11 = 2047) ∧
    -- phAdvComplete with cores left and with the last
    (let s (n : Nat) := onCoach (fun k => { k with ph := { k.ph with prep := true, pht := 1, reach := List.range 16, ndone := n } }) (blocked .phAdv)
     (s 14).advReady 0 = true ∧ ((s 14).coach 0).ph.ndone < 15 ∧ (s 15).advReady 0 = true ∧ 15 ≤ ((s 15).coach 0).ph.ndone) ∧
    -- fences whose sets are complete and not
    (let s := blocked (.fence ⟨[], [], []⟩)
     .fence ⟨[], [], []⟩ ∈ (s.ctl 0).blocks ∧ s.relDone 0 ⟨[], [], []⟩ = true) ∧
    (let s := onCtl (fun c => { c with acc := [access0 .store] }) (blocked (.fence ⟨[9], [], []⟩))
     .fence ⟨[9], [], []⟩ ∈ (s.ctl 0).blocks ∧ s.relDone 0 ⟨[9], [], []⟩ = false) ∧
    -- an exit, with and without a shift
    (let s := onCtl (fun c => { c with stand := .exiting ⟨[], [], []⟩ }) M
     (s.ctl 0).stand = .exiting ⟨[], [], []⟩ ∧ s.relDone 0 ⟨[], [], []⟩ = true ∧ (s.coach 0).ph.prep = false) ∧
    (let s := onCoach (fun k => { k with ph := { k.ph with prep := true } }) (onCtl (fun c => { c with stand := .exiting ⟨[], [], []⟩ }) M)
     (s.coach 0).ph.prep = true ∧ (s.coach 0).ph.reach.contains 0 = false ∧ (s.coach 0).ph.ndone < 15) := by
  refine ⟨?_, ?_, ?_, ?_, ?_, ?_, ?_, ?_, ?_⟩ <;> decide +kernel

/-- Coach 0 with every core at the coach-scope barrier of number 0. -/
def atBar : State :=
  { M with cores := (List.range 16).map fun i =>
      (i, { Core.reset with ctl := { Ctl.reset with stand := .running, blocks := [.bar 2 0 ⟨[], [], []⟩] } }) }

theorem witness_barrier :
    let who := (atBar.gang 0).participants 2 0
    (∀ d ∈ who, (atBar.coach (coachOf d)).stand = .running) ∧
    (∀ d ∈ who, (atBar.ctl d).stand = .exited ∨ ∃ r, .bar 2 0 r ∈ (atBar.ctl d).blocks ∧ atBar.relDone d r = true) ∧
    (∃ d ∈ who, ∃ r, .bar 2 0 r ∈ (atBar.ctl d).blocks) ∧ ∀ d ∈ who, ∀ m r, .bar 2 m r ∈ (atBar.ctl d).blocks → 0 ≤ m := by
  have h0 : ∀ d ∈ (atBar.gang 0).participants 2 0, (atBar.coach (coachOf d)).stand = .running ∧
      .bar 2 0 ⟨[], [], []⟩ ∈ (atBar.ctl d).blocks ∧ atBar.relDone d ⟨[], [], []⟩ = true := by decide +kernel
  exact ⟨fun d hd => (h0 d hd).1, fun d hd => .inr ⟨_, (h0 d hd).2⟩, ⟨0, by decide +kernel, _, (h0 0 (by decide +kernel)).2.1⟩,
    fun _ _ m _ _ => Nat.zero_le m⟩

/-- A running segment at word 11 of the timeline area, that word and the next given, and bank 2 of pseudo-channel 5 open since cycle 1162. -/
def segment (x : Word) (at_ : Nat) : State :=
  let t : Timeline := { Timeline.reset with running := true, at_ := at_, base := 10, word := 1 }
  let s := onCoach (fun k => { k with tclk := at_, tl := { t with pcs := putKey t.pcs 5 (PcState.reset.note 0x2602920040000000 1162) } }) M
  { s with mem := s.mem.setNum (.hbm 0 (timelineArea + 88)) 8 x.toNat }

/-- Coach 0 waits for its start tick 4, which reaches it at rx. -/
def readied (rx : Nat) (r : Bool) (recAt : Option Nat) : State :=
  onGang (fun g => { g with stand := .starting, recAt := recAt }) (onCoach (fun k => { k with stand := .ready 4 rx r, kept := [(5, 3)] }) M)

theorem witness_TimedDomainEvents :
    -- a start tick, a resumption, and a tick that comes late
    (∀ r ∈ [true, false], ∀ a ∈ [none, some 0x1000], ∀ rx ∈ [0, 2, 9],
      let s := readied rx r a
      (s.coach 0).stand = .ready 4 rx r ∧ (s.coach 0).gang = some 0 ∧ (s.gang 0).stand = .starting ∧ (s.gang 0).recAt = a ∧ s.cyc < 4 ∧
      s.hearsHome 0 = true ∧ (s.gang 0).stand ≠ .stopping ∧ ((onGang (fun g => { g with stand := .stopping }) s).gang 0).stand = .stopping ∧
      ((s.setCoach 8 { s.coach 0 with lco := 1 }).hearsHome 8 = false) ∧
      (s.gang 0).open_ = false ∧ (s.coach 0).phases = [map0, map0]) ∧
    ((entryAt_ 0x3000 16 3 0).inAllotment (((onDie (fun d => { d with regs := d.regs.put 0x2318 16 }) M).die 0).capSize (M.gang 0).tenant) = true ∧ (entryAt_ 0x3000 16 3 0).home = 3 ∧ (entryAt_ 0x3000 16 3 0).offg ≤ 0 ∧
     0 < (entryAt_ 0x3000 16 3 0).offg + (entryAt_ 0x3000 16 3 0).leng ∧ (M.die 0).pooled (M.gang 0).tenant 0 = false ∧
     0 * 4096 + 4 < 5 ∧ 5 + 3 ≤ 0 * 4096 + 8) ∧
    -- the end of a cycle with nothing in flight, and a beat at its last hop
    (let b : Beat := { car := 0, lane := 2, pos := 4, target := 5, data := [7] }
     let s := onCoach (fun k => { k with opened := some 0, beats := [b] }) M
     s.takesPlace 0 = true ∧ (s.coach 0).opened = some s.cyc ∧ (s.coach 0).due = [] ∧ (∀ i, i < 16 → (s.eng i).run = []) ∧
     (s.coach 0).beats = [b] ∧ ringNext b.lane b.pos = b.target ∧
     (lookupD [] (s.coach 0).park (coreIx (beatCore 0 b) * 16 + b.lane)).length < 4) ∧
    -- END, RD, WR and NOP words of a segment, after and in handover
    (∀ p ∈ [((0 : Word), 0), (0x0B42A20040310020, 2), (0x0B42B20040310020, 3), (0x0000700000000000, 7)],
     let cause (s : State) := (s.coach 0).tl.cause (s.tlWord 0 ((s.coach 0).tl.base + (s.coach 0).tl.word)) (s.coach 0).tl.at_ (s.poolByte 0)
     (segment p.1 2000).wordDue 0 = true ∧ tlCmd p.1 = p.2 ∧ (segment p.1 2000).tlWord 0 11 = p.1 ∧ cause (segment p.1 2000) = none ∧
     (segment p.1 5).wordDue 0 = true ∧ (p.2 = 7 ∨ (cause (segment p.1 5)).map (·.1) = some 6)) ∧
    -- landings under way and due
    (let s (n : Nat) := onCoach (fun k => { k with tclk := n, tl := { k.tl with land := [(5, 0, 64, [1, 2])] } }) M
     (∀ l ∈ ((s 0).coach 0).tl.land, ((s 0).coach 0).tclk ≤ l.1) ∧ 5 < ((s 6).coach 0).tclk) ∧
    -- the freeze line after freeze-time work
    (let s := onCoach (fun k => { k with frozen := true, tl := { k.tl with hold := true } }) M
     (s.coach 0).stand = .running ∧ (s.coach 0).tl.hold = true ∧ s.paceAsserts (dieOf 0) = false ∧ s.conditions 0 = false ∧
     s.delays.headD 0 = 0 ∧ 0 < ({ s with delays := [3] } : State).delays.headD 0) := by
  refine ⟨?_, ?_, ?_, ?_, ?_, ?_⟩ <;> decide +kernel
/-- A run of an entry in cycle k. -/
def runOf (e : Entry) (q : Queue) (k : Nat) (data : List Byte) (tile : Option Tile) : Run :=
  { e := e, q := q, t := 0, k := k, last := 300, push := 300, wr := [], data := data, data2 := [], tile := tile, tile2 := none, src := none
    snaps := [], seen := false, early := [] }

/-- State M with an entry in the focus, about to issue. -/
def issues (e : Entry) : State := { M with focus := { M.focus with cur := some e } }

theorem witness_FloatingVectorResults : (issues (entryOf (.vadd .f64 (h 1) (h 2) (h 3) none) [] 0 0 0 0)).focus.cur ≠ none := by decide +kernel

theorem witness_IntegerAndMoveVectorResults :
    (63 : BitVec 7).toNat < 256 / FTy.f32.bytes ∧ ¬ (64 : BitVec 7).toNat < 256 / FTy.f32.bytes ∧ (31 : BitVec 7).toNat < 256 / FTy.f64.bytes ∧
    (issues (entryOf (.vmov (h 1) (h 2) none) [] 0 0 0 0)).focus.cur ≠ none := by decide +kernel

theorem witness_ReductionAndScanResults :
    (1 : BitVec 2) = BitVec.ofNat 2 (b2n true) ∧ (0 : BitVec 2) = BitVec.ofNat 2 (b2n false) ∧ ((3 : BitVec 2) = 0 ∨ (3 : BitVec 2) = 3) := by decide

theorem witness_CompareSelectAndCheckResults :
    (6 : BitVec 3).toNat < 7 ∧ (5 : BitVec 3).toNat < 6 ∧ ¬ (6 : BitVec 3).toNat < 6 ∧
    (issues (entryOf (.vchk .f32 (h 1) none) [] 0 0 0 0)).focus.cur ≠ none := by decide +kernel

theorem witness_ConversionAndHelperResults :
    (0xA : BitVec 4).toNat < 0xB ∧ ¬ (5 ≤ (8 : BitVec 4).toNat ∧ (8 : BitVec 4).toNat ≤ 7) ∧ (2 : BitVec 2) ≠ 3 ∧
    (let r := runOf (entryOf (.vmxp 2 (h 1) (h 2) (h 3) none) [] 0 0 0 0) .v 7 (List.replicate 2048 0) none
     r.k + 1 = 8 ∧ r.data.length = 256 * 8 ∧ r.k < 8) ∧
    (issues (entryOf (.vadam (h 1) (h 2) (h 3) k0) [0, 0, 0, 0] 0 0 0 0)).focus.cur ≠ none := by decide +kernel

theorem witness_LoadsAndStoresIssue :
    (2 : BitVec 2) ≠ 3 ∧ (runOf (entryOf (.ldt 2 (h 1) 2 0 none) [] 0 0 0 0) .l 15 [] none).k < 16 ∧
    16 ≤ (runOf (entryOf (.ldt 2 (h 1) 2 0 none) [] 0 0 0 0) .l 16 [] none).k ∧
    (runOf (entryOf (.sttStr 2 (h 1) 2 3 true 0 none) [] 0 0 0 0) .s 15 [] none).e.ins = .sttStr 2 (h 1) 2 3 true 0 none ∧
    findEntry (M.gangOf 0) (M.mapOf 0 0) 0 = some (entryAt_ 0 512 1 0) ∧ findEntry (M.gangOf 0) (M.mapOf 0 0) 0x2000000 = some (entryAt_ 0x2000 16 4 1024) := by
  decide +kernel

theorem witness_GathersAndScattersIssue :
    (let r (b : Byte) := runOf (entryOf (.ldg 1 (h 1) 2 3 15 k0) [] 0 0 0 0) .l 15 (List.replicate 264 b) none
     (r 255).e.cut = false ∧ (r 255).k < 16 ∧ ((M.ctl 0).cbs.get (0x030 + 3)).getLsbD (r 255).k = false ∧ (r 255).mask.getLsbD (r 255).k = true ∧
     (r 0).mask.getLsbD (r 0).k = false) ∧
    (((onCtl (fun c => { c with cbs := [(0x033, 0x8000)] }) M).ctl 0).cbs.get (0x030 + 3)).getLsbD 15 = true ∧
    ({ entryOf (.ldg 1 (h 1) 2 3 15 k0) [] 0 0 0 0 with cut := true } : Entry).cut = true ∧
    -- a scatter row in SRAM, and one in a window
    (∀ p ∈ [(0, entryAt_ 0 512 1 0), (0x2000000, entryAt_ 0x2000 16 4 1024)],
      let r := runOf (entryOf (.stg 1 (h 1) 2 3 15 k0) [] 0 p.1 0 0) .s 15 (List.replicate 8 255 ++ List.replicate 256 0) none
      let a := r.e.v0 + BitVec.ofNat 64 (wordAt (r.data.drop 8) r.k * (64 * 4 ^ 1))
      r.e.cut = false ∧ r.mask.getLsbD r.k = true ∧ findEntry (M.gangOf 0) (M.mapOf 0 r.e.map) a.toNat = some p.2 ∧
      a.toNat % 4096 + 256 ≤ 4096 ∧ (p.2.home = 1 ∨ p.2.home = 4)) := by
  refine ⟨?_, ?_, ?_, ?_⟩ <;> decide +kernel

theorem witness_RingAndTimelineIssue :
    (issues (entryOf (.rtake (h 1) 2 none) [] 0 0 0 0)).focus.cur = some (entryOf (.rtake (h 1) 2 none) [] 0 0 0 0) ∧
    (∀ k ∈ [1, 4],
      let r := runOf (entryOf (.rput 3 2 (h 5) none) [] 0 0 0 0) .l k (List.replicate ((5 - k) * 64) 7) none
      let s := onCoach (fun x => { x with opened := some 0 }) (onEng (fun x => { x with run := [r] })
        (issues (entryOf (.rput 3 2 (h 5) none) [] 0 0 0 0)))
      s.focus.cur ≠ none ∧ (s.eng s.me).run = [r] ∧ r.e.ins = .rput 3 2 (h 5) none ∧ r.data.length = (5 - r.k) * 64 ∧
      (∀ i, i < 16 → i ≠ s.me → (s.eng i).run = []) ∧ (s.coach 0).beats = [] ∧ s.takesPlace 0 = true ∧ (s.coach 0).opened = some s.cyc ∧
      (s.coach 0).due = []) := by
  refine ⟨?_, ?_⟩ <;> decide +kernel

theorem witness_MatrixCommandsIssue :
    (issues (entryOf (.mmul true 1 false 6 1 none) [0x11] 2 0 0 0)).focus.cur = some (entryOf (.mmul true 1 false 6 1 none) [0x11] 2 0 0 0) ∧
    (M.dat 0).tiles.length = 4 ∧ (nthD Tile.reset (M.dat 0).tiles 1).ready = false ∧
    (let d : Dat := { M.dat 0 with tiles := [Tile.reset, { Tile.reset with ready := true }, Tile.reset, Tile.reset] }
     (nthD Tile.reset d.tiles 1).ready = true ∧ (entryOf (.mmul true 1 false 6 1 none) [0x11] 2 0 0 0).part = false) := by decide +kernel

/-- A tile run in its cycle k, of two rows, with captured words and writes to come. -/
def tileRun (i : Instr) (cap : List Word) (k : Nat) (wr : List (Nat × WEff)) : Run :=
  { runOf (entryOf i cap 2 0 0 0) .m k [] (some Tile.reset) with wr := wr }

theorem witness_TileRowsAccumulate :
    (let r (w : Word) (c : BitVec 3) (k : Nat) := runOf (entryOf (.mmul true c false 6 1 none) [w] 2 0 0 0) .m k [] (some Tile.reset)
     accTarget (r 0x11 1 132).e = some (0, 1, true) ∧ depthOf 1 ≤ 132 ∧ rowsAt (cadence 1) 2 (132 - depthOf 1) = [0] ∧
     accTarget (r 0x133 0 132).e = some (1, 0, true) ∧ accTarget (r 0x288 2 132).e = some (2, 2, true)) ∧
    (let r := tileRun (.mattn true 1 6 0 none) [0x11, 0x11] 144 []
     let trail (bad first : Bool) := tileRun (.mattn true 1 6 0 none) [0x11, 0x11] 276 [(276, .trail 3 (List.replicate 64 0) 0x3F800000 bad first)]
     r.e.ins = .mattn true 1 6 0 none ∧ fwA (nthD 0 r.e.cap 1) ≤ 4 ∧ depthOf (fwA (nthD 0 r.e.cap 0)) + 12 ≤ r.k ∧
     rowsAt (cadence 1) r.e.rem (r.k - depthOf 1 - 12) = [0] ∧
     (∀ bad ∈ [true, false], ∀ first ∈ [true, false], (trail bad first).wr.filter (fun w => w.1 == (trail bad first).k) =
       [((trail bad first).k, .trail 3 (List.replicate 64 0) 0x3F800000 bad first)]) ∧ (List.replicate 64 (0 : Cell32)).length = 64) ∧
    (∀ oog ∈ List.range 3,
     let kn : Knots := ⟨0x3F800000C0000000, BitVec.ofNat 64 (oog * 4096 + 0x104)⟩
     let z (x : Nat) := fp32.decode (fp32.round .rne (Val.div (Val.add .rne (fp32.decode x) kn.x0.negate) kn.h))
     let t (x : Nat) := fp32.decode (fp32.round .rne (Val.add .rne (z x) (Val.ofInt (1 - (kn.g : Int)))))
     kn.oog = oog ∧ kn.x0.isFinite = true ∧ kn.h.isFinite = true ∧ kn.h = fp32.decode 0x3F800000 ∧ 1 ≤ kn.g ∧ kn.g = 4 ∧
     (fp32.decode 0x7FC00000).isNan = true ∧ z 0xBF000000 = fp32.decode 0x3FC00000 ∧ z 0xFF800000 = .inf true ∧
     z 0xC0400000 = fp32.decode 0xBF800000 ∧ z 0xC1A00000 = fp32.decode 0xC1900000 ∧ z 0x7F800000 = .inf false ∧ t 0x7F800000 = .inf false ∧
     z 0x40000000 = fp32.decode 0x40800000 ∧ t 0x40000000 = fp32.decode 0x3F800000 ∧ t 0x42000000 = fp32.decode 0x41F80000) ∧
    (fp32.decode 0x3F000000).isFinite = true ∧
    (∀ p ∈ [(Instr.msplEv 0 true 1 6 0 none, (0x22 : Word), 148), (.msplEv 0 true 1 6 0 none, 0x11, 160), (.msplDx 0 true 1 6 7 0 none, 0x22, 156),
        (.msplDx 0 true 1 6 7 0 none, 0x11, 168), (.msplGs 0 true 1 6 7 0 none, 0x22, 140)],
     let r := tileRun p.1 [0x3F800000C0000000, 0x104, p.2.1] p.2.2 []
     r.e.ins = p.1 ∧ rowsAt (splCadence r.e) r.e.rem (r.k - p.2.2) = [0] ∧ (nthD 0 r.e.cap 2 = 0x11 ∨ fwB (nthD 0 r.e.cap 2) ≠ 1)) := by
  refine ⟨?_, ?_, ?_, ?_, ?_⟩ <;> decide +kernel

theorem witness_ClearRescaleAndReadoutRows :
    (let r (i : Instr) (cap : List Word) (k n : Nat) := runOf (entryOf i cap 0 0 0 0) .m k (List.replicate n 0) none
     (r (.mclr 3 0 false 63 none) [] 1 0).k = 1 ∧ (r (.mclr 2 2 false 63 none) [] 1 0).e.ins = .mclr 2 2 false 63 none ∧ (2 : BitVec 2) ≠ 3 ∧
     5 ≤ (r (.mresc 4 true (h 20) 0 none) [] 5 256).k ∧ (r (.mresc 4 true (h 20) 0 none) [] 5 256).k - 5 ≤ (0 : BitVec 6).toNat ∧
     (0 : BitVec 6).toNat < 6 - 5 ∧
     (let mx (v : Nat) := Val.fmax (fp32.decode ((M.dat 0).rmx 0)) (fp32.decode v)
      (mx 0x7FC00000).isNan = true ∧ mx 0x7F800000 = .inf false ∧ (mx 0x40A00000).isNan = false ∧ mx 0x40A00000 ≠ .inf false ∧
      fp32.round .rne (mx 0xFF800000) = 0xFF800000 ∧ fp32.round .rne (mx 0x40A00000) ≠ 0xFF800000 ∧ (M.dat 0).rmx 0 = 0xFF800000 ∧
      ((M.dat 0).setRmx 0 0x40000000).rmx 0 ≠ 0xFF800000) ∧
     -- readouts to the grid and to SRAM, of FP32, FP64 and byte elements, with amax and CLR
     (∀ p ∈ [((0x10010000 : Word), 1, 256), (0x10010080, 1, 256), (0x10010200, 1, 256), (0xA0018200, 2, 512), (0x10013180, 1, 64)],
      let x := r (.mrd 1 8 0 0 none) [p.1] p.2.1 (8 + p.2.2)
      x.e.ins = .mrd 1 8 0 0 none ∧ fld p.1 12 4 ≤ 10 ∧ isMx (fld p.1 12 4) = false ∧ x.data.length = 8 + p.2.2 * 1 ∧ 1 < fld p.1 16 6 + 1) ∧
     (r (.mrd 1 8 0 0 none) [0xA0018200] 1 8).data.length = 8 + 64 * 8 * 0) ∧
    (∀ m ∈ [(-(2 ^ 95) : Int), 2 ^ 95 - 1, -(2 ^ 95 - 1), 5], nthD 0 (((M.dat 0).setExactRow 0 3 [m]).exactRow 0 3) 0 = m) ∧
    (let x := runOf (entryOf (.msplRd 7 13 1 0 none) [] 0 0 0 0) .m 5 (List.replicate 65536 0) none
     x.k < 64 * ((7 : BitVec 3).toNat + 1) ∧ x.data.length = 8192 * ((7 : BitVec 3).toNat + 1)) ∧
    (∀ k ∈ [5, 63], (runOf (entryOf (.msplLd 1 3 5 none) [] 0 0 0 0) .m k [] none).k < 64 * ((3 : BitVec 5).toNat + 1)) := by
  refine ⟨?_, ?_, ?_, ?_⟩ <;> decide +kernel

theorem witness_EffectsOfACycle :
    7 < 8 ∧ 63 < 64 ∧
    (let rs : List Run := [{ runOf (entryOf (.vmov (h 1) (h 2) none) [] 0 0 0 0) .v 1 [] none with wr := [(1, .grid [(5, 7)])] }]
     (∀ r ∈ rs, r.q.timed = true) ∧ ∀ r ∈ rs, (r.k, WEff.grid [(5, 7)]) ∈ r.wr) := by decide

theorem witness_ArithmeticAndRounding :
    (let x : Val := .fin false 3 (-1)
     let y : Val := .fin true 5 2
     (3 : Nat) ≠ 0 ∧ (5 : Nat) ≠ 0 ∧ x.isFinite = true ∧ y.isFinite = true ∧ Val.fin true 4 0 ≠ .nan ∧ fp32 ∈ [fp32, bf16, fp16, fp64, e4m3, e5m2] ∧
     5 < 2 ^ fp32.eb ∧ 5 < 2 ^ fp32.fb ∧ 0 < 2 ^ fp32.eb ∧ 2 ^ e4m3.eb - 1 < 2 ^ e4m3.eb ∧ (2 ^ e4m3.fb - 1) < 2 ^ e4m3.fb) ∧
    (-320 : Int) ≤ 3 ∧ |(8 : Int)| < 8192 ∧
    ((∃ v ∈ [Val.nan, .fin false 1 0], v.isFinite = false) ∧ (∀ v ∈ [Val.fin false 1 0, .fin true 3 (-2)], v.isFinite = true)) ∧
    ([1, 2] : List Nat).length = 2 ^ 1 ∧ (scanOrdered (fun a b => a + b) [1, 2])[0]? = some 1 := by decide +kernel

theorem witness_UntimedOperationsIssue :
    (let e := entryOf (.flLd 0 false 12 9 0 ⟨2, 0⟩) [] 0 0 0x2000000 0
     (issues e).focus.cur = some e ∧ (issues e).parts 0 e.map e.v1.toNat (64 * 4 ^ 0) = [(e.v1.toNat, 64 * 4 ^ 0, some (entryAt_ 0x2000 16 4 1024))] ∧
     findEntry ((issues e).gangOf 0) ((issues e).mapOf 0 e.map) e.v1.toNat = some (entryAt_ 0x2000 16 4 1024) ∧
     dieOf (((issues e).gangOf 0).coachAt (remoteCoach ((issues e).gangOf 0) (entryAt_ 0x2000 16 4 1024) e.v1.toNat)) = dieOf 0) ∧
    lookup? (M.coach 0).fab.groups 2 = none ∧
    (let g : Group := { all := false, src := 0, dst := 64, map := 0, mem := [(0, 0)] }
     lookup? ((onCoach (fun k => { k with fab := { k.fab with groups := [(2, g)] } }) M).coach 0).fab.groups 2 = some g) ∧
    (let e := entryOf (.fcollSet 2 9 0 ⟨0, 0⟩) [] 0 0 0 0
     (M.readGroup 0 e).2 = none ∧ 
     (let s := onGang (fun g => { g with words := [0, 0x10002], coaches := [0, 1] })
        { M with mem := ((M.mem.setNum (.sram 0 0) 8 2).setNum (.sram 0 8) 8 0x2000000).setNum (.sram 0 16) 8 0x2000000 }
      let s1 : State := { s with mem := s.mem.setNum (.sram 0 36) 4 1 }
      (s1.readGroup 0 e).2 ≠ none)) := by decide +kernel

/-- An operation 9 of core 0, of a queue. -/
def opOf (q : Queue) (e : Entry) : Op :=
  { id := 9, q := q, e := e, at_ := 0, pos := 0, done := false, val := 0, stat := 0, due := 0, cells := [], bytes := [], data := [], parts := []
    grp := none }

/-- Core 0 has an operation under way. -/
def withOp (o : Op) (s : State) : State := onEng (fun x => { x with ops := [o] }) s

/-- Message 5, handled from now on. -/
def withMsg (m : Msg) (s : State) : State := { s with net := [(5, m)] }

/-- Coach 0 holds a remote write. -/
def withOut (w : OutW) (s : State) : State := onCoach (fun k => { k with fab := { k.fab with out := [w] } }) s

/-- A message of coach 0 to itself. -/
def msg0 (kind : MsgKind) : Msg := { msgOf kind 0 0 1 with nums := [(0, 0)] }

/-- A remote write of core 0 that counts in an allowance, number 0 of stream 0 to die 1. -/
def out0 : OutW :=
  { id := 3, core := 0, stream := 0, nums := [(0, 0)], dstDie := 1, dstCo := 8, loc := .sram 8 0, par := none, mask := 0, data := [], rel := none
    sent := true, last := 0, tried := [], wal := 15, cls := 1, lco := 0, atom := none, opId := 9 }

/-- A copy of SRAM by so many bytes, with the unit it has read. -/
def copyOp (b : List Host.Cell) (len : Word) : Op := { opOf .l (entryOf (.cp 1 2 3 2 none) [] 0 0x200000 0 len) with bytes := b }

/-- A gather of eight rows and so many columns of two bytes, with the unit it has read. -/
def gatherOp (b : List Host.Cell) (cols : Nat) : Op :=
  { opOf .l (entryOf (.ldx 1 2 3 2 none) [BitVec.ofNat 64 (2 ^ 62 + 7 * 2 ^ 50 + cols * 2 ^ 38 + 8)] 0 0 0x1000000 0) with bytes := b }

/-- A unit that has been read. -/
def unit64 : List Host.Cell := List.replicate 64 (0, 7)

theorem witness_CopiesAndGathersComplete :
    (∀ o ∈ [copyOp [] 64, copyOp unit64 64, copyOp [] 128, copyOp unit64 128],
     let s := withOp o M
     let busy : State := { s with slots := [(0, 1), (1, 1), (2, 1), (3, 1)] }
     (s.eng 0).op? 9 = some o ∧ o.due ≤ s.cyc ∧ s.cyc < ({ o with due := 1 } : Op).due ∧
     s.ctxServed 0 o.e.map o.e.ver 0 64 = true ∧ s.ctxServed 0 o.e.map o.e.ver 0x200000 64 = true ∧
     busy.ctxServed 0 o.e.map o.e.ver 0 64 = false ∧ busy.ctxServed 0 o.e.map o.e.ver 0x200000 64 = false ∧
     Covers s 0 o.e.map 0 64 (entryAt_ 0 512 1 0) ∧ Covers s 0 o.e.map 0x200000 64 (entryAt_ 512 512 1 512) ∧
     (entryAt_ 0 512 1 0).home = 1 ∧ (entryAt_ 512 512 1 512).home = 1 ∧ (s.coach 0).ph.prep = false) ∧
    (∀ o ∈ [gatherOp [] 3, gatherOp unit64 3, gatherOp [] 7, gatherOp unit64 7],
     let f : Word := nthD 0 o.e.cap 0
     let cols := f.toNat / 2 ^ 38 % 4096
     let s := withOp o M
     let busy := onCoach (fun k => { k with tl := { k.tl with running := true } }) s
     (s.eng 0).op? 9 = some o ∧ o.due ≤ s.cyc ∧ 2 ^ (f.toNat / 2 ^ 62) = 2 ∧ f.toNat / 2 ^ 50 % 4096 + 1 = 8 ∧
     f.toNat % 2 ^ 36 = 8 ∧
     ((List.range 32).all fun q => s.ctxServed 0 o.e.map o.e.ver (0x1000000 + (q % 8 * 8 + q / 8 * 2)) 2) = true ∧
     busy.ctxServed 0 o.e.map o.e.ver 0x1000000 2 = false ∧ s.ctxServed 0 o.e.map o.e.ver 0 64 = true ∧
     o.pos + 64 ≤ 8 * (cols + 1) * 2 ∧ o.pos % 2 = 0 ∧ Covers s 0 o.e.map 0x1000000 (7 * 8 + (cols + 1) * 2) (entryAt_ 0x1000 16 2 0) ∧
     Covers s 0 o.e.map 0 64 (entryAt_ 0 512 1 0) ∧ (entryAt_ 0x1000 16 2 0).home = 2) ∧
    (entryOf (.cp 1 2 3 2 none) [] 5 0 0 0).lookupWaits = true := by
  unfold Covers
  refine ⟨?_, ?_, ?_⟩ <;> decide +kernel

/-- Tier move 4 of page 0 of tenant 1, from or to granule 0 of coach 0. -/
def moving (up dirty : Bool) : State :=
  onDie (fun d => { d with
    moves := [{ id := 4, tenant := 1, page := 0, promote := up, coach := 0, slot := 0, due := 0 }]
    pages := [(pageKey 1 0, { Page.reset with coach := some 0, dirty := dirty })] }) M

/-- A granule of coach 0 to copy or to zero. -/
def write0 (src : Option Loc) (wait : Bool) : ShiftWrite := { dst := .sram 0 0x200000, src := src, wait := wait }

/-- One byte that waits to be mirrored to HBM, and a coach on which it waits, its segment running or not. -/
def mirror0 : Mirror := { core := 0, src := .sram 0 0, dst := .hbm 0 0, cells := [(0, 5)] }
@[inherit_doc mirror0]
def mirroring (run : Bool) : State :=
  onCoach (fun k => { k with tl := { k.tl with running := run }, ph := { k.ph with due := 1, mirrors := [mirror0] } }) M

theorem witness_BackgroundCopyEngines :
    (∀ up ∈ [true, false], ∀ dirty ∈ [true, false],
      let s := moving up dirty
      ∀ m ∈ (s.die 0).moves, (s.die 0).moves.find? (fun x => x.id == 4) = some m ∧ m.due ≤ s.cyc ∧ m.promote = up ∧
        (lookupD Page.reset (s.die 0).pages (pageKey m.tenant m.page)).dirty = dirty ∧ (s.die 0).lost = false ∧
        (∀ x ∈ (s.die 0).moves, x.promote = up) ∧ ∀ i ∈ List.range 16, (s.coach m.coach).pcServed s.cyc ((m.slot * 16 + i) % 128) = true) ∧
    ((onDie (fun d => { d with lost := true }) M).die 0).lost = true ∧
    (M.die 0).capSize 1 = 0 ∧ ((onDie (fun d => { d with regs := d.regs.put 0x2318 16 }) M).die 0).capSize 1 = 16 ∧
    (∀ run ∈ [true, false],
      let s := mirroring run
      (s.coach 0).stand = .running ∧ s.cyc < (s.coach 0).ph.due ∧ (s.coach 0).ph.mirrors = [mirror0] ∧ s.mirrorServed 0 mirror0 = !run) := by
  refine ⟨?_, ?_, ?_, ?_, ?_⟩ <;> decide +kernel

theorem witness_ShiftEngine :
    (∀ src ∈ [some (Loc.sram 0 0), none], ∀ wait ∈ [true, false],
      let w := write0 src wait
      let s := onCoach (fun k => { k with ph := { k.ph with prep := true, work := [w], reach := List.range 16 } }) M
      (s.coach 0).stand = .running ∧ (s.coach 0).ph.due ≤ s.cyc ∧ (s.coach 0).ph.prep = true ∧ s.nextWrite 0 = some w) ∧
    (let w := write0 (some (.sram 0 0)) false
     let s := onCoach (fun k => { k with ph := { k.ph with stepWork := [w] } }) M
     (s.coach 0).ph.prep = false ∧ s.nextCopy 0 = some w) ∧
    (let s := onCoach (fun k => { k with ph := { k.ph with prep := true, work := [write0 none true] } }) M
     (s.coach 0).ph.prep = true ∧ s.nextWrite 0 = none) ∧
    (M.coach 0).stand = .running ∧ (M.coach 0).ph.prep = false ∧ M.nextCopy 0 = none := by decide +kernel

/-- A K operation of core 0 under way, with pool 0 of tenant 1 there or not. -/
def kRuns (en done : Bool) (i : Instr) : State :=
  withOp { opOf .k (entryOf i [] 0 5 1 0) with done := done }
    (onDie (fun d => { d with regs := d.regs.put 0x10208 (if en then 0x8000000000000010 else 0)
                              pools := [(poolKey 1 0, { Pool.reset with seqs := [(5, ⟨[], 0, 0, 1⟩)] })] }) M)

theorem witness_KOperationsApply :
    (∀ i ∈ [Instr.spanOpen 3 2 ⟨2, 0⟩, .spanApp 2 3 ⟨2, 0⟩, .spanRt 0 3 2 3 ⟨2, 0⟩, .spanRt 1 3 2 3 ⟨2, 0⟩, .kvFork 1 2 3 4 ⟨2, 0⟩,
        .kvDrop 2 ⟨2, 0⟩], ∀ en ∈ [true, false],
      let s := kRuns en false i
      (∀ o ∈ (s.eng 0).ops, (s.eng 0).op? 9 = some o ∧ o.q = .k ∧ o.e.ins = i ∧ o.e.v0 = 5 ∧ o.e.v1 = 1 ∧ o.done = false ∧ o.due ≤ s.cyc) ∧
      flag ((s.die 0).kvpb (s.gangOf 0).tenant 0) 63 = en ∧ (5 : Word).toNat < 2 ^ 18 ∧ 2 ^ 18 ≤ (0x40000 : Word).toNat) ∧
    (let p : Pool := { Pool.reset with seqs := [(5, ⟨[], 0, 0, 1⟩), (6, ⟨[], 0, 0, 0⟩)] }
     lookup? p.seqs 4 = none ∧ lookup? p.seqs 5 = some ⟨[], 0, 0, 1⟩ ∧ hasKey p.seqs 5 = true ∧ 0 < 4096 ∧ 4096 ≤ 4096 ∧ 4096 < 4097 ∧
     lookup? p.seqs 6 = some ⟨[], 0, 0, 0⟩) ∧
    (∀ i ∈ [Instr.spanApp 2 3 ⟨2, 0⟩, .kvPlan 0 1 2 0 ⟨2, 0⟩, .kvWalk 0 0 2 3 ⟨2, 0⟩],
     let s := kRuns true true i
     (s.eng 0).shr = [] ∧ (s.coach (coachOf 0)).ph.prep = false ∧
     -- nothing to write, the last unit, and a first unit of two
     ∀ o ∈ (s.eng 0).ops, ∀ n ∈ [0, 64, 128],
       let y : Op := { o with bytes := List.replicate n ((Loc.sram 0 64).key, 1) }
       let u := withOp y s
       (u.eng 0).op? 9 = some y ∧ y.q = .k ∧ y.done = true ∧ y.due ≤ u.cyc ∧ y.e.ins = i ∧ u.cellsServed (y.unit y.bytes) = true ∧
       (n = 0 ∨ ({ u with slots := [(1, 1)] } : State).cellsServed (y.unit y.bytes) = false) ∧ (y.pos + (64 - ((y.bytes.drop y.pos).headD (0, 0)).1 % 64) < y.bytes.length ↔ n = 128)) := by
  refine ⟨?_, ?_, ?_⟩ <;> decide +kernel

theorem witness_KOperationsIssue :
    (let e := entryOf (.fbar ⟨2, 0⟩) [] 0 0 0 0
     let s := onEng (fun x => { x with qf := [e] }) M
     (s.eng 0).qf = [e] ∧ (s.coach 0).stand = .running ∧ s.untimedReady 0 .f e = true ∧ e.ins.queue? = some .f ∧
     ∃ x, exec e.ins ((s.setEng 0 ((s.eng 0).setQueue .f [])).focusEntry 0 e) = .next x) ∧
    (let e := entryOf (.spanOpen 3 2 ⟨2, 0⟩) [] 0 5 0 0
     let s := onEng (fun x => { x with qk := [e] }) M
     (s.eng 0).qk = [e] ∧ (s.eng 0).op? e.id = none ∧ s.untimedReady 0 .k e = true ∧ e.ins.queue? = some .k ∧
     ∃ x, exec e.ins ((s.setEng 0 ((s.eng 0).setQueue .k [])).focusEntry 0 e) = .next x) ∧
    (let e (q : Queue) := entryOf (.qWait q 0 none) [] 0 0 0 0
     let s (q : Queue) := withOp (opOf q (entryOf (.fbar ⟨2, 0⟩) [] 0 0 0 0)) (onEng (fun x => { x with qf := [e .f], qk := [e .k] }) M)
     ((s .f).coach 0).stand = .running ∧ ((s .f).eng 0).qf = [e .f] ∧ (e .f).ins.queue? = some .f ∧ (s .f).untimedReady 0 .f (e .f) = false ∧
     ((s .k).eng 0).qk = [e .k] ∧ (e .k).ins.queue? = some .k ∧ ((s .k).eng 0).op? (e .k).id = none ∧
     (s .k).untimedReady 0 .k (e .k) = false) :=
  ⟨⟨by decide +kernel, by decide +kernel, by decide +kernel, by decide +kernel, of_isNext (by decide +kernel)⟩,
    ⟨by decide +kernel, by decide +kernel, by decide +kernel, by decide +kernel, of_isNext (by decide +kernel)⟩, by decide +kernel⟩

/-- Link 0 of die 0 and the link at its other end. -/
def linked (x y : Link) : State :=
  { M with present := [0, neighbour 0 0], links := [(0, x), (neighbour 0 0 * 6 + opposite 0, y)] }

theorem witness_LinkEvents :
    (0 : Nat) ≠ neighbour 0 0 * 6 + opposite 0 ∧
    (let m := { msgOf .ack 0 1 0 with cls := 2 }
     let x : Link := { Link.reset with up := true, wait := [m] }
     let s := linked x Link.reset
     (s.link 0).up = true ∧ (s.link 0).retrain = false ∧ pickClass x = some (2, 5) ∧ x.wait.find? (fun m => m.cls == 2) = some m ∧
     s.link 0 = x) ∧
    (let m := msgOf .ack 0 1 0
     let x : Link := { Link.reset with up := true, wait := [m] }
     x.wait.find? (fun m => m.cls == 0) = some m ∧ pickClass x = some (0, x.share)) ∧
    (let f : Flit := { msg := { msgOf .ack 1 0 0 with dst := 0 }, lseq := 0 }
     let s := linked { Link.reset with up := true } { Link.reset with up := true, wire := [f] }
     let y := s.link (neighbour 0 0 * 6 + opposite 0)
     y.wire = [f] ∧ y.retrain = false ∧ s.noise.headD false = false ∧ ({ s with noise := [true] } : State).noise.headD false = true ∧
     f.msg.dst = 0 ∧ (s.die 0).lost = false ∧ ((onDie (fun d => { d with lost := true }) s).die 0).lost = true) ∧
    -- a flit on its way from die 1 to die 7 over die 0, whose link to it carries something or not
    (∀ kind ∈ [MsgKind.ack, .read], ∀ up ∈ [true, false],
     let f : Flit := { msg := msgOf kind 1 7 0, lseq := 0 }
     let s := linked { Link.reset with up := true } { Link.reset with up := true, wire := [f] }
     let t : State := { s with links := s.links ++ [(1, { Link.reset with up := up })] }
     (t.link 7).wire = [f] ∧ (t.link 7).retrain = false ∧ t.noise.headD false = false ∧ f.msg.dst ≠ 0 ∧ neighbour 0 0 * 6 + opposite 0 = 7 ∧
     (routeLinks f.msg.src f.msg.dst (f.msg.order, f.msg.long)).find? (fun j => j / 6 == 0) = some 1 ∧ (1 : Nat) ≠ 7 ∧
     (t.link 1).dead = !up ∧ f.msg.kind = kind) ∧
    (let s (n : Nat) := linked { Link.reset with up := true, mode := n } { Link.reset with up := true, mode := n }
     Link.reset.dead = true ∧ ((s 0).link 0).dead = false ∧ ((s 0).link 0).mode < 3 ∧ ((s 3).link 0).dead = false ∧ ((s 3).link 0).mode = 3 ∧
     ((s 3).link 0).wire = [] ∧ ((s 3).link 0).wait = [] ∧
     (let t : State := { s 3 with present := [0, neighbour 0 0, 99] }
      99 ∈ t.present ∧ 99 ≠ 0 ∧ 99 ≠ neighbour 0 0 ∧ (t.die 99).lost = false)) ∧
    (∀ kind ∈ [MsgKind.ack, .read],
     let f : Flit := { msg := msgOf kind 0 1 0, lseq := 0 }
     let s := linked { Link.reset with up := true, mode := 3, wire := [f] } { Link.reset with up := true, mode := 3 }
     (s.link 0).dead = false ∧ (s.link 0).mode = 3 ∧ (s.link 0).wire = [f] ∧ (s.link 7).wire = [] ∧ (s.link 0).wait = [] ∧
     (s.link 7).wait = [] ∧ isNext (exec (.linkRetrain 0 0) (s.setLink 0 { s.link 0 with wire := [] })) = true) ∧
    (let s := linked { Link.reset with retrain := true } { Link.reset with retrain := true }
     (s.link 0).retrain = true ∧ (s.link 0).due ≤ s.cyc ∧ ((linked Link.reset Link.reset).link 0).retrain = false ∧
     s.cyc < ({ s.link 0 with due := 1 } : Link).due) ∧
    (let s := withMsg (msg0 (.linkState 6)) M
     lookup? s.net 5 = some (msg0 (.linkState 6)) ∧ (msg0 (.linkState 6)).due ≤ s.cyc) := by
  refine ⟨?_, ?_, ?_, ?_, ?_, ?_, ?_, ?_, ?_⟩ <;> decide +kernel

/-- M with coach 0 expecting number n of the triple of coach 0 and stream 0. -/
def expecting (n : Nat) (m : Msg) : State :=
  withMsg m (onCoach (fun k => { k with fab := { k.fab with expect := [(tripleKey 0 0, n)] } }) M)

/-- A write of 256 bytes, and an atomic of so many bytes, that come to coach 0 as number 5. -/
def wmsg : Msg := { msg0 .write with data := List.replicate 256 7, mask := 1, nums := [(0, 5)], src := 0 }
@[inherit_doc wmsg]
def amsg (size : Nat) : Msg := { wmsg with data := List.replicate size 0, opnd := [0, size, 3, 4] }

theorem witness_RemoteWritesAndReads :
    (∀ m ∈ [wmsg, amsg 4, amsg 8],
     let s := expecting 5 m
     let idle := onCoach (fun k => { k with gang := none }) s
     let cut := onCoach (fun k => { k with fab := { k.fab with broken := [(0, 0)] } }) s
     lookup? s.net 5 = some m ∧ m.due ≤ s.cyc ∧ m.kind = .write ∧ m.src = m.dst ∧ (s.die m.dst).lost = false ∧ s.msgServed m = true ∧
     (s.coach m.dstCo).gang ≠ none ∧ s.tripleBroken m.srcCo m.dst m.nums = false ∧ (s.die m.dst).heldW = [] ∧ m.par = none ∧
     (s.fabAt m).isNext m.srcCo m.nums = true ∧ ((expecting 6 m).fabAt m).isNext m.srcCo m.nums = false ∧
     (∃ p ∈ m.nums, 2 ^ 23 ≤ ((expecting 6 m).fabAt m).ahead m.srcCo p) ∧ ((expecting 4 m).fabAt m).isNext m.srcCo m.nums = false ∧
     (∀ p ∈ m.nums, ((expecting 4 m).fabAt m).ahead m.srcCo p < 2 ^ 23) ∧
     ({ s with slots := [(1, 1)] } : State).msgServed m = false ∧ (idle.coach m.dstCo).gang = none ∧
     cut.tripleBroken m.srcCo m.dst m.nums = true ∧ s.begun 5 m = false ∧
     (let two := { s with net := s.net ++ [(6, { m with got := [1] })] }
      two.begun 5 m = true ∧ lookup? two.net 5 = some m ∧ two.msgServed m = true) ∧
     (∀ l ∈ [[], [5], [6]],
      let t := onDie (fun d => { d with heldW := l }) { expecting 4 m with net := [(5, m), (6, m)] }
      (5 ∈ (t.die m.dst).heldW ↔ l = [5]) ∧ (l = [] → t.twin m = false) ∧ (l = [6] → t.twin m = true))) ∧
    -- a write and a parity update whose last unit is to come
    (∀ kind ∈ [MsgKind.write, .parity],
     let m := { wmsg with kind := kind, got := List.replicate 192 0, par := some (.sram 0 0x300000) }
     let s := expecting 5 m
     m.kind = kind ∧ m.got ≠ [] ∧ m.data.length ≤ m.got.length + 64 ∧ m.got.length ≤ m.data.length ∧ s.msgServed m = true ∧
     (s.fabAt m).isNext m.srcCo m.nums = true ∧ s.begun 5 m = false ∧ m.nums = [(0, 5)] ∧ m.dst = dieOf 0 ∧ (s.die 0).lost = false) ∧
    (wmsg.opnd = [] ∧ wmsg.data.length = 256 ∧ (amsg 4).opnd = [0, 4, 3, 4] ∧ (amsg 8).opnd = [0, 8, 3, 4] ∧
     lookup? (onDie (fun d => { d with olds := [((amsg 8).id, 9)] }) M |>.die 0).olds (amsg 8).id = some 9 ∧ (amsg 8).id ∉ (M.die 0).parity) ∧
    (let m := { wmsg with kind := .parity }
     let s := withMsg m M
     lookup? s.net 5 = some m ∧ m.due ≤ s.cyc ∧ m.kind = .parity ∧ s.msgServed m = true ∧ m.data.length = 256 ∧ m.got.length + 64 < 256 ∧
     ({ s with slots := [(1, 1)] } : State).msgServed m = false) ∧
    (∀ size ∈ [64, 256],
     let m := { msg0 .read with opnd := [size] }
     let s := expecting 1 m
     lookup? s.net 5 = some m ∧ m.due ≤ s.cyc ∧ m.kind = .read ∧ s.msgServed m = true ∧ (m.got.length + 64 < size ↔ size = 256) ∧
     (s.fabAt m).committed m.srcCo m.nums = true ∧ m.src = m.dst ∧ (s.die m.dst).lost = false ∧
     ({ s with slots := [(1, 1)] } : State).msgServed m = false ∧
     ((expecting 0 m).fabAt m).committed m.srcCo m.nums = false) ∧
    (let m := { msg0 .ack with id := 3 }
     let s := withSr 0x07F 0x0000000500000000 (withOut out0 (withMsg m M))
     lookup? s.net 5 = some m ∧ m.due ≤ s.cyc ∧ m.kind = .ack ∧ m.data = [] ∧ s.answered m = some out0 ∧ out0.wal < 16 ∧
     0 < fld ((s.ctl out0.core).sr.get (0x070 + out0.wal)) 32 11 ∧ (withMsg m M).answered m = none) ∧
    (let m := { msg0 .ack with id := 3, data := [1, 2, 3, 4, 5, 6, 7, 8] }
     let w := { out0 with wal := 16 }
     let o := opOf .f (entryOf (.fam 0 0 true 1 2 3 ⟨2, 0⟩) [] 0 0 0 0)
     let s := withOp o (withOut w (withMsg m M))
     let cells := s.ctxCells 0 o.e.ver (s.parts 0 o.e.map 0 8) m.data
     m.kind = .ack ∧ m.data ≠ [] ∧ s.answered m = some w ∧ w.wal = 16 ∧
     (s.eng w.core).op? w.opId = some o ∧ o.pos = 0 ∧ o.e.ins = .fam 0 0 true 1 2 3 ⟨2, 0⟩ ∧ Covers s 0 o.e.map 0 8 (entryAt_ 0 512 1 0) ∧
     m.data.length = 8 ∧ (s.coach 0).ph.prep = false ∧ s.cellsServed cells = true ∧
     ({ s with slots := [(1, 1)] } : State).cellsServed cells = false) := by
  unfold Covers
  refine ⟨?_, ?_, ?_, ?_, ?_, ?_, ?_⟩ <;> decide +kernel

theorem witness_RetransmissionAndReadData :
    (let r : RelSet := ⟨[], [7], []⟩
     let w := { out0 with sent := false, rel := some r }
     let s := withOut w M
     let s1 := onEng (fun x => { x with run := [runOf (entryOf (.vmov (h 1) (h 2) none) [] 0 0 0 0) .v 1 [] none] }) s
     (s.coach (coachOf 0)).fab.out.find? (fun w => w.id == 3 && w.core == 0 && !w.sent) = some w ∧ w.rel = some r ∧
     s.releaseDone 0 r = true ∧ (s1.coach (coachOf 0)).fab.out.find? (fun w => w.id == 3 && w.core == 0 && !w.sent) = some w ∧
     s1.releaseDone 0 r = false) ∧
    (let s (n : Nat) (w : OutW) : State :=
       { withOut w { M with cyc := n } with links := (List.range 6).map fun i => (i, { Link.reset with up := true }) }
     let w := { out0 with tried := [(0, 0)] }
     let v := { out0 with tried := allRoutes 0 1 }
     ((s 0 w).coach 0).fab.out.find? (fun w => w.id == 3) = some w ∧ (s 0 w).retransmitDue 0 w = false ∧
     (s 16384 w).retransmitDue 0 w = true ∧ (s 16384 w).routeFrom (dieOf 0) w.dstDie w.tried = some (0, 1) ∧
     (routeLinks (dieOf 0) w.dstDie (0, 1)).find? (fun j => j / 6 == dieOf 0) = some 1 ∧ w.nums ≠ [] ∧
     (s 16384 v).retransmitDue 0 v = true ∧ (s 16384 v).routeFrom (dieOf 0) v.dstDie v.tried = none ∧
     ((s 16384 v).coach 0).fab.broken = [] ∧ ((s 16384 v).ctl v.core).own = false ∧
     (s 16384 v).routeFrom (dieOf 0) v.dstDie [] = some (0, 0) ∧
     (routeLinks (dieOf 0) v.dstDie (0, 0)).find? (fun j => j / 6 == dieOf 0) = some 0 ∧ ((s 16384 v).die 0).lost = false ∧
     ((s 16384 v).link 0).dead = false ∧
     (let t := onCoach (fun k => { k with fab := { k.fab with broken := [(2, 0)] } }) (s 16384 v)
      (t.coach 0).fab.broken ≠ [] ∧ t.retransmitDue 0 v = true)) ∧
    (let s := withMsg (msg0 .brk) M
     lookup? s.net 5 = some (msg0 .brk) ∧ (msg0 .brk).due ≤ s.cyc ∧ (s.ctl ((msg0 .brk).dstCo * 16)).own = false ∧
     s.keeper (msg0 .brk).dstCo = 0 ∧ (s.coach 0).fab.ended = false ∧
     ((onCoach (fun k => { k with fab := { k.fab with ended := true } }) s).coach 0).fab.ended = true) ∧
    (∀ z ∈ [(0 : BitVec 2), 1],
     let n := 64 * 4 ^ z.toNat
     let m := { msg0 .readData with id := 9, data := List.replicate n 3, opnd := [n, 0] }
     let o := opOf .f (entryOf (.flLd z false 12 9 0 ⟨2, 0⟩) [] 0 0 0x2000000 0)
     let s := withOp o (withMsg m M)
     m.kind = .readData ∧ (s.eng m.core).op? m.id = some o ∧ o.e.ins = .flLd z false 12 9 0 ⟨2, 0⟩ ∧ o.parts = [] ∧ m.data.length = n ∧
     (let cells := s.ctxCells 0 o.e.ver (s.parts 0 o.e.map o.e.v0.toNat n) m.data
      let len := 64 - ((cells.drop o.pos).headD (0, 0)).1 % 64
      let unit := (cells.drop o.pos).take len
      s.cellsServed unit = true ∧ ({ s with slots := [(1, 1)] } : State).cellsServed unit = false ∧
      (o.pos + len < cells.length ↔ z = 1)) ∧ ({ o with parts := [(0, m.data)] } : Op).parts = [(nthD 0 m.opnd 1, m.data)] ∧
     (s.coach (coachOf m.core)).ph.prep = false ∧ ((withMsg m M).eng m.core).op? m.id = none) := by
  refine ⟨?_, ?_, ?_, ?_⟩ <;> decide +kernel

/-- A reduction to the root, or to every member, of a group of coach 0, with its contribution or without. -/
def redOp (all done : Bool) (n : Nat) : Op :=
  { opOf .f (entryOf (.fred 0 2 0 9 0 ⟨2, 0⟩) [] 0 0 0 0) with
    grp := some { all := all, src := 0, dst := 64, map := 0, mem := [(0, 0)] }, done := done
    parts := if n = 0 then [] else [(0, [0, 0, 0x80, 0x3F])] }

theorem witness_CollectivesAndHostCopies :
    (let o := opOf .f (entryOf (.flLd 0 false 12 9 0 ⟨2, 0⟩) [] 0 0 0x2000000 0)
     let s := withOp o M
     (s.eng 0).op? 9 = some o ∧ o.at_ + 1048576 ≤ ({ s with cyc := 1048576 } : State).cyc ∧ s.cyc < o.at_ + 1048576 ∧
     (o.parts.flatMap (·.2)).length < 64 ∧
     64 ≤ (({ o with parts := [(0, List.replicate 64 0)] } : Op).parts.flatMap (·.2)).length) ∧
    (∀ all ∈ [true, false], ∀ done ∈ [true, false],
     let o := redOp all done 1
     let s := withOp o M
     let late : State := { s with delays := [5] }
     (s.eng 0).op? 9 = some o ∧ o.e.ins = .fred 0 2 0 9 0 ⟨2, 0⟩ ∧ (o.grp.map (·.mem)) = some [(0, 0)] ∧ (o.grp.map (·.all)) = some all ∧
     o.parts.length = 1 ∧ (redOp all done 0).parts.length = 0 ∧ s.cyc < o.at_ + 1048576 ∧ (s.settleOp o).1.due ≤ s.cyc ∧
     (late.cyc < (late.settleOp o).1.due ↔ done = false) ∧
     (o.grp.map fun g => s.served true (s.memberLoc 0 g g.dst 0 0) 64) = some true ∧
     (o.grp.map fun g => ({ s with slots := [(1, 1)] } : State).served true (s.memberLoc 0 g g.dst 0 0) 64) = some false ∧
     -- a result of one unit, and of four
     (∀ p ∈ [(4, 4), (256, 256)],
       ((subtree 0 0 [(0, 0)] (fun i => redElems 0 (lookupD [] [(0, List.replicate p.1 0)] i)) 1 0).flatMap (bytesOf 4)).length = p.2)) ∧
    (∀ size ∈ [64, 256],
     let m := { msg0 .collective with id := 9, opnd := [0, size] }
     let o := opOf .f (entryOf (.fred 0 2 0 9 0 ⟨2, 0⟩) [] 0 0 0 0)
     let s := withOp o (withMsg m M)
     lookup? s.net 5 = some m ∧ m.due ≤ s.cyc ∧ m.kind = .collective ∧ (s.eng m.core).op? m.id = some o ∧ s.msgServed m = true ∧
     ({ s with slots := [(1, 1)] } : State).msgServed m = false ∧ (m.got.length + 64 < size ↔ size = 256)) ∧
    (let o := { opOf .f (entryOf (.fbar ⟨2, 0⟩) [] 0 0 0 0) with pos := 1 }
     let s := withOp o M
     let all : State := { s with cores := s.cores ++ (List.range 15).map fun i =>
       (i + 1, { Core.reset with ctl := { Ctl.reset with stand := .running, nfbar := 2 } }) }
     s.onCoaches 0 = true ∧ s.fbarNext (s.gang 0) = some 1 ∧ ((s.gang 0).cores.all fun i => s.fbarArrived i 1) = false ∧
     (∀ y ∈ (s.eng 0).ops, y.done = false) ∧ all.fbarNext (all.gang 0) = some 1 ∧ all.delays = [] ∧ all.fbarOp 0 1 = some o ∧
     ((all.gang 0).cores.all fun i => all.fbarArrived i 1) = true ∧ (onCoach (fun k => { k with gang := none }) s).onCoaches 0 = false) := by
  refine ⟨?_, ?_, ?_, ?_⟩ <;> decide +kernel

/-- A host copy of 64 bytes by handle slot 1, generation 1, one page, writable and readable. -/
def hostCopy (z : BitVec 2) (pos : Nat) (done : Bool) : State :=
  let s := withOp { opOf .f (entryOf (.cph z 1 2 3 ⟨2, 0⟩) [] 0 0 0x0001000100000000 64) with pos := pos, done := done }
    (onDie (fun d => { d with regs := d.regs.put 0x10110 1 }) M)
  { s with mem := s.mem.setNum (.dev 0 40) 8 0x8003000100000001 }

theorem witness_HostCopies :
    (∀ z ∈ [(0 : BitVec 2), 1],
      let s := hostCopy z 0 false
      ∀ o ∈ (s.eng 0).ops, (s.eng 0).op? 9 = some o ∧ o.q = .f ∧ o.done = false ∧ o.pos < o.e.v2.toNat ∧ o.due ≤ s.cyc ∧
        s.handleOk (dieOf 0) (s.gangOf 0).tenant o.e.v1 64 (z == 1) = true ∧ ({ s with noise := [true] } : State).noise.headD false = true ∧
        s.noise.headD false = false ∧
        s.ctxServed 0 o.e.map o.e.ver (o.e.v0.toNat + o.pos) 64 = true ∧ ¬ (nthD 0 o.data 0 + 64) % 4096 = 0 ∧
        ({ s with slots := [(1, 1)] } : State).ctxServed 0 o.e.map o.e.ver (o.e.v0.toNat + o.pos) 64 = false ∧
        (s.coach 0).ph.prep = false ∧ ({ s with mem := [] } : State).handleOk (dieOf 0) (s.gangOf 0).tenant o.e.v1 64 (z == 1) = false) ∧
    (∀ o ∈ ((hostCopy 0 64 false).eng 0).ops, o.e.v2.toNat ≤ o.pos ∧ o.due ≤ (hostCopy 0 64 false).cyc) ∧
    (∀ o ∈ ((hostCopy 0 0 true).eng 0).ops, o.done = true) ∧
    -- the second unit of a host granule
    (let o := { opOf .f (entryOf (.cph 0 1 2 3 ⟨2, 0⟩) [] 0 0 0x0001000100000000 128) with pos := 64, data := [0, 0] }
     let s := withOp o M
     (s.eng 0).op? 9 = some o ∧ o.pos < o.e.v2.toNat ∧ o.pos ≠ 0 ∧ (nthD 0 o.data 0 + o.pos) % 4096 ≠ 0 ∧ o.due ≤ s.cyc ∧
     s.ctxServed 0 o.e.map o.e.ver (o.e.v0.toNat + o.pos) 64 = true) := by decide +kernel

/-- A gang at a step: open or not, every core of coach 0 with blocks. -/
def stepping (o : Bool) (b : List Block) : State :=
  let s := onGang (fun g => { g with open_ := o, restarts := [(0, 77)] }) M
  { s with cores := (List.range 16).map fun i => (i, { Core.reset with ctl := { Ctl.reset with
      stand := .running, blocks := b, pend := [{ reg := 9, sh := false, hnd := false, left := 0, val := 0, wait := some 4 }] } }) }

/-- The same gang, stopped by a lost window of core 0, its coach saved; its record, if any, at 0x1000 with a state. -/
def spoiledStep (o : Bool) (recAt : Option Nat) (st : Nat) : State :=
  let s := onGang (fun g => { g with stand := .stopping, recAt := recAt }) (onCoach (fun k => { k with stand := .saved })
    (onCtl (fun c => { c with own := true, sr := c.sr.put 0x040 0x90 }) (stepping o [])))
  { s with mem := s.mem.setNum (.dev 0 0x1060) 1 st }

theorem witness_StepTransactionEvents :
    (let s := stepping false [.stepBegin]
     (s.gang 0).open_ = false ∧ (∀ c ∈ (s.gang 0).coaches, (s.coach c).stand = .running) ∧
     (∀ c ∈ (s.gang 0).cores, .stepBegin ∈ (s.ctl c).blocks) ∧ ∃ c ∈ (s.gang 0).cores, .stepBegin ∈ (s.ctl c).blocks) ∧
    (let s := onCoach (fun k => { k with stand := .draining }) (stepping true [.stepBegin])
     ¬ ∀ c ∈ (s.gang 0).coaches, (s.coach c).stand = .running) ∧
    (let s := onCoach (fun k => { k with ph := { k.ph with stepping := true } }) (stepping true [.stepBegin])
     (s.gang 0).open_ = true ∧ ∀ c ∈ (s.gang 0).coaches, (s.coach c).ph.stepping = true ∧ (s.coach c).ph.stepWork = [] ∧ (s.coach c).ph.prep = false) ∧
    (([(0 : Word), 1, 2, 3].all fun f =>
      let s := onCoach (fun k => { k with stepf := f }) (stepping true [.stepCommit 4 ⟨[], [], []⟩])
      decide ((s.gang 0).open_ = true ∧ (s.gang 0).coaches.Nodup ∧
      (∀ c ∈ (s.gang 0).cores, (s.ctl c).commitWait = some (4, ⟨[], [], []⟩) ∧ s.relDone c ⟨[], [], []⟩ = true ∧
        (s.ctl c).pend = [{ reg := 9, sh := false, hnd := false, left := 0, val := 0, wait := some 4 }] ∧ (s.ctl c).inHandler = false) ∧
      (∃ c ∈ (s.gang 0).cores, (s.ctl c).commitWait = some (4, ⟨[], [], []⟩)) ∧ (s.coach 0).stepf.getLsbD 0 = flag f 0)) = true) ∧
    ((let s := spoiledStep true none 0
      (s.gang 0).stand = .stopping ∧ s.spoiled (s.gang 0) = true ∧ ((s.gang 0).surviving.all fun c => (s.coach c).stand == .saved) = true ∧
      s.recordState 0 ≠ 1 ∧ (s.gang 0).open_ = true ∧ s.overdue (s.gang 0) = false ∧ s.sparePlan 0 = some [] ∧ lookup? (s.gang 0).restarts ((s.coach (coachOf 0)).lco * 16 + 0 % 16) = some 77) ∧
     (let s := spoiledStep false none 0
      s.spoiled (s.gang 0) = true ∧ s.recordState 0 ≠ 1 ∧ (s.gang 0).open_ = false) ∧
     (let s := (spoiledStep true none 0).setCore 1 { Core.reset with ctl := { Ctl.reset with own := true, sr := Bits.put [] 0x040 0x13 } }
      s.spoiled (s.gang 0) = true ∧ s.overdue (s.gang 0) = true ∧ s.recordState 0 ≠ 1) ∧
     (let s := spoiledStep false (some 0x1000) 1
      s.spoiled (s.gang 0) = true ∧ s.recordState 0 = 1 ∧ (s.gang 0).recAt = some 0x1000) ∧
     (let s := onGang (fun g => { g with lost := [1] }) (spoiledStep true none 0)
      s.spoiled (s.gang 0) = true ∧ ((s.gang 0).surviving.all fun c => (s.coach c).stand == .saved) = true ∧
      (s.gang 0).open_ = true ∧ s.overdue (s.gang 0) = false ∧ s.sparePlan 0 = none)) := by
  refine ⟨?_, ?_, ?_, ?_, ?_⟩ <;> decide +kernel

theorem witness_GangEvents :
    (let s := onCoach (fun k => { k with stopDue := some 5 }) M
     (s.coach 0).stopDue = some 5 ∧ s.cyc < 5 ∧ 5 ≤ ({ s with cyc := 5 } : State).cyc ∧ s.hearsHome 0 = true ∧
     (s.setCoach 8 { s.coach 0 with lco := 1 }).hearsHome 8 = false ∧ ((s.setCoach 8 { s.coach 0 with lco := 1 }).coach 8).stopDue = some 5) ∧
    (∀ st ∈ [GStand.running, .preempting, .starting, .stopping],
     let s := onGang (fun g => { g with bused := g.budget + 1, stand := st }) M
     (s.gang 0).budget < (s.gang 0).bused ∧ (s.gang 0).stand = st ∧ (s.ctl 0).own = false ∧ (s.coach (coachOf 0)).gang = some 0 ∧
     0 ∈ (s.gang 0).cores ∧ (M.gang 0).bused ≤ (M.gang 0).budget) ∧
    (∀ st ∈ [GStand.preempting, .held, .resuming, .starting],
     let s := onGang (fun g => { g with stand := st, preTmo := 7 }) { M with cyc := 10 }
     (s.gang 0).stand = st ∧ (s.gang 0).preTmo ≠ 0 ∧ (s.gang 0).preAt + (s.gang 0).preTmo ≤ s.cyc ∧
     ({ s with cyc := 3 } : State).cyc < (s.gang 0).preAt + (s.gang 0).preTmo) ∧
    (let s : State := { M with cores := (List.range 16).map fun i => (i, { Core.reset with ctl := { Ctl.reset with stand := .exited } }) }
     ((s.gang 0).cores.all s.coreFinished) = true ∧ ((s.gang 0).coaches.all fun c => (s.coach c).quiet) = true ∧
     ((M.gang 0).cores.all M.coreFinished) = false) ∧
    ((onDie (fun d => { d with lost := true }) M).die 0).lost = true ∧
    (let s := onGang (fun g => { g with stand := .preempted }) M
     (s.die 0).lost = false ∧ s.gangs.map (·.1) = [0] ∧ (s.gang 0).logicalOf 0 = some 0 ∧ (s.gang 0).stand = .preempted ∧ (s.gang 0).lost = []) ∧
    (let s := onGang (fun g => { g with stand := .preempting })
       { M with cores := (List.range 16).map fun i => (i, { Core.reset with ctl := { Ctl.reset with stand := .stopped } }) }
     (s.coach 0).gang = some 0 ∧ (s.coach 0).stand = .running ∧ (s.gang 0).stand = .preempting ∧
     (s.markPoints 0).preemptReady (s.gang 0) = true) ∧
    (let s := onGang (fun g => { g with words := [0, 0x20002], dies := [0, 1], coaches := [0, 8] }) M
     (s.die 1).lost = false ∧ s.gangs.map (·.1) = [0] ∧ (s.gang 0).logicalOf 1 = some 1 ∧ (s.gang 0).lost = [] ∧
     ({ s.gang 0 with lost := [1] } : Gang).surviving = 0 :: [] ∧ (s.ctl (0 * 16)).own = false) ∧
    (let s := onGang (fun g => { g with stand := .stopping, words := [0, 0x10002], coaches := [0, 1], fault := some 0x12 })
       (onCoach (fun k => { k with stand := .drained }) M)
     (s.coach 0).gang = some 0 ∧ (s.coach 0).stand = .drained ∧ (s.gang 0).stand = .stopping ∧ s.faultSaveReady (s.gang 0) 0 = true ∧
     0 ∈ (s.gang 0).surviving ∧ (∃ c ∈ (s.gang 0).surviving, c ≠ 0 ∧ (s.coach c).stand ≠ .saved) ∧ (s.gang 0).fault = some 0x12 ∧
     (s.ctl 0).own = false) ∧
    (let s := onGang (fun g => { g with stand := .resuming }) M
     (s.gang 0).stand = .resuming ∧ (s.gang 0).coaches.Nodup ∧ coachOf 0 ∈ (s.gang 0).coaches) ∧
    (let s := onGang (fun g => { g with stand := .held }) (onDie (fun d => { d with mgmt := { d.mgmt with boot := 1, stage := 3 } }) M)
     (0 < 64) ∧ (s.die 0).vfUp = true ∧ (M.die 0).vfUp = false ∧ (s.gang 0).stand = .held ∧ (s.gang 0).tenant = 1 ∧ (0x100 : Word).toNat = 0 + 256 ∧ (0x200 : Word).toNat = 0 + 512) ∧
    (M.gang (0 * 64 + (0x100 : Word).toNat % 64)).stand ≠ .held := by
  refine ⟨?_, ?_, ?_, ?_, ?_, ?_, ?_, ?_, ?_, ?_, ?_, ?_⟩ <;> decide +kernel

/-- Die 0 has booted; tenant 1 may hold a slot and 16 coaches, and has a log of 16 records at 0x1000. -/
def unit (rd wr : Nat) : State :=
  let s := State.reset.setDie 0 { Die.reset with
    mgmt := { Mgmt.reset with boot := 1, stage := 3 }
    regs := Bits.puts [] [(0x10100, 0x1001), (0x2008, 0x0000010000100001)] }
  { s with mem := (s.mem.setNum (.dev 0 0x1000) 4 wr).setNum (.dev 0 0x1008) 4 rd }

/-- The same die with the gang of slot 0 in a stand, its coaches and grants. -/
def unitGang (st : GStand) (coaches grants : List Nat) : State :=
  (unit 0 0).setGang 0 { Gang.reset with
    stand := st, tenant := 1, words := [0, 0x10001], dies := if coaches = [] then [] else [0], coaches := coaches, grants := grants }


theorem witness_LaunchUnitEvents :
    ((State.reset.die 0).unitOn = false ∧ ({ unit 0 0 with cyc := 1 } : State).cyc % 4096 ≠ 0) ∧
    (let s := unit 0 17
     s.cyc % 4096 = 0 ∧ ((s.die 0).regs.get 0x10100).getLsbD 0 = true ∧ flag ((s.die 0).tq 1) 0 = true ∧ (s.die 0).unitOn = true ∧
     2 ^ ((((s.die 0).regs.get 0x10108).toNat % 16) + 4) < (s.mem.num (.dev 0 0x1000) 4 + 2 ^ 32 - s.mem.num (.dev 0 0x1008) 4) % 2 ^ 32 ∧
     (let off := onDie (fun d => { d with regs := d.regs.put 0x2008 0x0000010000100000 }) (unit 0 1)
      flag ((off.die 0).tq 1) 0 = false ∧ (off.die 0).unitOn = true)) ∧
    (let s := unit 0 1
     (s.mem.num (.dev 0 0x1000) 4 + 2 ^ 32 - s.mem.num (.dev 0 0x1008) 4) % 2 ^ 32 = 1 ∧ s.freeSlot 0 1 = some 0 ∧ 0 / 64 = 0 ∧
     s.rejectCode 0 1 (List.replicate 12 0) = some 1 ∧ (imaged s).rejectCode 0 1 [0x2000, 0x10001, 0, 0, 0, 0, 0, 0, 0, 0, 0, 0] = none ∧
     (s.setGang 0 { Gang.reset with stand := .waiting, tenant := 1 }).freeSlot 0 1 = none) ∧
    (let s := unitGang .waiting [] []
     (s.die 0).unitOn = true ∧ ((slotsOf 0).all fun i => s.mayTry i || ((s.gang i).stand != .waiting && (s.gang i).stand != .holding)) = true ∧ s.oldest 0 0 = some 0 ∧ (s.gang 0).stand = .waiting ∧
     s.tenantCoaches (s.gang 0).tenant + (s.gang 0).ncoach ≤ fld ((s.die 0).tq (s.gang 0).tenant) 16 12 ∧ s.choose 0 [] = (false, some [(0, [0])]) ∧
     s.occupants 0 [0] = [] ∧ (s.die 0).holds = []) ∧
    (let s := unitGang .preempted [0] []
     (s.die 0).unitOn = true ∧ ((slotsOf 0).all fun i => s.mayTry i || ((s.gang i).stand != .waiting && (s.gang i).stand != .holding)) = true ∧ s.oldest 0 0 = some 0 ∧ (s.gang 0).stand = .preempted ∧
     s.tenantCoaches (s.gang 0).tenant + (s.gang 0).ncoach ≤ fld ((s.die 0).tq (s.gang 0).tenant) 16 12 ∧
     (∀ c ∈ (s.gang 0).coaches, s.coachFree 0 c = true) ∧ (s.die 0).holds = []) := by
  refine ⟨?_, ?_, ?_, ?_, ?_⟩ <;> decide +kernel

theorem witness_HoldsAndChildren :
    (let m := msg0 (.holdReq 0 7 [0])
     let s := withMsg m (unitGang .holding [0] [])
     let busy := onCoach (fun k => { k with stand := .running }) s
     lookup? s.net 5 = some m ∧ m.due ≤ s.cyc ∧ m.kind = .holdReq 0 7 [0] ∧ (s.gang 0).stand = .holding ∧ s.coachFree 0 0 = true ∧
     (s.die m.dst).unitOn = true ∧ s.ownFirst m.dst 0 [0] = false ∧ busy.coachFree 0 0 = false ∧ (s.gang 0).try_ = m.id ∧
     (s.gang 0).saved = [] ∧ (s.gang 0).try_ ≠ ({ m with id := 7 } : Msg).id ∧
     ((unitGang .waiting [] []).gang 0).stand ≠ .holding ∧
     (let two := onDie (fun d => { d with holds := [(0, 1, 2 ^ 200)] }) (s.setGang 1 { s.gang 0 with grants := [0] })
      two.coachFree 0 0 = true ∧ (0, 1, 2 ^ 200) ∈ (two.die m.dst).holds ∧ (two.gang 1).stand = .holding)) ∧
    (let s := unitGang .holding [0] [0]
     (s.gang 0).stand = .holding ∧ s.mayTry 0 = true ∧ ((s.gang 0).dies.all (s.gang 0).grants.contains) = true ∧ (s.gang 0).coaches.Nodup ∧
     (((unitGang .holding [0] []).gang 0).dies.all ((unitGang .holding [0] []).gang 0).grants.contains) = false ∧
     (onDie (fun d => { d with regs := d.regs.put 0x2008 0 }) s).mayTry 0 = false ∧ (s.gang 0).saved = [] ∧
     (let t := onGang (fun g => { g with saved := [{ coach := 0, ctx := Coach.reset, cores := [Core.reset] }] }) s
      (t.gang 0).saved ≠ [] ∧ ((t.gang 0).saved.map (·.coach)).Nodup ∧ ((t.gang 0).dies.all (t.gang 0).grants.contains) = true ∧
      t.mayTry 0 = true)) ∧
    (let s (b : CStand) := (onCoach (fun k => { k with stand := .loading 0 }) M).setCoach 1 { Coach.reset with stand := b }
     ((s .loaded).coach 0).stand = .loading 0 ∧ ((s .loaded).coach 0).gang = some 0 ∧ 0 ∈ ((s .loaded).gang 0).coaches ∧
     (let g := { M.gang 0 with coaches := [0, 1] }
      (g.coaches.all fun c => c == 0 || ((s .loaded).coach c).stand == .loaded) = true ∧
      (g.coaches.all fun c => c == 0 || ((s .idle).coach c).stand == .loaded) = false)) ∧
    ((1 : Nat) ≤ 8 ∧ (8 : Nat) < 9 ∧ (M.gang 0).stand = .running ∧ ((unit 0 0).gang 0).stand ≠ .running ∧
     ((unit 0 0).gang 0).stand ≠ .held ∧ (let s := onGang (fun g => { g with stand := .held }) M; (s.gang 0).stand = .held ∧ (s.gang 0).preTmo = 0)) ∧
    (let s := (onGang (fun g => { g with stand := .faulted, parent := some (1, 0, 0, 2) }) M).setGang 1 { gang0 with coaches := [0] }
     (s.gang 0).parent = some (1, 0, 0, 2) ∧ (s.gang 0).stand = .faulted ∧ 1 ≠ 0 ∧ (s.gang 1).held = true ∧ (s.gang 1).accept = 0 ∧
     (s.gang 1).saved = [] ∧ (lookupD (0, 0) (s.ctl 0).awFirst 2).1 ≠ s.cyc + 1 ∧
     (onGang (fun g => { g with stand := .running }) s).gang 0 ≠ { s.gang 0 with stand := .done } ∧
     ({ s.gang 1 with stand := .done } : Gang).held = false) := by
  refine ⟨?_, ?_, ?_, ?_, ?_⟩ <;> decide +kernel

theorem witness_HostRegistersAndErrors :
    (let d : Die := { Die.reset with evq := [(1, [(7, 8)])], hfaq := [5] }
     d.events 1 = [(7, 8)] ∧ d.events 2 = [] ∧ d.hfaq = 5 :: [] ∧ Die.reset.hfaq = []) ∧
    (let s := unit 0 0
     flag ((s.die 0).kvpb 1 2) 63 = false ∧ (0x8000000000000000 : Word).getLsbD 63 = true ∧
     (s.die 0).kvBase 1 2 + (kvpbStored 0x8000000000000000).toNat % 2 ^ 28 * kvGroupGranules (kvpbStored 0x8000000000000000) ≤ (s.die 0).capSize 1 ∧
     (s.die 0).capSize 1 < (s.die 0).kvBase 1 2 + (kvpbStored 0x8000000000000001).toNat % 2 ^ 28 * kvGroupGranules (kvpbStored 0x8000000000000001) ∧
     s.capInUse 0 1 = false ∧ s.capBase 0 1 + (0 : Word).toNat % 2 ^ 31 ≤ (s.die 0).mgmt.capGran ∧ M.capInUse 0 1 = true ∧
     (s.die 0).vfUp = true ∧ (s.die 0).firmware = true ∧ (State.reset.die 0).vfUp = false ∧ (State.reset.die 0).firmware = false ∧
     (s.die 0).hot 840 = false ∧ (s.die 0).paceAt ≤ s.cyc ∧ s.cyc % 64 = 0 ∧ (s.die 0).paceNow ≤ 48 ∧ s.gangs = [] ∧
     ((s.die 0).pool (poolKey 1 2)).closing = false ∧
     (s.setDie 0 { s.die 0 with paceAt := 5 }).cyc < ((s.setDie 0 { s.die 0 with paceAt := 5 }).die 0).paceAt ∧
     (let t := s.setDie 0 { s.die 0 with pools := [(poolKey 1 2, { Pool.reset with closing := true })] }
      ((t.die 0).pool (poolKey 1 2)).closing = true ∧ t.poolBusy 0 1 2 = false ∧
      (let u := (withOp (opOf .k (entryOf (.spanOpen 3 2 ⟨2, 0⟩) [] 0 0x20005 0 0)) M).setDie 0 (t.die 0)
       ((u.die 0).pool (poolKey 1 2)).closing = true ∧ u.poolBusy 0 1 2 = true)) ∧
     (∀ p ∈ (s.die 0).pages, p.2.dirty = false) ∧
     -- a page in a granule that a new layout keeps
     (let t : State := { s with dies := [(0, { s.die 0 with
        pages := [(pageKey 1 0, { Page.reset with coach := some 0, slot := 17315980 })] })] }
      lookup? (t.die 0).pages (pageKey 1 0) = some { Page.reset with coach := some 0, slot := 17315980 } ∧ (0 : Nat) < 2 ^ 32)) ∧
    (let d (t : Word) : Die := { (unit 0 0).die 0 with regs := Bits.puts [] [(0x6010, t)] }
     (d 840).hot 840 = true ∧ (d 840).hot 920 = false ∧ (d 920).hot 920 = true ∧ (d 920).firmware = true) ∧
    (let d : Die := { Die.reset with corr := [(0, 3)] }
     lookupD 0 d.corr (fld (errorPlace 0 0) 32 30) ≤ 3 ∧ d.hfaq.length < 256 ∧ d.hfOvf = false) ∧
    fld (0x0800000000000000 : Word) 55 5 = 16 ∧ (M.coach 0).gang ≠ none ∧ (M.ctl (0 * 16 + (fld (0x0080000000000000 : Word) 55 5 - 1))).own = false ∧
    fld (0x0080000000000000 : Word) 60 4 ≠ 1 := by decide +kernel

/-- Die 0 with a mailbox command that runs, a first doubleword and a second one in its buffer. -/
def mailed (n : Nat) (a b : Word) : State :=
  let s := onDie (fun d => { d with mgmt := { d.mgmt with boot := 1, stage := 3, pending := n } }) M
  { s with mem := (s.mem.setNum (.mbx 0 0) 8 a.toNat).setNum (.mbx 0 8) 8 b.toNat }

/-- The P-256 signature of "sample" that RFC 6979, A.2.5 works out, with SHA-256; the digest of "abc" is no digest of it. -/
theorem test_ecdsa :
    (let be (n : Nat) : List Byte := (bytesOf 32 n).reverse
     let key := be 0x60fed4ba255a9d31c961eb74c6356d68c049b8923b61fa6ce669622e60f29fb6 ++
       be 0x7903fe1008b8bc99a41ae9e95628bc64f2f1b20c2d7e9f5177a3c294d4462299
     let sig := be 0xefd48b2aacb6a8fd1140dd9cd45e81d69d2c877b56aaf991c34d0ea84eaf3716 ++
       be 0xf7cb1c942d657c41d436c7a1b6e29f65f3e900dbb9aff4064dc4ab2f843acda8
     P256.valid key (sha256 [0x73, 0x61, 0x6d, 0x70, 0x6c, 0x65]) sig = true ∧ P256.valid key (sha256 [0x61, 0x62, 0x63]) sig = false) := by
  decide +kernel

theorem witness_ManagementEvents :
    (State.reset.die 0).mgmt.stages = [] ∧ State.reset.gangs = [] ∧ State.reset.noise = [] ∧
    (let a : StageImage := { header := [], body := [], key := [], sig := [] }
     let s := State.reset.setDie 0 { Die.reset with mgmt := { Mgmt.reset with stages := [a, a, a] } }
     (s.die 0).mgmt.stages = [a, a, a] ∧ s.gangs = [] ∧ s.noise = []) ∧
    (∀ n ∈ [0, 1, 2, 3, 4, 5, 6], ((mailed n 0 0).die 0).firmware = true) ∧ ((mailed 0 0 0).die 0).mgmt.pending = 0 ∧
    (M.die 0).firmware = false ∧ ((mailed 2 0 0).die 0).mgmt.pending = 2 ∧ ((mailed 3 0 0).die 0).mgmt.pending = 3 ∧
    ([(0 : Word), 17578124, 17578125].all fun w =>
      let s := mailed 4 1 w
      decide ((s.die 0).mgmt.pending = 4 ∧ s.mem.num (.mbx 0 0) 8 = 1 ∧ s.mem.dword (.mbx 0 8) = w ∧ (s.die 0).mgmt.bad.contains w = false ∧
      badOk w = decide (w.toNat < 17578125) ∧ [w].contains w = true)) = true ∧
    (let s := mailed 5 0 0
     (s.die 0).mgmt.pending = 5 ∧ (s.mem.dword (.mbx 0 0)).getLsbD 8 = false) ∧
    (let s := mailed 5 0x104 0
     (s.mem.dword (.mbx 0 0)).getLsbD 8 = true ∧ fld (s.mem.dword (.mbx 0 0)) 0 2 = 0 ∧
     fld ((mailed 5 0x105 0).mem.dword (.mbx 0 0)) 0 2 ≠ 0) ∧
    ((mailed 1 0 0).die 0).mgmt.pending = 1 ∧ 5 < ((mailed 6 0 0).die 0).mgmt.pending := by decide +kernel
end Sys2Proof.Tests
end

section
/-! PROOFS of the statements of scope. A state function keeps the clock and every byte of storage (`SameStore`), or keeps the clock and
the canonical form of storage (`Keeps`): one lemma for each function, in the order of the model, up to `exec_keeps` for every instruction
and every event, and `step_cases` for a step. After these the machine at reset, and what the events of reductions, fbar and host copies do. -/

namespace Sys2Proof.Machine

/-! ## Two relations between a state and a later one -/

/-- The clock and every byte of storage are as they were. -/
@[simp] abbrev SameStore (s t : State) : Prop := t.cyc = s.cyc ∧ t.mem = s.mem

/-- The clock is as it was, and storage in canonical form stays in it. -/
@[simp] abbrev Keeps (s t : State) : Prop := t.cyc = s.cyc ∧ (s.mem.wf = true → t.mem.wf = true)

theorem SameStore.refl (s : State) : SameStore s s := ⟨rfl, rfl⟩

theorem SameStore.trans {s t u : State} (h : SameStore s t) (k : SameStore t u) : SameStore s u :=
  ⟨k.1.trans h.1, k.2.trans h.2⟩

theorem Keeps.trans {s t u : State} (h : Keeps s t) (k : Keeps t u) : Keeps s u := ⟨k.1.trans h.1, k.2 ∘ h.2⟩

theorem SameStore.keeps {s t : State} (h : SameStore s t) : Keeps s t := ⟨h.1, fun w => h.2 ▸ w⟩

/-- A fold keeps what each of its steps keeps. -/
@[simp] theorem State.foldl_same {α : Type} {f : State → α → State} (h : ∀ s a, SameStore s (f s a)) (l : List α) (s : State) :
    SameStore s (l.foldl f s) := by
  induction l generalizing s with
  | nil => exact .refl s
  | cons a l ih => exact .trans (h s a) (ih (f s a))

theorem State.foldl_keeps {α : Type} {f : State → α → State} (h : ∀ s a, Keeps s (f s a)) (l : List α) (s : State) :
    Keeps s (l.foldl f s) := by
  induction l generalizing s with
  | nil => exact (SameStore.refl s).keeps
  | cons a l ih => exact .trans (h s a) (ih (f s a))

/-! ## The named operations -/

@[simp] theorem State.delay_same (s : State) (n : Nat) : SameStore s (s.delay n).2 := by
  unfold State.delay; split <;> simp

@[simp] theorem State.mishap_same (s : State) : SameStore s s.mishap.2 := by
  unfold State.mishap; split <;> simp

@[simp] theorem State.result_same (s : State) (r : Reg) (lat : Nat) (v : Word) : SameStore s (s.result r lat v) := by
  simp [State.result]

@[simp] theorem State.awReg_same (s : State) (c k : Nat) : SameStore s (s.awReg c k) := by simp [State.awReg]

@[simp] theorem State.awDone_same (s : State) (c k val stat start : Nat) : SameStore s (s.awDone c k val stat start) := by
  simp [State.awDone]

@[simp] theorem stopOthers_same (now self : Nat) (l : List Nat) (s : State) : SameStore s (stopOthers now self s l) := by
  induction l generalizing s with
  | nil => simp [stopOthers]
  | cons k l ih => simp only [stopOthers]; split <;> simp [ih]

@[simp] theorem State.saveAnew_same (s : State) (l : List Nat) : SameStore s (s.saveAnew l) := by
  refine State.foldl_same (fun s c => ?_) l s
  dsimp only; split <;> simp

@[simp] theorem State.raise_same (s : State) (c code : Nat) (a : Word) : SameStore s (s.raise c code a) := by
  simp only [State.raise]
  split
  · simp
  · split
    · simp
    · split <;> simp

@[simp] theorem State.fault52_same (s : State) (code : Nat) : SameStore s (s.fault52 code) := by simp [State.fault52]

@[simp] theorem State.faultAt_same (s : State) (code addr : Nat) : SameStore s (s.faultAt code addr) := by simp [State.faultAt]

@[simp] theorem State.take_same (s : State) (f : Flt) : SameStore s (s.take f) := by
  cases f <;> simp [State.take]

@[simp] theorem State.notePages_same (l : List Nat) (s : State) : SameStore s (s.notePages l) := by
  induction l generalizing s with
  | nil => simp [State.notePages]
  | cons g l ih => simp only [State.notePages]; split <;> simp [ih]

/-! ## Enqueue and issue -/

@[simp] theorem State.append_same (s : State) (q : Queue) (i : Instr) (n : Nat) (f : Fields) : SameStore s (s.append q i n f) := by
  simp [State.append]

/-- What an operand capture leaves: the clock and storage of the state before it. -/
def CapturesSame {α : Type} (s : State) (c : Except Flt (α × State)) : Prop := ∀ x t, c = .ok (x, t) → SameStore s t

@[simp] theorem capturesSame_ok {α : Type} {s t : State} {x : α} : CapturesSame s (.ok (x, t)) ↔ SameStore s t := by
  simp [CapturesSame]

@[simp] theorem capturesSame_error {α : Type} {s : State} {f : Flt} : CapturesSame s (.error f : Except Flt (α × State)) := by
  simp [CapturesSame]

@[simp] theorem State.plain_same (s : State) : CapturesSame s s.plain := by simp [State.plain]

/-- An enqueue takes a fault or appends an entry to the state its capture has left (R89). -/
@[simp] theorem State.enqueue_same {s : State} {capture : Except Flt (List Word × State)} (h : CapturesSame s capture) (q : Queue) (i : Instr)
    (k : Option Cont) (gs : List GridOp) (operand : List Word → Except Flt Fields) (aw : Option Nat) :
    SameStore s (s.enqueue q i k gs capture operand aw) := by
  unfold State.enqueue
  split
  · simp
  extract_lets n
  split
  · simp
  split
  · simp
  next cap s1 =>
    have h1 := h cap s1 rfl
    split
    · simp
    · cases aw <;> simp [h1]

@[simp] theorem State.startRun_same (s : State) (q : Queue) (e : Entry) (last : Nat) (wr : List (Nat × WEff)) :
    SameStore s (s.startRun q e last wr) := by simp [State.startRun]

@[simp] theorem State.mapLast_same (s : State) (f : Run → Run) : SameStore s (s.mapLast f) := by
  simp only [State.mapLast]; split <;> simp

@[simp] theorem State.startMasked_same (s : State) (q : Queue) (e : Entry) (last : Nat) (k : Option Cont) (more : List Byte) :
    SameStore s (s.startMasked q e last k more) := by simp [State.startMasked]

/-! ## Outcomes -/

/-- An outcome is a next state of which a property holds. -/
def Replies (o : Host.Outcome State Fault Refusal) (p : State → Prop) : Prop := ∃ t, o = .next t ∧ p t

@[simp] theorem replies_next {t : State} {p : State → Prop} : Replies (.next t) p ↔ p t := by simp [Replies]

theorem Replies.mono {o : Host.Outcome State Fault Refusal} {p q : State → Prop} (h : Replies o p) (hpq : ∀ t, p t → q t) : Replies o q :=
  let ⟨t, ht, hp⟩ := h
  ⟨t, ht, hpq t hp⟩

/-! ## Instructions of the control queue -/

@[simp] theorem State.deferSr_same (s : State) (n : Nat) (v : Word) : SameStore s (s.deferSr n v) := by simp [State.deferSr]

@[simp] theorem State.goto_same (s : State) (line : Nat) : SameStore s (s.goto line) := by simp [State.goto]

@[simp] theorem State.setBlock_same (s : State) (b : Block) : SameStore s (s.setBlock b) := by
  simp only [State.setBlock]; split <;> simp

theorem State.notInHandler_same {s : State} {f : State → State} (h : SameStore s (f s)) : SameStore s (s.notInHandler f) := by
  unfold State.notInHandler; split
  · simp
  · exact h

theorem State.flowChange_same {s : State} {f : State → State} (h : SameStore s (f s)) : SameStore s (s.flowChange f) := by
  unfold State.flowChange; split
  · simp
  · exact h

@[simp] theorem State.branch_same (s : State) (c : Cond) (a b : Reg) (o : BitVec 16) : SameStore s (s.branch c a b o) := by
  refine State.flowChange_same ?_
  split <;> simp

@[simp] theorem State.startLoop_same (s : State) (pre pipe : Bool) (a b : Reg) (o : BitVec 16) :
    SameStore s (s.startLoop pre pipe a b o) := by
  refine State.notInHandler_same (State.flowChange_same ?_)
  dsimp only
  split
  · simp
  · split
    · simp
    · split <;> simp

@[simp] theorem State.addSig_same (s : State) (core id : Nat) (q : Queue) (aw : Nat) (acc runs ops : List Nat) (left : Nat) :
    SameStore s (s.addSig core id q aw acc runs ops left) := by simp [State.addSig]

@[simp] theorem doneSigs_same (core : Nat) (l : List Sig) (s : State) : SameStore s (doneSigs core l s) := by
  induction l generalizing s with
  | nil => simp [doneSigs]
  | cons g l ih => simp [doneSigs, ih]

@[simp] theorem State.settleSigs_same (s : State) (core : Nat) : SameStore s (s.settleSigs core) := by simp [State.settleSigs]

@[simp] theorem State.access_same (s : State) (kind : AccKind) (a : Word) (size : Nat) (data cmp : Word) (rel : Option RelSet)
    (dst : Option (Reg × Nat)) (acq : Bool) : SameStore s (s.access kind a size data cmp rel dst acq) := by
  have h : SameStore s (s.delay 31).2 := by simp
  unfold State.access
  extract_lets c d loc id acc c1 c2 s0 s1
  have h1 : SameStore s s1 := h
  clear_value s1
  split <;> simp [h1]

@[simp] theorem State.discard_same (s : State) (core : Nat) : SameStore s (s.discard core) := by simp [State.discard]

@[simp] theorem State.exitEvent_same (s : State) (core : Nat) (v : Word) : SameStore s (s.exitEvent core v) := by
  simp only [State.exitEvent]; split <;> simp

@[simp] theorem State.phaseFault_same (s : State) (cause : Nat) : SameStore s (s.phaseFault cause) := by simp [State.phaseFault]

@[simp] theorem State.stepFault_same (s : State) (cause : Nat) : SameStore s (s.stepFault cause) := by simp [State.stepFault]

@[simp] theorem execSset_same (a : Reg) (n : BitVec 16) (s : State) : Replies (execSset a n s) (SameStore s) := by
  simp only [execSset, replies_next]; split <;> simp

@[simp] theorem execLbrk_same (a : Reg) (s : State) : Replies (execLbrk a s) (SameStore s) := by
  refine replies_next.2 (State.notInHandler_same ?_)
  dsimp only
  split
  · simp
  · split
    · simp
    · split <;> simp

@[simp] theorem execLds_same (d a : Reg) (z : BitVec 2) (q : Bool) (o : BitVec 13) (s : State) :
    Replies (execLds d a z q o s) (SameStore s) := by
  simp only [execLds]; split <;> simp

@[simp] theorem execSts_same (v a : Reg) (z : BitVec 2) (q : Bool) (o : BitVec 13) (s : State) :
    Replies (execSts v a z q o s) (SameStore s) := by
  simp only [execSts]; split <;> simp

@[simp] theorem execAmo_same (d a b : Reg) (c : BitVec 3) (o : BitVec 2) (z : Bool) (p : BitVec 4) (s : State) :
    Replies (execAmo d a b c o z p s) (SameStore s) := by
  simp only [execAmo]; split
  · simp
  · split <;> simp

@[simp] theorem execQWait_same (q : Queue) (n : BitVec 16) (k : Option Cont) (s : State) :
    Replies (execQWait q n k s) (SameStore s) := by
  unfold execQWait
  split
  · exact replies_next.2 (State.notInHandler_same (by simp))
  · split <;> simp

@[simp] theorem execQSig_same (q : Queue) (aw : BitVec 6) (k : Option Cont) (s : State) :
    Replies (execQSig q aw k s) (SameStore s) := by
  unfold execQSig
  split
  · simp
  · split
    · simp
    · dsimp only; split <;> simp

@[simp] theorem execGridShrink_same (n : BitVec 7) (s : State) : Replies (execGridShrink n s) (SameStore s) := by
  refine replies_next.2 (State.notInHandler_same ?_)
  dsimp only
  split
  · simp [State.operandFault]
  · split <;> simp

@[simp] theorem execFmtPush_same (a : Reg) (y : Bool) (s : State) : Replies (execFmtPush a y s) (SameStore s) := by
  refine replies_next.2 (State.notInHandler_same ?_)
  dsimp only
  split <;> simp

@[simp] theorem execKgSet_same (n a b : Reg) (s : State) : Replies (execKgSet n a b s) (SameStore s) := by
  refine replies_next.2 (State.notInHandler_same ?_)
  split <;> simp

@[simp] theorem execPhPrep_same (a : Reg) (n : BitVec 4) (s : State) : Replies (execPhPrep a n s) (SameStore s) := by
  refine replies_next.2 (State.notInHandler_same ?_)
  dsimp only
  split
  · simp
  · split
    · split <;> simp
    · simp

@[simp] theorem execPhAdv_same (a : Reg) (n : BitVec 4) (s : State) : Replies (execPhAdv a n s) (SameStore s) := by
  refine replies_next.2 (State.notInHandler_same ?_)
  dsimp only
  split
  · simp
  · split <;> simp

@[simp] theorem execLaunch_same (d a : Reg) (w : Bool) (k : BitVec 6) (s : State) : Replies (execLaunch d a w k s) (SameStore s) :=
  replies_next.2 (State.notInHandler_same (by simp))

@[simp] theorem execExit_same (x : Reg) (s : State) : Replies (execExit x s) (SameStore s) := by
  refine replies_next.2 (State.notInHandler_same (State.flowChange_same ?_))
  dsimp only
  split <;> simp

@[simp] theorem execTrap_same (c : BitVec 16) (s : State) : Replies (execTrap c s) (SameStore s) :=
  replies_next.2 (State.flowChange_same (by simp))

@[simp] theorem execYield_same (s : State) : Replies (execYield s) (SameStore s) := by
  refine replies_next.2 (State.notInHandler_same (State.flowChange_same ?_))
  split <;> simp

@[simp] theorem execHret_same (s : State) : Replies (execHret s) (SameStore s) := by
  simp only [execHret, replies_next]; split <;> simp

@[simp] theorem execBar_same (c : BitVec 3) (s : State) : Replies (execBar c s) (SameStore s) :=
  replies_next.2 (State.notInHandler_same (by simp))

@[simp] theorem execFenceSc_same (c : BitVec 3) (s : State) : Replies (execFenceSc c s) (SameStore s) := by
  unfold execFenceSc; split <;> simp

@[simp] theorem execStepBegin_same (s : State) : Replies (execStepBegin s) (SameStore s) := by
  refine replies_next.2 (State.notInHandler_same ?_)
  dsimp only
  split
  · simp
  · split
    · simp
    · split <;> simp

@[simp] theorem execStepCommit_same (d : Reg) (s : State) : Replies (execStepCommit d s) (SameStore s) := by
  refine replies_next.2 (State.notInHandler_same ?_)
  split <;> simp

@[simp] theorem execStepAbort_same (s : State) : Replies (execStepAbort s) (SameStore s) := by
  refine replies_next.2 (State.notInHandler_same ?_)
  dsimp only
  split <;> simp

/-! ## Instructions of the vector queue -/

@[simp] theorem State.vop_same {s : State} {ins : Instr} {k : Option Cont} {gs : List GridOp} {cap : List Word} {issue : Entry → State}
    (h : ∀ e, SameStore s (issue e)) : Replies (s.vop ins k gs cap issue) (SameStore s) := by
  unfold State.vop
  split
  · simp
  · simpa using h _

@[simp] theorem State.vwrite_same (s : State) (e : Entry) (lat : Nat) (d : GridOp) (b : Nat) (mask : Word) (xs : List Nat) :
    SameStore s (s.vwrite e lat d b mask xs) := by simp [State.vwrite]

@[simp] theorem State.vun_same (s : State) (ins : Instr) (t : FTy) (d a : GridOp) (k : Option Cont) (lat : Nat) (op : Val → Val) :
    Replies (s.vun ins t d a k lat op) (SameStore s) := State.vop_same fun _ => by simp

@[simp] theorem State.vbin_same (s : State) (ins : Instr) (t : FTy) (d a b : GridOp) (k : Option Cont) (lat : Nat)
    (op : Val → Val → Val) : Replies (s.vbin ins t d a b k lat op) (SameStore s) := State.vop_same fun _ => by simp

@[simp] theorem State.vter_same (s : State) (ins : Instr) (t : FTy) (d a b : GridOp) (k : Cont) (op : Val → Val → Val → Val) :
    Replies (s.vter ins t d a b k op) (SameStore s) := State.vop_same fun _ => by simp

@[simp] theorem State.vint_same (s : State) (ins : Instr) (t : Bool) (d a b : GridOp) (k : Option Cont) (lat : Nat)
    (op : Nat → Nat → Nat → Nat) : Replies (s.vint ins t d a b k lat op) (SameStore s) := State.vop_same fun _ => by simp

/-! ## Instructions of the load and store queues -/

@[simp] theorem State.startOp_same (s : State) (core : Nat) (o : Op) : SameStore s (s.startOp core o) := by simp [State.startOp]

@[simp] theorem State.loadForm_same (s : State) (ins : Instr) (l : Nat) (g : GridOp) (b : Reg) (o : Nat) (k : Option Cont) :
    Replies (s.loadForm ins l g b o k) (SameStore s) := by
  unfold State.loadForm; split <;> simp

@[simp] theorem State.storeForm_same (s : State) (ins : Instr) (l : Nat) (g : GridOp) (b : Reg) (o stream : Nat) (rel : Bool)
    (k : Option Cont) : Replies (s.storeForm ins l g b o stream rel k) (SameStore s) := by
  unfold State.storeForm
  split
  · refine replies_next.2 (State.enqueue_same ?_ ..)
    split <;> simp
  · simp

@[simp] theorem State.gatherEnqueue_same (s : State) (q : Queue) (ins : Instr) (g : GridOp) (b : Reg) (n : Nat) (k : Cont) :
    Replies (s.gatherEnqueue q ins g b n k) (SameStore s) := by simp [State.gatherEnqueue]

@[simp] theorem execLdg_same (sc : BitVec 2) (g : GridOp) (b : Reg) (cb : BitVec 3) (nr : BitVec 6) (k : Cont) (s : State) :
    Replies (execLdg sc g b cb nr k s) (SameStore s) := by
  unfold execLdg; dsimp only; split <;> simp

@[simp] theorem execStg_same (sc : BitVec 2) (g : GridOp) (b : Reg) (cb : BitVec 3) (nr : BitVec 6) (k : Cont) (s : State) :
    Replies (execStg sc g b cb nr k s) (SameStore s) := by
  unfold execStg; dsimp only; split <;> simp

@[simp] theorem execRput_same (m : BitVec 3) (l : BitVec 4) (a : GridOp) (k : Option Cont) (s : State) :
    Replies (execRput m l a k s) (SameStore s) := by
  unfold execRput
  split
  · split <;> simp
  · simp

@[simp] theorem execRtake_same (d : GridOp) (l : BitVec 4) (k : Option Cont) (s : State) :
    Replies (execRtake d l k s) (SameStore s) := by
  unfold execRtake; split <;> simp

@[simp] theorem execCp_same (d a n : Reg) (w : BitVec 6) (k : Option Cont) (s : State) : Replies (execCp d a n w k s) (SameStore s) := by
  unfold execCp
  split
  · refine replies_next.2 (State.enqueue_same ?_ ..)
    split <;> simp
  · simp

@[simp] theorem execLdx_same (d a : Reg) (p : BitVec 4) (w : BitVec 6) (k : Option Cont) (s : State) :
    Replies (execLdx d a p w k s) (SameStore s) := by
  unfold execLdx
  split
  · exact replies_next.2 (State.enqueue_same (by simp) ..)
  · simp

@[simp] theorem execTlRun_same (seg : BitVec 16) (k : Option Cont) (s : State) : Replies (execTlRun seg k s) (SameStore s) := by
  unfold execTlRun; split <;> simp

/-! ## Instructions of the matrix queue -/

@[simp] theorem State.takeWord_same (s : State) (y : Bool) (ok : Word → Bool) : CapturesSame s (s.takeWord y ok) := by
  simp only [State.takeWord]
  split
  · simp
  · split <;> simp

@[simp] theorem State.takeOne_same (s : State) (y : Bool) (ok : Word → Bool) : CapturesSame s (s.takeOne y ok) := by
  unfold State.takeOne
  split
  next h => exact capturesSame_ok.2 (s.takeWord_same y ok _ _ h)
  next => simp

@[simp] theorem State.captureSpl_same (s : State) (j : BitVec 2) (ok : Word → Bool) : CapturesSame s (s.captureSpl j ok) := by
  simp only [State.captureSpl]
  split
  · simp
  split
  next h => exact capturesSame_ok.2 (s.takeWord_same false ok _ _ h)
  next => simp

@[simp] theorem State.startFeed_same (s : State) (e : Entry) (last : Nat) (tile tile2 : Option Tile) (src : Option (Nat × Nat)) :
    SameStore s (s.startFeed e last tile tile2 src) := by simp [State.startFeed]

@[simp] theorem State.issueTile_same (s : State) (e : Entry) (y : Bool) : SameStore s (s.issueTile e y) := by simp [State.issueTile]

@[simp] theorem State.enqueueTile_same (s : State) (ins : Instr) (c : BitVec 3) (y : Bool) (a : Reg) (n : BitVec 10) (k : Option Cont)
    (chain : Bool) : SameStore s (s.enqueueTile ins c y a n k chain) := by simp [State.enqueueTile]

@[simp] theorem State.issueSpl_same (s : State) (e : Entry) : SameStore s (s.issueSpl e) := by simp [State.issueSpl]

@[simp] theorem execMld_same (y : Bool) (b : Reg) (k : Option Cont) (s : State) : Replies (execMld y b k s) (SameStore s) := by
  unfold execMld
  split
  · refine replies_next.2 (State.enqueue_same ?_ ..)
    split
    next h => simpa using s.takeOne_same _ _ _ _ h
    next => simp
  · simp

@[simp] theorem execMmul_same (z : Bool) (c : BitVec 3) (y : Bool) (a : Reg) (n : BitVec 10) (k : Option Cont) (s : State) :
    Replies (execMmul z c y a n k s) (SameStore s) := by
  unfold execMmul; split <;> simp

@[simp] theorem execMmulCh_same (z : Bool) (c : BitVec 3) (y : Bool) (a : Reg) (n : BitVec 10) (k : Option Cont) (s : State) :
    Replies (execMmulCh z c y a n k s) (SameStore s) := by
  unfold execMmulCh; split <;> simp

@[simp] theorem execMmulCf_same (f z : Bool) (c : BitVec 3) (y : Bool) (n : BitVec 10) (k : Option Cont) (s : State) :
    Replies (execMmulCf f z c y n k s) (SameStore s) := by
  unfold execMmulCf; split <;> simp

@[simp] theorem execMclr_same (m : BitVec 2) (c : BitVec 3) (y : Bool) (n : BitVec 6) (k : Option Cont) (s : State) :
    Replies (execMclr m c y n k s) (SameStore s) := by
  unfold execMclr; split <;> simp

@[simp] theorem execMattn_same (z : Bool) (c : BitVec 2) (a : Reg) (n : BitVec 6) (k : Option Cont) (s : State) :
    Replies (execMattn z c a n k s) (SameStore s) := by
  unfold execMattn
  split
  · refine replies_next.2 (State.enqueue_same ?_ ..)
    split
    · simp
    next h0 =>
      split
      · simp
      next h1 => exact capturesSame_ok.2 ((s.takeWord_same _ _ _ _ h0).trans (State.takeWord_same _ _ _ _ _ h1))
  · simp

@[simp] theorem execMresc_same (c : BitVec 3) (y : Bool) (x : GridOp) (n : BitVec 6) (k : Option Cont) (s : State) :
    Replies (execMresc c y x n k s) (SameStore s) := by
  unfold execMresc; split <;> simp

@[simp] theorem execMrd_same (c : BitVec 2) (g : BitVec 8) (b : Reg) (o : BitVec 11) (k : Option Cont) (s : State) :
    Replies (execMrd c g b o k s) (SameStore s) := by
  unfold execMrd
  split
  · refine replies_next.2 (State.enqueue_same ?_ ..)
    split <;> simp
  · simp

@[simp] theorem execMsplEv_same (j : BitVec 2) (z : Bool) (c : BitVec 2) (a : Reg) (n : BitVec 10) (k : Option Cont) (s : State) :
    Replies (execMsplEv j z c a n k s) (SameStore s) := by
  unfold execMsplEv; split <;> simp

@[simp] theorem execMsplDx_same (j : BitVec 2) (z : Bool) (c : BitVec 2) (a d : Reg) (n : BitVec 10) (k : Option Cont) (s : State) :
    Replies (execMsplDx j z c a d n k s) (SameStore s) := by
  unfold execMsplDx; split <;> simp

@[simp] theorem execMsplGs_same (j : BitVec 2) (z : Bool) (w : BitVec 2) (a d : Reg) (n : BitVec 10) (k : Option Cont) (s : State) :
    Replies (execMsplGs j z w a d n k s) (SameStore s) := by
  unfold execMsplGs; split <;> simp

@[simp] theorem execMsplLd_same (b : Reg) (n s0 : BitVec 5) (k : Option Cont) (s : State) :
    Replies (execMsplLd b n s0 k s) (SameStore s) := by
  unfold execMsplLd; dsimp only; split <;> simp

@[simp] theorem execMsplRd_same (n : BitVec 3) (s0 : BitVec 5) (b : Reg) (o : BitVec 11) (k : Option Cont) (s : State) :
    Replies (execMsplRd n s0 b o k s) (SameStore s) := by
  unfold execMsplRd; dsimp only; split <;> simp

@[simp] theorem execMsplRf_same (j : BitVec 2) (k : Option Cont) (s : State) : Replies (execMsplRf j k s) (SameStore s) := by
  unfold execMsplRf
  split
  · refine replies_next.2 (State.enqueue_same ?_ ..)
    split
    · simp
    next h => simpa using s.captureSpl_same _ _ _ _ h
  · simp

/-! ## Messages and operations -/

@[simp] theorem State.arrive_same (s : State) (m : Msg) : SameStore s (s.arrive m) := by
  simp only [State.arrive]; split <;> simp

theorem State.hop_same {s t : State} {die : Nat} {m : Msg} (h : s.hop die m = some t) : SameStore s t := by
  simp only [State.hop] at h
  split at h
  · cases h; simp
  split at h
  · cases h
  split at h
  · cases h
  · cases h; simp

@[simp] theorem State.send_same (s : State) (m : Msg) : SameStore s (s.send m) := by
  simp only [State.send]
  split
  · simp
  split
  · simp
  split
  · simp
  split
  next h => exact State.hop_same h
  next => simp

@[simp] theorem State.lose_same (s : State) (m : Msg) : SameStore s (s.lose m) := by
  unfold State.lose; split <;> simp

@[simp] theorem State.forward_same (s : State) (die : Nat) (m : Msg) : SameStore s (s.forward die m) := by
  unfold State.forward
  split
  next h => exact State.hop_same h
  next => simp

@[simp] theorem State.setOut_same (s : State) (coach : Nat) (w : OutW) : SameStore s (s.setOut coach w) := by simp [State.setOut]

@[simp] theorem State.transmit_same (s : State) (coach : Nat) (w : OutW) (r : Nat × Nat) : SameStore s (s.transmit coach w r) := by
  simp only [State.transmit]
  split
  · simp
  split
  next h => exact .trans (by simp) (State.hop_same h)
  next => simp

@[simp] theorem State.sendWrite_same (s : State) (coach : Nat) (w : OutW) : SameStore s (s.sendWrite coach w) := by
  unfold State.sendWrite; split <;> simp

@[simp] theorem State.postWrite_same (s : State) (core t : Nat) (w : OutW) (released : Bool) :
    SameStore s (s.postWrite core t w released) := by
  unfold State.postWrite
  dsimp -zeta only
  extract_lets kc k rel w1 fab s0 s1 c n s2
  have h1 : SameStore s s1 := .refl s
  have h2 : SameStore s s2 := by unfold s2; split <;> simp [h1]
  clear_value s2 rel
  cases rel
  · simp [h2]
  · dsimp only; split <;> simp [h2]

@[simp] theorem State.setOp_same (s : State) (core : Nat) (o : Op) : SameStore s (s.setOp core o) := by simp [State.setOp]

@[simp] theorem State.finishOp_same (s : State) (core : Nat) (o : Op) (val stat : Nat) : SameStore s (s.finishOp core o val stat) := by
  simp only [State.finishOp]; split <;> simp

/-! ## Instructions of the fabric and context queues -/

@[simp] theorem State.startF_same (s : State) (e : Entry) : SameStore s (s.startF e) := by simp [State.startF]

@[simp] theorem execFlLd_same (z : BitVec 2) (q : Bool) (d a : Reg) (o : BitVec 11) (u : UCont) (s : State) :
    Replies (execFlLd z q d a o u s) (SameStore s) := by
  unfold execFlLd
  dsimp only
  split
  · exact replies_next.2 (State.enqueue_same (by simp) ..)
  · refine replies_next.2 (.trans (s.startF_same _) (State.foldl_same (fun t p => ?_) ..))
    split <;> simp

@[simp] theorem execFam_same (ord : BitVec 2) (op : BitVec 4) (z : Bool) (a b d : Reg) (u : UCont) (s : State) :
    Replies (execFam ord op z a b d u s) (SameStore s) := by
  unfold execFam
  dsimp only
  split
  · exact replies_next.2 (State.enqueue_same (by simp) ..)
  · split <;> simp

@[simp] theorem execFcollSet_same (g : BitVec 4) (b : Reg) (o : BitVec 11) (u : UCont) (s : State) :
    Replies (execFcollSet g b o u s) (SameStore s) := by
  unfold execFcollSet
  split
  · exact replies_next.2 (State.enqueue_same (by simp) ..)
  · dsimp only; split <;> simp

@[simp] theorem execFred_same (op : BitVec 2) (g t : BitVec 4) (b : Reg) (n : BitVec 11) (u : UCont) (s : State) :
    Replies (execFred op g t b n u s) (SameStore s) := by
  unfold execFred
  split
  · exact replies_next.2 (State.enqueue_same (by simp) ..)
  · dsimp only
    split
    · simp
    · refine replies_next.2 (.trans (s.startOp_same ..) (State.foldl_same (fun t p => ?_) ..))
      simp

@[simp] theorem execFbar_same (u : UCont) (s : State) : Replies (execFbar u s) (SameStore s) := by
  unfold execFbar; split <;> simp

@[simp] theorem execCph_same (m : BitVec 2) (d h n : Reg) (u : UCont) (s : State) : Replies (execCph m d h n u s) (SameStore s) := by
  unfold execCph
  split
  · exact replies_next.2 (State.enqueue_same (by simp) ..)
  · simp

@[simp] theorem State.kForm_same (s : State) (ins : Instr) (u : UCont) (gs : List GridOp) (operand : Except Flt Fields) (data : List Nat) :
    Replies (s.kForm ins u gs operand data) (SameStore s) := by
  unfold State.kForm; split <;> simp

/-! ## Every instruction of a line -/

/-- An instruction at its dispatch, or an entry at its issue, answers a next state in which no byte of storage and no clock has moved:
what it does to storage it does in the cycles after (R86, R91). -/
theorem laneExec_same (i : Instr) (s : State) : Replies (laneExec i s) (SameStore s) := by
  cases i <;> rw [laneExec]
  case add | sub | mul | mulh | mulhn | div | rem | and | or | xor | shl | shr | sra | min | max | sel | cmpeq | cmplt | cmplo | clz | pop
    | addi | andi | ori | xori | shli | shri | srai | cmpi | li | lih | id | cyc | sget => exact replies_next.2 (s.result_same ..)
  case tbase => exact replies_next.2 (State.notInHandler_same (by simp))
  case br | call | jr | ret => exact replies_next.2 (State.flowChange_same (by simp))
  case beq | bne | blt | bge | blo | bhs => exact replies_next.2 (s.branch_same ..)
  case loop | loopPre | loopp | looppPre => exact replies_next.2 (s.startLoop_same ..)
  case wfa => exact replies_next.2 (State.notInHandler_same (by simp))
  case vadd | vsub | vmul | vmin | vmax | vdiv => exact s.vbin_same ..
  case vabs | vneg | vsqrt | vrsqrt | vrcp | vexp2 | vlog2 | vtanh => exact s.vun_same ..
  case vfma | vfnm | vclamp => exact s.vter_same ..
  case viadd | visub | vimul | viand | vior | vixor | vishl | vishr | visra | vimin | vimax => exact s.vint_same ..
  case vsel | vcvt | vmov | vbc | vperm | vrot | vhist | vamax => exact State.vop_same fun _ => s.vwrite_same ..
  case vcmp | vmxu | vtop | vsmxMerge | vadam | vchk => exact State.vop_same fun _ => s.startRun_same ..
  case vmxp => exact State.vop_same fun _ => by simp
  case vred | vscan => exact State.vop_same fun _ => by dsimp only; split <;> simp
  case ld | ldt => exact s.loadForm_same ..
  case st | stt | stStr | sttStr => exact s.storeForm_same ..
  case spanOpen | spanApp | spanRt | kvWalk | kvPlan | kvFork | kvDrop | kvHint => exact s.kForm_same ..
  all_goals simp

@[simp] theorem State.lane_same (s : State) (i : Instr) : SameStore s (s.lane i) := by
  obtain ⟨t, ht, h⟩ := laneExec_same i s
  simpa [State.lane, ht] using h

/-! ## Storage written by the events -/

theorem copyRange_wf {m : Mem} (h : m.wf = true) (src dst n : Nat) : (copyRange m src dst n).wf = true :=
  Mem.wf_writeCells _ _ (Mem.wf_clear m dst n h)

theorem foldl_wf {α : Type} {f : Mem → α → Mem} (hf : ∀ m a, m.wf = true → (f m a).wf = true) (l : List α) {m : Mem}
    (h : m.wf = true) : (l.foldl f m).wf = true := by
  induction l generalizing m with
  | nil => exact h
  | cons a l ih => exact ih (hf m a h)

theorem writePieces_wf {m : Mem} (h : m.wf = true) (base : Nat) (l : List (Nat × List Byte)) : (writePieces m base l).wf = true := by
  refine foldl_wf (fun m p hm => ?_) l h
  exact Mem.wf_write _ _ _ hm

theorem State.storeCells_keeps (s : State) (coach core map : Nat) (cells : List Host.Cell) :
    Keeps s (s.storeCells coach core map cells) := by
  refine .trans ?_ (State.notePages_same ..).keeps
  dsimp only
  split
  · exact ⟨rfl, fun h => Mem.wf_writeCells _ _ (Mem.wf_writeCells _ _ h)⟩
  · exact ⟨rfl, fun h => Mem.wf_writeCells _ _ h⟩

@[simp] theorem State.takeScalar_same (s : State) (l : Loc) : SameStore s (s.takeScalar l) := by cases l <;> simp [State.takeScalar]

@[simp] theorem State.takeSlot_cyc (s : State) (dyn : Bool) (l : Loc) (n : Nat) : (s.takeSlot dyn l n).cyc = s.cyc := by
  rw [State.takeSlot_eq]

@[simp] theorem State.takeCtx_same (s : State) (coach map ver a n : Nat) : SameStore s (s.takeCtx coach map ver a n) := by
  unfold State.takeCtx; split <;> simp

@[simp] theorem State.takeCells_same (s : State) (cells : List Host.Cell) : SameStore s (s.takeCells cells) := by
  rw [State.takeCells_eq]; simp

theorem State.completeAccess_keeps (s : State) (core : Nat) (a : Access) : Keeps s (s.completeAccess core a) := by
  unfold State.completeAccess
  extract_lets r s1 c fill c1
  have h1 : Keeps s s1 := .trans (s.takeScalar_same a.loc).keeps (State.storeCells_keeps ..)
  exact h1.trans (SameStore.keeps (by simp))

theorem State.landUnit_keeps (s : State) (core : Nat) (o : Op) (cells : List Host.Cell) : Keeps s (s.landUnit core o cells) :=
  .trans (s.storeCells_keeps ..) (State.takeCells_same ..).keeps

@[simp] theorem State.nextUnit_same (s : State) (core : Nat) (o : Op) (n : Nat) : SameStore s (s.nextUnit core o n) := by
  simp [State.nextUnit]

/-! ## Copies and tiers -/

@[simp] theorem State.promote_same (s : State) (die tenant coach page : Nat) : SameStore s (s.promote die tenant coach page) := by
  simp only [State.promote]
  split
  · simp
  split
  · simp
  split
  · simp
  split <;> simp

@[simp] theorem State.readTier_same (s : State) (coach : Nat) (ps : List (Nat × Nat × Option MapEntry)) :
    SameStore s (s.readTier coach ps) := by
  refine State.foldl_same (fun s p => ?_) ps s
  split
  · split <;> simp
  · simp

theorem execTierMoveComplete_keeps (die n : Nat) (s : State) : Replies (execTierMoveComplete die n s) (Keeps s) := by
  simp only [execTierMoveComplete]
  split
  · simp
  split
  · simp
  split
  · simp
  split
  · refine replies_next.2 ⟨rfl, fun h => ?_⟩
    dsimp only
    exact Mem.wf_write _ _ _ h
  · refine replies_next.2 ⟨rfl, fun h => ?_⟩
    dsimp only
    split
    · exact Mem.wf_write _ _ _ h
    · exact h

@[simp] theorem State.copyRead_same (s : State) (core : Nat) (o : Op) : SameStore s (s.copyRead core o) :=
  .trans (s.takeCtx_same ..) (State.setOp_same ..)

theorem State.copyWrite_keeps (s : State) (core : Nat) (o : Op) : Keeps s (s.copyWrite core o) := by
  unfold State.copyWrite
  extract_lets kc a cells s1
  have h1 : Keeps s s1 := .trans (s.storeCells_keeps ..) (State.takeCtx_same ..).keeps
  clear_value s1
  refine h1.trans (SameStore.keeps ?_)
  split
  · simp
  · exact .trans (s1.delay_same _) (State.setOp_same ..)

theorem execCpComplete_keeps (core n : Nat) (s : State) : Replies (execCpComplete core n s) (Keeps s) := by
  unfold execCpComplete
  split
  · simp
  split
  · dsimp only
    split
    · simp
    split
    · split <;> simp
    · split
      · exact replies_next.2 (s.copyWrite_keeps ..)
      · simp
  · simp

@[simp] theorem State.gatherRead_same (s : State) (core : Nat) (o : Op) : SameStore s (s.gatherRead core o) := by
  simp [State.gatherRead]

theorem State.gatherWrite_keeps (s : State) (core : Nat) (o : Op) : Keeps s (s.gatherWrite core o) := by
  unfold State.gatherWrite
  extract_lets kc a cells s1
  have h1 : Keeps s s1 := .trans (s.storeCells_keeps ..) (State.takeCtx_same ..).keeps
  clear_value s1
  refine h1.trans (SameStore.keeps ?_)
  split
  · simp
  · exact .trans (s1.delay_same _) (State.setOp_same ..)

theorem execLdxComplete_keeps (core n : Nat) (s : State) : Replies (execLdxComplete core n s) (Keeps s) := by
  unfold execLdxComplete
  split
  · simp
  split
  · dsimp only
    split
    · simp
    split
    · split <;> simp
    · split
      · exact replies_next.2 (s.gatherWrite_keeps ..)
      · simp
  · simp

/-! ## Timelines, drains and phases -/

theorem State.tlAct_keeps (s : State) (coach : Nat) (x : Word) : Keeps s (s.tlAct coach x) := by
  unfold State.tlAct
  extract_lets k t w c command pcs cmds next sram row land t1 s1
  have h1 : SameStore s s1 := .refl s
  clear_value s1
  split
  · exact ⟨h1.1, fun h => Mem.wf_write _ _ _ (h1.keeps.2 h)⟩
  · exact h1.keeps

theorem execLandingWrite_keeps (coach : Nat) (s : State) : Replies (execLandingWrite coach s) (Keeps s) :=
  replies_next.2 ⟨rfl, fun h => Mem.wf_writeCells _ _ h⟩

@[simp] theorem State.cutCore_same (s0 s : State) (core : Nat) : SameStore s (s0.cutCore s core) := by simp [State.cutCore]

@[simp] theorem State.beginDrain_same (s : State) (coach : Nat) : SameStore s (s.beginDrain coach) := by
  unfold State.beginDrain
  extract_lets k k1 s1
  have h1 : SameStore s s1 := .refl s
  clear_value s1
  exact h1.trans (State.foldl_same s1.cutCore_same ..)

theorem State.doWrite_keeps (s : State) (m : Mem) (coach : Nat) (w : ShiftWrite) : Keeps s (s.doWrite m coach w) := by
  unfold State.doWrite
  cases w.src with
  | some l =>
    dsimp only
    refine ⟨by simp, fun h => ?_⟩
    simp [Mem.wf_write _ _ _ h]
  | none =>
    dsimp only
    refine ⟨by simp, fun h => ?_⟩
    simp [Mem.wf_clear _ _ _ h]

theorem State.copyStep_keeps (s : State) (coach : Nat) (w : ShiftWrite) : Keeps s (s.copyStep coach w) :=
  (s.doWrite_keeps s.was coach w).trans (SameStore.keeps (by simp [State.copyStep]))

theorem State.copyShift_keeps (s : State) (coach : Nat) (w : ShiftWrite) : Keeps s (s.copyShift coach w) :=
  (s.doWrite_keeps (s.mem.writeCells (s.coach coach).landed) coach w).trans (SameStore.keeps (by simp [State.copyShift]))

theorem State.flushMirrors_keeps (s : State) (coach : Nat) : Keeps s (s.flushMirrors coach) := by
  simp only [State.flushMirrors]
  split
  · simp
  · refine .trans ?_ (State.notePages_same ..).keeps
    exact ⟨rfl, fun h => Mem.wf_writeCells _ _ h⟩

theorem execShiftGranuleWrite_keeps (coach : Nat) (s : State) : Replies (execShiftGranuleWrite coach s) (Keeps s) := by
  unfold execShiftGranuleWrite
  split
  · simp
  extract_lets s1 k
  have h1 : Keeps s s1 := s.flushMirrors_keeps coach
  clear_value s1
  split
  · exact replies_next.2 h1
  split
  · split
    · exact replies_next.2 h1
    · exact replies_next.2 (h1.trans (s1.copyShift_keeps ..))
  · split
    · exact replies_next.2 h1
    · exact replies_next.2 (h1.trans (s1.copyStep_keeps ..))

@[simp] theorem execPhAdvComplete_same (core : Nat) (s : State) : Replies (execPhAdvComplete core s) (SameStore s) := by
  unfold execPhAdvComplete; split <;> simp

/-! ## Context operations -/

@[simp] theorem State.onPool_same (s : State) (die tenant v : Nat) (f : Pool → Nat → Nat → Pool × Nat × Nat) :
    SameStore s (s.onPool die tenant v f).1 := by
  unfold State.onPool
  split
  · simp
  · dsimp only; split <;> simp

@[simp] theorem State.applyK_same (s : State) (core : Nat) (o : Op) : SameStore s (s.applyK core o).1 := by
  unfold State.applyK
  extract_lets die tenant e plain
  have hp : ∀ r, (plain r).1 = r.1 := fun _ => rfl
  clear_value plain
  split
  case h_5 => 
    split
    · simp [hp]
    split
    · split <;> simp [hp]
    · simp [hp]
  case h_6 =>
    split
    · dsimp only; split <;> simp [hp]
    · simp [hp]
  case h_7 => split <;> simp [hp]
  case h_8 =>
    dsimp only
    split
    · simp [hp]
    split
    · simp [hp]
    split <;> simp [hp]
  all_goals simp [hp]

@[simp] theorem State.settlePools_same (s : State) (die tenant : Nat) : SameStore s (s.settlePools die tenant) := by
  refine State.foldl_same (fun s p => ?_) ..
  dsimp only
  split <;> simp

@[simp] theorem State.settleClosing_same (s : State) (die : Nat) : SameStore s (s.settleClosing die) :=
  State.foldl_same (fun s t => s.settlePools_same die t) ..

@[simp] theorem State.releaseWalk_same (s : State) (core : Nat) (o : Op) : SameStore s (s.releaseWalk core o) := by
  simp only [State.releaseWalk]
  split
  · split <;> simp
  · simp

theorem State.completeK_keeps (s : State) (core : Nat) (o : Op) : Keeps s (s.completeK core o) :=
  (s.landUnit_keeps core o o.bytes).trans (SameStore.keeps (by simp [State.completeK]))

theorem State.resultK_keeps (s : State) (core : Nat) (o : Op) : Keeps s (s.resultK core o) := by
  unfold State.resultK
  split
  · simp
  split
  · exact s.completeK_keeps core o
  · exact (s.landUnit_keeps core o o.bytes).trans (State.nextUnit_same ..).keeps

@[simp] theorem execKvpbWrite_same (die vf pool : Nat) (value : Word) (s : State) :
    Replies (execKvpbWrite die vf pool value s) (SameStore s) := by
  unfold execKvpbWrite
  dsimp only
  split
  · simp
  split
  · split <;> simp
  split
  · simp
  split <;> simp

/-! ## Links -/

@[simp] theorem execFlitForward_same (die link : Nat) (s : State) : Replies (execFlitForward die link s) (SameStore s) := by
  unfold execFlitForward
  dsimp only
  split
  · simp
  split
  · simp
  split <;> simp

@[simp] theorem execFlitReceive_same (die link : Nat) (s : State) : Replies (execFlitReceive die link s) (SameStore s) := by
  unfold execFlitReceive
  dsimp only
  split
  · simp
  split
  · simp
  split <;> simp

@[simp] theorem State.linkDown_same (s : State) (l : Nat) : SameStore s (s.linkDown l) := by
  unfold State.linkDown
  extract_lets a b back x y dead lost s1 s2 tell s3
  have ht : ∀ t d, SameStore t (tell t d) := fun t d => State.foldl_same (fun u e => u.arrive_same ..) ..
  have h2 : SameStore s s2 := by simp [s2, s1]
  exact (h2.trans ((ht _ _).trans (ht _ _))).trans (State.foldl_same State.lose_same ..)

@[simp] theorem execLinkRetrain_same (die link : Nat) (s : State) : Replies (execLinkRetrain die link s) (SameStore s) := by
  unfold execLinkRetrain
  dsimp only
  split
  · simp
  split <;> simp

@[simp] theorem execRetrainComplete_same (die link : Nat) (s : State) : Replies (execRetrainComplete die link s) (SameStore s) := by
  unfold execRetrainComplete
  dsimp only
  split <;> simp

@[simp] theorem State.dropMsg_same (s : State) (n : Nat) : SameStore s (s.dropMsg n) := .refl s

@[simp] theorem execLinkStateMessage_same (n : Nat) (s : State) : Replies (execLinkStateMessage n s) (SameStore s) := by
  unfold execLinkStateMessage
  split
  · split <;> simp
  · simp

/-! ## Remote writes -/

@[simp] theorem State.postPiece_same (s : State) (r : Run) (core addr mask : Nat) (data : List Byte) (stream : Nat) (rel : Bool) :
    SameStore s (s.postPiece r core addr mask data stream rel) := by
  unfold State.postPiece
  dsimp only
  split <;> simp

@[simp] theorem execReleasedWriteSend_same (core n : Nat) (s : State) : Replies (execReleasedWriteSend core n s) (SameStore s) := by
  unfold execReleasedWriteSend
  dsimp only
  split
  · simp
  split
  · split <;> simp
  · simp

@[simp] theorem State.expectNext_same (s : State) (m : Msg) : SameStore s (s.expectNext m) := by simp [State.expectNext]

@[simp] theorem State.moveUnit_same (s : State) (n : Nat) (m : Msg) (old : List Byte) : SameStore s (s.moveUnit n m old) := by
  rw [State.moveUnit_eq]; simp

@[simp] theorem State.passOn_same (s : State) (m : Msg) (mask : Nat) (change old : List Byte) :
    SameStore s (s.passOn m mask change old) := by
  unfold State.passOn; split <;> simp

/-- A unit that writes what it has moved (R146). -/
theorem State.moveWriting_keeps (s : State) (n : Nat) (m : Msg) (old : List Byte) (cells : List Host.Cell) :
    Keeps s { s.moveUnit n m old with mem := s.mem.writeCells cells } :=
  ⟨(s.moveUnit_same n m old).1, fun h => Mem.wf_writeCells _ _ h⟩

theorem State.commitUnit_keeps (s : State) (n : Nat) (m : Msg) : Keeps s (s.commitUnit n m) := by
  simp only [State.commitUnit]
  split
  · refine (s.moveWriting_keeps n m (s.mem.read m.place.key m.unit) (m.unitCells s.mem)).trans (SameStore.keeps ?_)
    simp
  · exact s.moveWriting_keeps ..

theorem State.commitAtomic_keeps (s : State) (n : Nat) (m : Msg) (op size b c : Nat) : Keeps s (s.commitAtomic n m op size b c) := by
  unfold State.commitAtomic
  extract_lets key x w new s1 d s2
  have h2 : SameStore s s2 := by simp [s2, s1]
  clear_value s2
  refine .trans ?_ (State.passOn_same ..).keeps
  exact ⟨h2.1, fun h => Mem.wf_write _ _ _ (h2.keeps.2 h)⟩

theorem State.commit_keeps (s : State) (n : Nat) (m : Msg) : Keeps s (s.commit n m) := by
  unfold State.commit
  split
  · exact s.commitAtomic_keeps ..
  · exact s.commitUnit_keeps ..

@[simp] theorem State.unhold_cyc (s : State) (die n : Nat) : (s.unhold die n).cyc = s.cyc := rfl

@[simp] theorem State.ackAgain_same (s : State) (n : Nat) (m : Msg) : SameStore s (s.ackAgain n m) := by
  simp only [State.ackAgain]; split <;> simp

theorem State.arriveWrite_keeps (s : State) (n : Nat) (m : Msg) : Keeps s (s.arriveWrite n m) := by
  unfold State.arriveWrite
  dsimp only
  split
  · simp
  split
  · split
    · simp
    · exact .trans (SameStore.keeps (by simp)) (State.commit_keeps ..)
  split
  · simp
  split
  · simp
  split <;> simp

theorem State.parityUnit_keeps (s : State) (n : Nat) (m : Msg) : Keeps s (s.parityUnit n m) := by
  simp only [State.parityUnit]
  split
  · refine (s.moveWriting_keeps n m (s.mem.read m.place.key m.unit) (m.unitCells s.mem)).trans (SameStore.keeps ?_)
    simp
  · exact s.moveWriting_keeps ..

theorem execRemoteWriteArrive_keeps (n : Nat) (s : State) : Replies (execRemoteWriteArrive n s) (Keeps s) := by
  unfold execRemoteWriteArrive
  split
  · simp
  split
  · simp
  split
  · split
    · exact replies_next.2 (s.arriveWrite_keeps ..)
    · simp
  · exact replies_next.2 (s.parityUnit_keeps ..)
  · simp

theorem execRemoteAtomicArrive_keeps (n : Nat) (s : State) : Replies (execRemoteAtomicArrive n s) (Keeps s) := by
  unfold execRemoteAtomicArrive
  split
  · simp
  split
  · split
    · simp
    · exact replies_next.2 (s.arriveWrite_keeps ..)
  · simp

@[simp] theorem State.closeWrite_same (s : State) (coach : Nat) (w : OutW) : SameStore s (s.closeWrite coach w) := by
  simp only [State.closeWrite]; split <;> simp

@[simp] theorem execAcknowledgementArrive_same (n : Nat) (s : State) : Replies (execAcknowledgementArrive n s) (SameStore s) := by
  unfold execAcknowledgementArrive
  split
  · simp
  split
  · simp
  split <;> simp

theorem execAtomicResultArrive_keeps (n : Nat) (s : State) : Replies (execAtomicResultArrive n s) (Keeps s) := by
  unfold execAtomicResultArrive
  split
  · simp
  split
  · simp
  split
  · simp
  extract_lets s1
  have h1 : SameStore s s1 := by simp [s1]
  clear_value s1
  split
  · exact replies_next.2 h1.keeps
  dsimp only
  split
  · simp
  · exact replies_next.2
      (((h1.keeps.trans (s1.storeCells_keeps ..)).trans (State.takeCells_same ..).keeps).trans (State.finishOp_same ..).keeps)

@[simp] theorem State.breakAt_same (s : State) (coach : Nat) (w : OutW) (streams : List Nat) :
    SameStore s (s.breakAt coach w streams) := by
  simp only [State.breakAt]; split <;> simp

@[simp] theorem State.breakTriples_same (s : State) (coach : Nat) (w : OutW) : SameStore s (s.breakTriples coach w) := by
  simp [State.breakTriples]

@[simp] theorem State.resendAll_same (coach : Nat) (r : Nat × Nat) (l : List OutW) (s : State) :
    SameStore s (s.resendAll coach r l) := by
  induction l generalizing s with
  | nil => simp [State.resendAll]
  | cons w l ih => simp [State.resendAll, ih]

@[simp] theorem execRetransmitTimeout_same (coach n : Nat) (s : State) : Replies (execRetransmitTimeout coach n s) (SameStore s) := by
  unfold execRetransmitTimeout
  dsimp only
  split
  · simp
  split
  · split <;> simp
  · simp

@[simp] theorem State.breakEnd_same (s : State) (coach : Nat) (faddr : Word) : SameStore s (s.breakEnd coach faddr) := by
  simp only [State.breakEnd]; split <;> simp

@[simp] theorem execBreakNotice_same (n : Nat) (s : State) : Replies (execBreakNotice n s) (SameStore s) := by
  unfold execBreakNotice
  split
  · simp
  split
  · simp
  · dsimp only
    refine replies_next.2 (.trans ?_ (State.breakEnd_same ..))
    refine .trans (.trans ?_ (State.foldl_same State.dropMsg_same ..)) (.refl _)
    simp

/-! ## Remote loads, collectives and host copies -/

@[simp] theorem execRemoteReadArrive_same (n : Nat) (s : State) : Replies (execRemoteReadArrive n s) (SameStore s) := by
  unfold execRemoteReadArrive
  split
  · simp
  split
  · simp
  dsimp only
  split <;> simp

theorem execReadDataArrive_keeps (n : Nat) (s : State) : Replies (execReadDataArrive n s) (Keeps s) := by
  unfold execReadDataArrive
  split
  · simp
  split
  · simp
  split
  · simp
  split
  · dsimp only
    split
    · simp
    split
    · simp
    split
    · exact replies_next.2 (((s.landUnit_keeps ..).trans (State.dropMsg_same ..).keeps).trans (State.finishOp_same ..).keeps)
    · exact replies_next.2 ((s.landUnit_keeps ..).trans (State.nextUnit_same ..).keeps)
  · simp

@[simp] theorem execRemoteLoadTimeout_same (core n : Nat) (s : State) : Replies (execRemoteLoadTimeout core n s) (SameStore s) := by
  unfold execRemoteLoadTimeout
  split
  · simp
  split
  · split <;> simp
  · simp

@[simp] theorem execFredContribution_same (n : Nat) (s : State) : Replies (execFredContribution n s) (SameStore s) := by
  unfold execFredContribution
  split
  · simp
  split
  · simp
  split
  · simp
  split
  · simp
  dsimp only
  split <;> simp

@[simp] theorem State.settleOp_same (s : State) (o : Op) : SameStore s (s.settleOp o).2 := by
  unfold State.settleOp; split <;> simp

theorem execFredComplete_keeps (core n : Nat) (s : State) : Replies (execFredComplete core n s) (Keeps s) := by
  unfold execFredComplete
  split
  · simp
  split
  · split
    · simp
    split
    · simp
    next o _ _ _ _ _ _ _ _ _ _ _ _ _ =>
    have h1 := (s.settleOp_same o).keeps
    dsimp only
    split
    · exact replies_next.2 (h1.trans (State.setOp_same ..).keeps)
    · have h2 : ∀ l k bs, Keeps s { (s.settleOp o).2.takeSlot true l 1 with mem := (s.settleOp o).2.mem.write k bs } :=
        fun l k bs => ⟨by simp, fun h => Mem.wf_write _ _ _ (h1.2 h)⟩
      split
      · exact replies_next.2 (.trans (h2 ..) (State.finishOp_same ..).keeps)
      · exact replies_next.2 (.trans (h2 ..) (State.nextUnit_same ..).keeps)
  · simp

@[simp] theorem execFredTimeout_same (core n : Nat) (s : State) : Replies (execFredTimeout core n s) (SameStore s) := by
  unfold execFredTimeout
  split
  · simp
  split
  · extract_lets k
    clear_value k
    split <;> simp
  · simp

@[simp] theorem State.passFbar_same (k : Nat) (l : List Nat) (s : State) : SameStore s (s.passFbar k l) := by
  induction l generalizing s with
  | nil => simp [State.passFbar]
  | cons c l ih => simp only [State.passFbar]; split <;> simp [ih]

@[simp] theorem State.endFbars_same (l : List Nat) (s : State) : SameStore s (s.endFbars l) := by
  induction l generalizing s with
  | nil => simp [State.endFbars]
  | cons c l ih => simp only [State.endFbars]; split <;> simp [ih]

@[simp] theorem execFbarComplete_same (gang : Nat) (s : State) : Replies (execFbarComplete gang s) (SameStore s) := by
  unfold execFbarComplete
  dsimp only
  split
  · simp
  · refine replies_next.2 (.trans ?_ (State.endFbars_same ..))
    split
    · simp
    · split <;> simp

theorem State.copyUnit_keeps (s : State) (core : Nat) (o : Op) (d2h : Bool) : Keeps s (s.copyUnit core o d2h) := by
  unfold State.copyUnit
  extract_lets kc dev t o1 s1 cells
  have ht : SameStore s t.2 := by unfold t; split <;> simp
  have h1 : SameStore s s1 := ht.trans (State.takeCtx_same ..)
  clear_value s1
  split
  · refine .trans ?_ (State.setOp_same ..).keeps
    exact ⟨h1.1, fun h => Mem.wf_write _ _ _ (h1.keeps.2 h)⟩
  · exact (h1.keeps.trans (s1.storeCells_keeps ..)).trans (State.setOp_same ..).keeps

theorem execCphGranule_keeps (core n : Nat) (s : State) : Replies (execCphGranule core n s) (Keeps s) := by
  unfold execCphGranule
  split
  · simp
  split
  · split
    · simp
    split
    · dsimp only
      split
      · simp
      split
      · simp
      · exact replies_next.2 ((s.mishap_same).keeps.trans (State.copyUnit_keeps ..))
    · exact replies_next.2 (s.copyUnit_keeps ..)
  · simp

@[simp] theorem execCphComplete_same (core n : Nat) (s : State) : Replies (execCphComplete core n s) (SameStore s) := by
  unfold execCphComplete
  split
  · simp
  split
  · split <;> simp
  · simp

theorem Keeps.refl (s : State) : Keeps s s := ⟨rfl, id⟩

/-! ## One write or one clear -/

theorem State.cleared_keeps (s : State) (k n : Nat) : Keeps s { s with mem := s.mem.clear k n } := ⟨rfl, Mem.wf_clear _ _ _⟩

theorem State.written_keeps (s : State) (k : Nat) (bs : List Byte) : Keeps s { s with mem := s.mem.write k bs } :=
  ⟨rfl, Mem.wf_write _ _ _⟩

theorem State.numberSet_keeps (s : State) (l : Loc) (n v : Nat) : Keeps s { s with mem := s.mem.setNum l n v } :=
  ⟨rfl, Mem.wf_setNum _ _ _ _⟩

/-! ## Launch units -/

@[simp] theorem State.accept_same (s : State) (g tenant : Nat) (words : List Word) (recAt : Option Nat)
    (parent : Option (Nat × Nat × Nat × Nat)) : SameStore s (s.accept g tenant words recAt parent) := by simp [State.accept]

theorem State.setRecord_keeps (s : State) (g code st : Nat) : Keeps s (s.setRecord g code st) := by
  unfold State.setRecord
  split
  · exact ⟨rfl, fun h => Mem.wf_setNum _ _ _ _ h⟩
  · simp

theorem State.takeRecords_keeps (die tenant base log2n : Nat) (n : Nat) (s : State) (i : Nat) :
    Keeps s (s.takeRecords die tenant base log2n n i).1 := by
  induction n generalizing s i with
  | zero => simp [State.takeRecords]
  | succ n ih =>
    unfold State.takeRecords
    split
    · simp
    · refine .trans ?_ (ih ..)
      split
      · exact s.numberSet_keeps ..
      · exact .trans (s.accept_same ..).keeps (State.setRecord_keeps ..)

theorem execJobLogScan_keeps (die vf : Nat) (s : State) : Replies (execJobLogScan die vf s) (Keeps s) := by
  simp only [execJobLogScan]
  split
  · simp
  split
  · exact replies_next.2 ⟨by simp, by simpa using Mem.wf_setNum _ _ _ _⟩
  split
  · simp
  · exact replies_next.2 ((State.takeRecords_keeps ..).trans (State.numberSet_keeps ..))

@[simp] theorem State.releaseHolds_same (s : State) (gi : Nat) : SameStore s (s.releaseHolds gi) := by
  refine State.foldl_same (fun s d => ?_) ..
  dsimp only
  split <;> simp

@[simp] theorem State.backToWait_same (s : State) (gi : Nat) : SameStore s (s.backToWait gi) := by
  simp only [State.backToWait]; split <;> simp

@[simp] theorem State.revoke_same (s : State) (gi die : Nat) (coaches : List Nat) : SameStore s (s.revoke gi die coaches) :=
  State.foldl_same (fun s g => s.backToWait_same g) ..

@[simp] theorem State.hold_same (s : State) (gi key die : Nat) (coaches : List Nat) : SameStore s (s.hold gi key die coaches) := by
  simp [State.hold]

@[simp] theorem State.askHolds_same (gi key try_ : Nat) (l : List (Nat × List Nat)) (s : State) :
    SameStore s (s.askHolds gi key try_ l) := by
  induction l generalizing s with
  | nil => simp [State.askHolds]
  | cons p l ih =>
    simp only [State.askHolds]
    refine .trans ?_ (ih _)
    split <;> simp

@[simp] theorem State.requestPreempt_same (s : State) (gi tmo : Nat) : SameStore s (s.requestPreempt gi tmo) := by
  simp only [State.requestPreempt]
  split
  · simp
  · split <;> simp
  · simp

@[simp] theorem State.reinstall_same (s : State) (gi : Nat) : SameStore s (s.reinstall gi) := by
  unfold State.reinstall
  extract_lets g put
  have hp : ∀ s x, SameStore s (put s x) := fun s x => by simp [put]
  exact .trans (by simp) (State.foldl_same hp ..)

@[simp] theorem State.askToLeave_same (s : State) (gi : Nat) (coaches : List Nat) : SameStore s (s.askToLeave gi coaches) :=
  State.foldl_same (fun s _ => s.requestPreempt_same ..) ..

@[simp] theorem State.startHolds_same (s : State) (gi : Nat) (l : List (Nat × List Nat)) : SameStore s (s.startHolds gi l) := by
  simp [State.startHolds]

@[simp] theorem State.tryPlace_same (s : State) (gi : Nat) (blocked : List Nat) : SameStore s (s.tryPlace gi blocked).2 := by
  unfold State.tryPlace
  dsimp only
  split
  · simp
  split
  · split <;> simp
  split
  · simp
  · split <;> simp

@[simp] theorem State.placeFrom_same (die : Nat) (l blocked : List Nat) (s : State) : SameStore s (s.placeFrom die l blocked) := by
  induction l generalizing s blocked with
  | nil => simp [State.placeFrom]
  | cons c l ih =>
    unfold State.placeFrom
    split
    · exact ih ..
    next gi _ =>
      split
      · exact ih ..
      have ht := s.tryPlace_same gi blocked
      split
      next h => simpa [h] using ht
      next h => exact .trans (by simpa [h] using ht) (ih ..)

@[simp] theorem execGangPlacement_same (die : Nat) (s : State) : Replies (execGangPlacement die s) (SameStore s) := by
  unfold execGangPlacement
  split
  · refine replies_next.2 (.trans (State.foldl_same (fun s gi => ?_) ..) (State.placeFrom_same ..))
    split <;> simp
  · simp

@[simp] theorem State.noteAnswer_cyc (s : State) (die : Nat) : (s.noteAnswer die).cyc = s.cyc := rfl

@[simp] theorem execHoldRequest_same (n : Nat) (s : State) : Replies (execHoldRequest n s) (SameStore s) := by
  unfold execHoldRequest
  split
  · simp
  split
  · dsimp only
    split
    · simp
    split <;> simp
  · simp

@[simp] theorem State.beginLoad_same (s : State) (gi : Nat) (p : Nat × Nat) : SameStore s (s.beginLoad gi p) := by
  simp [State.beginLoad]

@[simp] theorem execHoldCommit_same (gi : Nat) (s : State) : Replies (execHoldCommit gi s) (SameStore s) := by
  unfold execHoldCommit
  dsimp only
  split
  · simp
  split
  · split <;> simp
  · simp

theorem State.clearHome_keeps (s : State) (coach : Nat) (e : MapEntry) : Keeps s (s.clearHome coach e) := by
  simp only [State.clearHome]
  split
  · exact ⟨rfl, fun h => Mem.wf_clear _ _ _ h⟩
  · split
    · simp
    · exact ⟨rfl, fun h => Mem.wf_clear _ _ _ h⟩
  · simp

theorem State.clearCapGranule_keeps (s : State) (coach g : Nat) : Keeps s (s.clearCapGranule coach g) := by
  unfold State.clearCapGranule
  refine .trans ?_ (State.notePages_same ..).keeps
  exact ⟨rfl, Bits.wf_filter (w := 8) _ _⟩

theorem State.clearCap_keeps (s : State) (coach : Nat) : Keeps s (s.clearCap coach) := by
  refine State.foldl_keeps (fun s g => ?_) ..
  split
  · simp
  · exact s.clearCapGranule_keeps coach g

theorem State.placeChunk_keeps (s : State) (coach ph0 : Nat) (c : Nat × List Byte) : Keeps s (s.placeChunk coach ph0 c) := by
  unfold State.placeChunk
  refine .trans ?_ (State.notePages_same ..).keeps
  exact ⟨rfl, fun h => Mem.wf_writeCells _ _ h⟩

theorem State.loadControl_keeps (s : State) (die img core : Nat) : Keeps s (s.loadControl die img core) :=
  ⟨rfl, fun h => Mem.wf_write _ _ _ (Mem.wf_write _ _ _ (Mem.wf_clear _ _ _ h))⟩

theorem State.loadContext_keeps (s : State) (coach : Nat) : Keeps s (s.loadContext coach) := by
  unfold State.loadContext
  extract_lets k
  split
  · simp
  next gi _ =>
    extract_lets g home img maps hpol core s1 s2 s3 s4 s5 data
    have h1 : Keeps s s1 := (SameStore.refl s).keeps
    have h2 : Keeps s1 s2 := State.foldl_keeps (fun t c => .trans (t := t.setCore c core) (by simp) (State.loadControl_keeps ..)) ..
    have h3 : Keeps s2 s3 := s2.cleared_keeps ..
    have h4 : Keeps s3 s4 := State.foldl_keeps (fun t e => t.clearHome_keeps coach e) ..
    have h5 : Keeps s4 s5 := s4.written_keeps ..
    exact (((h1.trans h2).trans h3).trans (h4.trans h5)).trans (State.foldl_keeps (fun t c => t.placeChunk_keeps ..) ..)

@[simp] theorem State.sendTicks_same (s : State) (gi t : Nat) (resume : Bool) : SameStore s (s.sendTicks gi t resume) := by
  simp [State.sendTicks]

theorem execContextLoaded_keeps (coach : Nat) (s : State) : Replies (execContextLoaded coach s) (Keeps s) := by
  simp only [execContextLoaded]
  split
  · split
    · simp
    · split
      · exact replies_next.2 (((s.loadContext_keeps coach).trans (.refl _)).trans (State.sendTicks_same ..).keeps)
      · exact replies_next.2 ((s.loadContext_keeps coach).trans (.refl _))
  · simp

@[simp] theorem State.launchResult_same (s : State) (core : Nat) (w : Option Nat) (addr : Word) :
    SameStore s (s.launchResult core w addr).2 := by
  unfold State.launchResult
  dsimp only
  split
  · simp
  split
  · simp
  split
  · simp
  cases w with
  | none =>
    simp only [Bool.false_eq_true, if_false]
    split <;> simp
  | some k =>
    dsimp only
    split
    · simp
    · split <;> simp

@[simp] theorem execLaunchAnswer_same (core : Nat) (s : State) : Replies (execLaunchAnswer core s) (SameStore s) := by
  unfold execLaunchAnswer; split <;> simp

@[simp] theorem execChildEnd_same (gang : Nat) (s : State) : Replies (execChildEnd gang s) (SameStore s) := by
  simp only [execChildEnd]
  split
  · simp
  split
  · simp
  split
  · simp
  split <;> simp

/-! ## Save areas -/

theorem State.writeSave_keeps (s : State) (coach reason : Nat) : Keeps s (s.writeSave coach reason) := by
  unfold State.writeSave
  extract_lets base m0 rec_ m1
  have h0 : s.mem.wf = true → m0.wf = true := fun h => Mem.wf_writeCells _ _ (Mem.wf_write _ _ _ (Mem.wf_clear _ _ _ h))
  have hr : ∀ m c, m.wf = true → (rec_ m c).wf = true := fun m c h => copyRange_wf (writePieces_wf h ..) ..
  clear_value m0 rec_
  have h1 : s.mem.wf = true → m1.wf = true := fun h => foldl_wf hr _ (h0 h)
  clear_value m1
  exact ⟨rfl, fun h => copyRange_wf (h1 h) _ _ _⟩

theorem State.ranged_keeps (s : State) (src dst n : Nat) : Keeps s { s with mem := copyRange s.mem src dst n } :=
  ⟨rfl, fun h => copyRange_wf h src dst n⟩

theorem State.readRecord_keeps (s : State) (coach core : Nat) : Keeps s (s.readRecord coach core) := by
  unfold State.readRecord
  extract_lets base x c d x1 s1
  have h1 : Keeps s s1 := (SameStore.refl s).keeps
  clear_value s1
  exact h1.trans (s1.ranged_keeps ..)

theorem State.readSave_keeps (s : State) (coach : Nat) : Keeps s (s.readSave coach) := by
  unfold State.readSave
  extract_lets s1
  have h1 : Keeps s s1 := State.foldl_keeps (fun t c => t.readRecord_keeps coach c) ..
  clear_value s1
  exact h1.trans (s1.ranged_keeps ..)

/-! ## One part of the state set -/

theorem State.setCore_same (s : State) (n : Nat) (c : Core) : SameStore s (s.setCore n c) := .refl s

theorem State.setCoach_same (s : State) (n : Nat) (c : Coach) : SameStore s (s.setCoach n c) := .refl s

theorem State.setGang_same (s : State) (n : Nat) (g : Gang) : SameStore s (s.setGang n g) := .refl s

theorem State.setDie_same (s : State) (n : Nat) (d : Die) : SameStore s (s.setDie n d) := .refl s

theorem State.setCtl_same (s : State) (n : Nat) (c : Ctl) : SameStore s (s.setCtl n c) := .refl s

/-! ## Launch units: the ends of cores, gangs and dies -/

@[simp] theorem execPreemptionRequest_same (gang : Nat) (s : State) : Replies (execPreemptionRequest gang s) (SameStore s) := by
  simp [execPreemptionRequest]

@[simp] theorem execFenceComplete_same (core : Nat) (s : State) : Replies (execFenceComplete core s) (SameStore s) := by
  simp [execFenceComplete]

@[simp] theorem execCoreExited_same (core : Nat) (s : State) : Replies (execCoreExited core s) (SameStore s) := by
  simp only [execCoreExited]
  split
  · split <;> simp
  · simp

@[simp] theorem State.openStep_same (s : State) (coach : Nat) : SameStore s (s.openStep coach) := by simp [State.openStep]

@[simp] theorem State.leaveStepBegin_same (s : State) (core : Nat) : SameStore s (s.leaveStepBegin core) := by
  simp only [State.leaveStepBegin]; split <;> simp

@[simp] theorem execStepBeginRelease_same (gang : Nat) (s : State) : Replies (execStepBeginRelease gang s) (SameStore s) := by
  simp only [execStepBeginRelease]
  split
  · simp
  split
  · split
    · exact replies_next.2 (.trans (by simp) (State.foldl_same (fun s c => s.openStep_same c) ..))
    · simp
  split
  · exact replies_next.2 (.trans (State.foldl_same (fun s c => by simp) ..) (State.foldl_same (fun s c => s.leaveStepBegin_same c) ..))
  · simp

@[simp] theorem State.leaveStepCommit_same (s : State) (core : Nat) (v : Word) : SameStore s (s.leaveStepCommit core v) := by
  simp only [State.leaveStepCommit]; split <;> simp

@[simp] theorem execStepCommitDecision_same (gang : Nat) (s : State) : Replies (execStepCommitDecision gang s) (SameStore s) := by
  simp only [execStepCommitDecision]
  split
  · refine replies_next.2 (.trans ?_ (State.foldl_same (fun s c => s.leaveStepCommit_same ..) ..))
    exact .trans (by simp) (State.foldl_same (fun s c => by simp) ..)
  · simp

@[simp] theorem execBarComplete_same (gang : Nat) (sc : BitVec 3) (group : Nat) (s : State) :
    Replies (execBarComplete gang sc group s) (SameStore s) := by
  simp only [execBarComplete]
  split
  · simp
  split
  · exact replies_next.2 (State.foldl_same (fun s c => by simp) ..)
  · simp

@[simp] theorem State.clearStreams_same (s : State) (coaches : List Nat) : SameStore s (s.clearStreams coaches) := by
  simp [State.clearStreams]

@[simp] theorem State.freeCoach_same (s : State) (coach : Nat) : SameStore s (s.freeCoach coach) := by
  refine .trans (.trans (State.foldl_same (fun s c => ?_) ..) (State.setCoach_same ..)) (State.foldl_same (fun s c => by simp) ..)
  exact State.foldl_same (fun s o => s.releaseWalk_same c o) ..

@[simp] theorem State.freeAll_same (s : State) (l : List Nat) : SameStore s (l.foldl (fun s c => s.freeCoach c) s) :=
  State.foldl_same (fun s c => s.freeCoach_same c) l s

theorem State.setCounts_keeps (s : State) (gi : Nat) : Keeps s (s.setCounts gi) := by
  simp only [State.setCounts]
  split
  · refine ⟨rfl, fun h => ?_⟩
    dsimp only
    exact Mem.wf_setNum _ _ _ _ (Mem.wf_setNum _ _ _ _ h)
  · simp

theorem State.endGang_keeps (s : State) (gi code st : Nat) (stand : GStand) : Keeps s (s.endGang gi code st stand) := by
  unfold State.endGang
  extract_lets g s1 mine s2
  have h1 : Keeps s s1 := (s.setCounts_keeps gi).trans (State.setRecord_keeps ..)
  have h2 : SameStore s1 s2 := (s1.freeAll_same mine).trans (State.clearStreams_same ..)
  exact h1.trans (h2.trans (by simp)).keeps

theorem State.endFaulted_keeps (s : State) (gi : Nat) : Keeps s (s.endFaulted gi) := s.endGang_keeps ..

theorem execGangDone_keeps (gang : Nat) (s : State) : Replies (execGangDone gang s) (Keeps s) := by
  simp only [execGangDone]
  split
  · exact replies_next.2 (s.endGang_keeps ..)
  · simp

theorem State.noteAnswer_same (s : State) (die : Nat) : SameStore s (s.noteAnswer die) := .refl s

@[simp] theorem execStopMessage_same (coach : Nat) (s : State) : Replies (execStopMessage coach s) (SameStore s) := by
  simp only [execStopMessage]
  split
  · split <;> simp
  · simp

@[simp] theorem execDeadlineFault_same (gang : Nat) (s : State) : Replies (execDeadlineFault gang s) (SameStore s) := by
  simp only [execDeadlineFault]
  split
  · exact replies_next.2 (State.foldl_same (fun s c => s.raise_same ..) ..)
  · simp

theorem State.setGang_endFaulted_keeps (s : State) (gi : Nat) (g : Gang) : Keeps s ((s.setGang gi g).endFaulted gi) :=
  (State.setGang_same ..).keeps.trans (State.endFaulted_keeps ..)

theorem execEviction_keeps (gang : Nat) (s : State) : Replies (execEviction gang s) (Keeps s) := by
  simp only [execEviction]
  split
  · exact replies_next.2 (s.setGang_endFaulted_keeps ..)
  · simp

@[simp] theorem State.absentPeers_same (s : State) (die gi : Nat) : SameStore s (s.absentPeers die gi) := by
  refine State.foldl_same (fun s c => State.foldl_same (fun s o => ?_) ..) ..
  split
  · simp
  split
  · simp
  · split
    · split <;> simp
    · simp
  · simp

@[simp] theorem State.lostTarget_same (s : State) (die coach : Nat) : SameStore s (s.lostTarget die coach) := by
  simp only [State.lostTarget]; split <;> simp

@[simp] theorem State.lostSource_same (s : State) (die logical coach : Nat) : SameStore s (s.lostSource die logical coach) := by
  simp only [State.lostSource]
  split
  · simp
  · refine .trans (.trans (State.setDie_same ..) (State.foldl_same (fun s i => s.dropMsg_same i) ..)) (State.breakEnd_same ..)

theorem State.loseFor_keeps (s : State) (gi l : Nat) : Keeps s (s.loseFor gi l) := by
  unfold State.loseFor
  extract_lets s0 g gone die g1 s1 dead
  have h0 : SameStore s s0 := by unfold s0; split <;> simp
  have h1 : SameStore s s1 := h0.trans (.trans (State.setGang_same ..) (State.freeAll_same ..))
  clear_value s0 s1
  split
  · exact h0.keeps
  · exact h0.keeps
  · exact h0.keeps
  split
  · exact h0.keeps
  refine h1.keeps.trans ?_
  split
  · exact s1.setGang_endFaulted_keeps ..
  · simp
  · extract_lets s2 s3
    have h2 : SameStore s1 s2 := .trans (s1.raise_same ..) (State.absentPeers_same ..)
    have h3 : SameStore s2 s3 := State.foldl_same (fun s c => s.lostTarget_same ..) ..
    exact (h2.trans (h3.trans (State.foldl_same (fun s c => s.lostSource_same ..) ..))).keeps

theorem State.loseAll_keeps (s : State) (die : Nat) : Keeps s (s.loseAll die) := by
  refine State.foldl_keeps (fun s gi => ?_) ..
  split
  · exact s.loseFor_keeps ..
  · exact .refl s

theorem execDieLost_keeps (die : Nat) (s : State) : Replies (execDieLost die s) (Keeps s) := by
  simp only [execDieLost]
  split
  · simp
  · refine replies_next.2 (.trans (SameStore.keeps (.trans ?_ (State.foldl_same (fun s l => s.linkDown_same l) ..))) (State.loseAll_keeps ..))
    simp

@[simp] theorem State.tickAsked_same (s : State) (die : Nat) : SameStore s (s.tickAsked die) := by
  unfold State.tickAsked; extract_lets d now; split <;> simp

@[simp] theorem State.markPoints_same (s : State) (coach : Nat) : SameStore s (s.markPoints coach) := by
  refine State.foldl_same (fun s c => ?_) ..
  dsimp only
  split <;> simp

@[simp] theorem State.fixSave_same (s : State) (g : Gang) : SameStore s (s.fixSave g) :=
  State.foldl_same (fun s c => by simp) ..

theorem State.afterSave_keeps (s : State) (gi : Nat) : Keeps s (s.afterSave gi) := by
  unfold State.afterSave
  extract_lets g d w
  split
  · exact .refl s
  split
  · exact SameStore.keeps ((s.freeAll_same ..).trans (.trans (State.clearStreams_same ..) (State.setGang_same ..)))
  · split
    · exact .refl s
    split
    · exact s.endFaulted_keeps gi
    split
    · refine SameStore.keeps (.trans (.trans (State.setDie_same ..) (State.foldl_same (fun s c => s.setCtl_same ..) ..)) (State.setGang_same ..))
    · exact s.endFaulted_keeps gi
  · exact .refl s

theorem State.saveCoach_keeps (s : State) (gi coach : Nat) : Keeps s (s.saveCoach gi coach) := by
  unfold State.saveCoach
  extract_lets g pre reason s1 k k1
  have h1 : SameStore s s1 := by
    unfold s1
    split
    · exact .refl s
    · exact State.foldl_same (fun s c => by simp) ..
  clear_value s1
  exact h1.keeps.trans ((s1.writeSave_keeps ..).trans ((State.setCoach_same ..).keeps.trans (State.afterSave_keeps ..)))

theorem execCoachSave_keeps (coach : Nat) (s : State) : Replies (execCoachSave coach s) (Keeps s) := by
  simp only [execCoachSave]
  split
  · simp
  split
  · split
    · exact replies_next.2 ((s.markPoints_same coach).trans (State.fixSave_same ..)).keeps
    · exact replies_next.2 (s.markPoints_same coach).keeps
  split
  · exact replies_next.2 (s.saveCoach_keeps ..)
  · simp

@[simp] theorem execGcmdResume_same (die : Nat) (fn : FnId) (value : Word) (s : State) :
    Replies (execGcmdResume die fn value s) (SameStore s) := by
  unfold execGcmdResume
  split
  · simp
  · split <;> simp

theorem execGcmdEnd_keeps (die : Nat) (fn : FnId) (value : Word) (s : State) : Replies (execGcmdEnd die fn value s) (Keeps s) := by
  unfold execGcmdEnd
  split
  · simp
  split
  · exact replies_next.2 (s.endFaulted_keeps _)
  · simp

@[simp] theorem State.spaceChains_same (s : State) (cores : List Nat) (first : Nat) : SameStore s (s.spaceChains cores first) := by
  refine State.foldl_same (fun s c => ?_) ..
  dsimp only
  split
  · split <;> simp
  · simp

theorem State.resumeCoach_keeps (s : State) (gi coach : Nat) : Keeps s (s.resumeCoach gi coach) := by
  refine .trans (s.readSave_keeps coach) (SameStore.keeps (.trans (.trans ?_ (State.spaceChains_same ..)) (State.setCoach_same ..)))
  exact State.foldl_same (fun s c => by simp) ..

theorem State.resumeCoaches_keeps (s : State) (gi : Nat) (l : List Nat) : Keeps s (l.foldl (fun s c => s.resumeCoach gi c) s) :=
  State.foldl_keeps (fun s c => s.resumeCoach_keeps gi c) l s

theorem execGangResume_keeps (gang : Nat) (s : State) : Replies (execGangResume gang s) (Keeps s) := by
  unfold execGangResume
  extract_lets g s1
  have h1 : Keeps s s1 := s.resumeCoaches_keeps ..
  clear_value s1
  split
  · exact replies_next.2 (h1.trans (SameStore.keeps (.trans (State.setGang_same ..) (State.sendTicks_same ..))))
  · simp

theorem State.rebuildStripe_keeps (s : State) (g : Gang) (l : Nat) (e : MapEntry) : Keeps s (s.rebuildStripe g l e) := by
  simp only [State.rebuildStripe]
  split
  · exact ⟨rfl, fun h => foldl_wf (fun m r hm => Mem.wf_write _ _ _ hm) _ h⟩
  · exact .refl s

theorem State.placeSpare_keeps (s : State) (gi l coach model : Nat) : Keeps s (s.placeSpare gi l coach model) := by
  unfold State.placeSpare
  extract_lets k hpol core0 ctl0 core k0 ph0 k1 s1 s2 s3
  have h1 : SameStore s s1 := .trans (State.setCoach_same ..) (State.foldl_same (fun s c => s.setCore_same ..) ..)
  have h2 : Keeps s1 s2 := s1.cleared_keeps ..
  have h3 : Keeps s2 s3 := .trans (State.foldl_keeps (fun s e => s.clearHome_keeps ..) ..) (State.clearCap_keeps ..)
  have h4 : Keeps s s3 := h1.keeps.trans (h2.trans h3)
  clear_value s3
  exact h4.trans (s3.written_keeps ..)

theorem State.replaceDie_keeps (s : State) (gi : Nat) (p : Nat × List Nat) : Keeps s (s.replaceDie gi p) := by
  unfold State.replaceDie
  extract_lets g model places coaches g1 s1
  have h1 : Keeps s s1 := .trans (State.setGang_same ..).keeps (State.foldl_keeps (fun s q => s.placeSpare_keeps ..) ..)
  exact h1.trans (State.foldl_keeps (fun s e => s.rebuildStripe_keeps ..) ..)

theorem State.restartCores_keeps (s : State) (gi coach map : Nat) : Keeps s (s.restartCores gi coach map) := by
  refine State.foldl_keeps (fun s c => ?_) ..
  dsimp only
  split
  · exact .trans (State.setCore_same ..).keeps (State.loadControl_keeps ..)
  · simp

theorem State.resetCoach_keeps (s : State) (gi coach : Nat) : Keeps s (s.resetCoach gi coach) := by
  unfold State.resetCoach
  extract_lets g k map now f shifted k0 ph0 fab0 k1 s1
  have h0 : Keeps s shifted := by
    unfold shifted
    split
    · exact .refl s
    · exact State.foldl_keeps (fun t w => t.doWrite_keeps ..) ..
  have h1 : Keeps s s1 := h0.trans (State.setCoach_same ..).keeps
  clear_value s1
  exact h1.trans (State.foldl_keeps (fun t w => t.doWrite_keeps ..) ..)

theorem State.reissue_keeps (s : State) (gi : Nat) (plan : List (Nat × List Nat)) : Keeps s (s.reissue gi plan) := by
  unfold State.reissue
  extract_lets g model s1 coaches maps g1 s2 s3 s4
  have h1 : Keeps s s1 := .trans (s.clearStreams_same _).keeps (State.foldl_keeps (fun s p => s.replaceDie_keeps gi p) ..)
  have h2 : Keeps s s2 := h1.trans (State.setGang_same ..).keeps
  have h3 : Keeps s s3 := h2.trans (State.foldl_keeps (fun s c => s.restartCores_keeps ..) ..)
  have h4 : Keeps s s4 := h3.trans (State.foldl_keeps (fun s c => s.resetCoach_keeps ..) ..)
  exact h4.trans (State.sendTicks_same ..).keeps

theorem State.endSpoiled_keeps (s : State) (gi : Nat) : Keeps s (s.endSpoiled gi) := by
  refine .trans ?_ (State.endFaulted_keeps ..)
  exact ⟨rfl, fun h => foldl_wf (fun m c hm => Mem.wf_write _ _ _ hm) _ h⟩

theorem execStepReissue_keeps (gang : Nat) (s : State) : Replies (execStepReissue gang s) (Keeps s) := by
  simp only [execStepReissue]
  split
  · split
    · exact replies_next.2 (s.setRecord_keeps ..)
    split
    · exact replies_next.2 (s.endSpoiled_keeps ..)
    split
    · exact replies_next.2 (s.reissue_keeps ..)
    · exact replies_next.2 ((State.setGang_same ..).keeps.trans (State.endSpoiled_keeps ..))
  · simp

/-! ## Management: registers, boot and the mailbox -/

theorem State.leavePool_keeps (s : State) (die tenant page : Nat) : Keeps s (s.leavePool die tenant page) := by
  unfold State.leavePool
  extract_lets d key p
  split
  · exact .refl s
  next k _ =>
    refine ⟨rfl, fun h => ?_⟩
    dsimp only
    split
    · exact Mem.wf_write _ _ _ h
    · exact h

theorem State.layPools_keeps (s : State) (die tenant : Nat) : Keeps s (s.layPools die tenant) :=
  .trans (State.setDie_same ..).keeps (State.foldl_keeps (fun s _ => s.leavePool_keeps ..) ..)

theorem State.writePf_keeps (s : State) (die off : Nat) (v : Word) : Keeps s (s.writePf die off v) := by
  unfold State.writePf
  extract_lets s1
  have h1 : SameStore s s1 := s.setDie_same ..
  split
  · exact h1.keeps.trans (s1.layPools_keeps ..)
  · exact h1.keeps

@[simp] theorem State.writeHrev_same (s : State) (die fn : Nat) (v : Word) : SameStore s (s.writeHrev die fn v) := s.setDie_same ..

@[simp] theorem execHrevWrite_same (die vf : Nat) (value : Word) (s : State) : Replies (execHrevWrite die vf value s) (SameStore s) := by
  unfold execHrevWrite; split <;> simp

@[simp] theorem execEvqaRead_same (die : Nat) (fn : FnId) (s : State) : Replies (execEvqaRead die fn s) (SameStore s) := by
  simp only [execEvqaRead]; split <;> simp

@[simp] theorem execHfaqRead_same (die : Nat) (s : State) : Replies (execHfaqRead die s) (SameStore s) := by
  simp only [execHfaqRead]; split <;> simp

@[simp] theorem State.writeTcap_same (s : State) (die tenant : Nat) (size : Bool) (v : Word) :
    SameStore s (s.writeTcap die tenant size v) := by
  unfold State.writeTcap
  extract_lets d base n
  split
  · simp
  · split <;> simp

@[simp] theorem execTcapWrite_same (die tenant : Nat) (size : Bool) (value : Word) (s : State) :
    Replies (execTcapWrite die tenant size value s) (SameStore s) := by simp [execTcapWrite]

theorem State.writeRegister_keeps (s : State) (die fn off : Nat) (v : Word) : Replies (s.writeRegister die fn off v) (Keeps s) := by
  unfold State.writeRegister
  extract_lets d
  split
  · split
    · exact replies_next.2 (s.setDie_same ..).keeps
    split
    · exact replies_next.2 (s.numberSet_keeps ..)
    split
    · exact replies_next.2 (s.writeTcap_same ..).keeps
    · exact replies_next.2 (s.writePf_keeps ..)
  split
  · exact replies_next.2 (.refl s)
  split
  · exact replies_next.2 (s.writeHrev_same ..).keeps
  split
  · split
    · exact replies_next.2 (s.setGang_same ..).keeps
    · exact replies_next.2 (s.endFaulted_keeps ..)
    · exact replies_next.2 (.refl s)
  split
  · exact (execKvpbWrite_same ..).mono fun t h => h.keeps
  · exact replies_next.2 (s.setDie_same ..).keeps

theorem execRegisterWrite_keeps (die : Nat) (fn : FnId) (offset : Nat) (value : Word) (s : State) :
    Replies (execRegisterWrite die fn offset value s) (Keeps s) := s.writeRegister_keeps ..

theorem execVirtualFunctionReset_keeps (die vf : Nat) (s : State) : Replies (execVirtualFunctionReset die vf s) (Keeps s) := by
  unfold execVirtualFunctionReset
  split
  · exact replies_next.2 (.refl s)
  extract_lets base one
  generalize List.range 65536 = slots
  refine replies_next.2 ⟨rfl, fun h => foldl_wf (fun m slot hm => ?_) slots h⟩
  unfold one
  dsimp only
  split
  · exact Mem.wf_setNum _ _ _ _ hm
  · exact hm

theorem State.setLink_same (s : State) (l : Nat) (x : Link) : SameStore s (s.setLink l x) := .refl s

@[simp] theorem State.trainLink_same (s : State) (die link : Nat) : SameStore s (s.trainLink die link) := by
  unfold State.trainLink
  extract_lets other o l back up s1
  split
  · exact .trans (t := s1) (.trans (s.setLink_same ..) (State.setLink_same ..)) (.refl s1)
  · exact .refl s

@[simp] theorem State.untrain_same (fresh : Bool) (die : Nat) (s : State) (link : Nat) : SameStore s (State.untrain fresh die s link) := by
  unfold State.untrain
  extract_lets l back s1 quiet
  have h1 : SameStore s s1 := by
    unfold s1
    split
    · exact .refl s
    · exact s.linkDown_same l
  exact h1.trans (.trans (s1.setLink_same ..) (State.setLink_same ..))

@[simp] theorem State.bootFails_same (s : State) (die : Nat) : SameStore s (s.bootFails die) :=
  .trans (s.setDie_same ..) (State.foldl_same (fun s l => State.untrain_same false die s l) ..)

@[simp] theorem State.stageWork_same (s : State) (die k : Nat) : SameStore s (s.stageWork die k) := by
  unfold State.stageWork
  extract_lets d
  split
  · exact s.setDie_same ..
  · exact .trans (s.setDie_same ..) (State.foldl_same (fun s l => s.trainLink_same die l) ..)
  · exact .refl s

@[simp] theorem State.bootFrom_same (die k : Nat) (l : List StageImage) (s : State) : SameStore s (s.bootFrom die k l) := by
  induction l generalizing k s with
  | nil => unfold State.bootFrom; extract_lets d; split <;> simp
  | cons x rest ih =>
    unfold State.bootFrom
    extract_lets d m
    split
    · have hm : SameStore s (s.setDie die { d with mgmt := { m with stage := k } }).mishap.2 := .trans (s.setDie_same ..) (State.mishap_same _)
      split
      next bad s1 heq =>
        have h1 : SameStore s s1 := by rwa [heq] at hm
        split
        · exact h1.trans (s1.bootFails_same die)
        · exact h1.trans ((s1.stageWork_same die k).trans (ih ..))
    · exact s.bootFails_same die

theorem State.clearDie_keeps (s : State) (die : Nat) : Keeps s (s.clearDie die) := by
  unfold State.clearDie
  extract_lets wipe coach m1 m2
  refine ⟨rfl, fun h => ?_⟩
  have hw : ∀ m l n, m.wf = true → (wipe m l n).wf = true := fun m l n hm => Mem.wf_clear _ _ _ hm
  have hm1 : m1.wf = true := foldl_wf (fun m k hm => hw _ _ _ (hw _ _ _ hm)) _ h
  have hm2 : m2.wf = true := foldl_wf (fun m c hm => hw _ _ _ hm) _ hm1
  clear_value m2
  exact Mem.wf_clear _ _ _ (hw _ _ _ (hw _ _ _ (hw _ _ _ hm2)))

theorem State.resetGang_keeps (die : Nat) (s : State) (gi : Nat) : Keeps s (State.resetGang die s gi) := by
  unfold State.resetGang
  extract_lets g here
  split
  · refine SameStore.keeps ?_
    exact (s.releaseHolds_same gi).trans ((State.freeAll_same ..).trans ((State.clearStreams_same ..).trans (State.setGang_same ..)))
  split
  · exact s.loseFor_keeps ..
  · exact .refl s

theorem execPowerOnReset_keeps (die : Nat) (s : State) : Replies (execPowerOnReset die s) (Keeps s) := by
  unfold execPowerOnReset
  extract_lets s0 s1 s2 d0 d1 s3 s4 d s5
  have h0 : SameStore s s0 := .trans (t := { s with net := s.net.filter fun p => p.2.dst != die }) ⟨rfl, rfl⟩
    (State.foldl_same (fun s l => State.untrain_same true die s l) ..)
  have h1 : Keeps s0 s1 := State.foldl_keeps (fun s gi => s.resetGang_keeps die gi) ..
  have h2 : SameStore s1 s2 := s1.freeAll_same _
  have h3 : Keeps s2 s3 := (s2.clearDie_keeps die).trans (State.setDie_same ..).keeps
  clear_value s3
  have h5 : SameStore s3 s5 := ⟨rfl, rfl⟩
  have h : Keeps s s5 := h0.keeps.trans (h1.trans (h2.keeps.trans (h3.trans h5.keeps)))
  clear_value s5
  split
  next bad s6 heq =>
    have h6 : SameStore s5 s6 := by simpa [heq] using s5.mishap_same
    split
    · exact replies_next.2 (h.trans (h6.trans (s6.bootFails_same die)).keeps)
    · exact replies_next.2 (h.trans (h6.trans (State.bootFrom_same ..)).keeps)

theorem State.mailDone_keeps (s : State) (die : Nat) (m : Mgmt) (out : List Byte) (err : Bool) : Keeps s (s.mailDone die m out err) :=
  (s.setDie_same ..).keeps.trans (State.written_keeps ..)

theorem execQuote_keeps (die : Nat) (s : State) : Replies (execQuote die s) (Keeps s) := by
  simp only [execQuote]
  split
  · exact replies_next.2 (s.mailDone_keeps ..)
  · simp

theorem execReadBadPageList_keeps (die : Nat) (s : State) : Replies (execReadBadPageList die s) (Keeps s) := by
  simp only [execReadBadPageList]
  split
  · exact replies_next.2 (s.mailDone_keeps ..)
  · simp

theorem execRetireGranules_keeps (die : Nat) (s : State) : Replies (execRetireGranules die s) (Keeps s) := by
  simp only [execRetireGranules]
  split
  · split
    · exact replies_next.2 (s.mailDone_keeps ..)
    · exact replies_next.2 (s.mailDone_keeps ..)
  · simp

theorem execStageUpdate_keeps (die : Nat) (s : State) : Replies (execStageUpdate die s) (Keeps s) := by
  simp only [execStageUpdate]
  split
  · split
    · split
      · exact replies_next.2 (s.mailDone_keeps ..)
      · exact replies_next.2 (s.mailDone_keeps ..)
    · exact replies_next.2 (s.mailDone_keeps ..)
  · simp

@[simp] theorem execMailboxInvalidCommand_same (die : Nat) (s : State) : Replies (execMailboxInvalidCommand die s) (SameStore s) := by
  unfold execMailboxInvalidCommand
  extract_lets d p
  split <;> simp

@[simp] theorem execTelemetrySample_same (die watts : Nat) (temps : List Nat) (s : State) :
    Replies (execTelemetrySample die watts temps s) (SameStore s) := by
  unfold execTelemetrySample
  extract_lets d
  split <;> simp

@[simp] theorem execPaceUpdate_same (die pace : Nat) (s : State) : Replies (execPaceUpdate die pace s) (SameStore s) := by
  unfold execPaceUpdate
  extract_lets d old goal
  split <;> simp

@[simp] theorem execPaceWindow_same (die : Nat) (s : State) : Replies (execPaceWindow die s) (SameStore s) := by
  unfold execPaceWindow
  split <;> simp

theorem execThermalLimit_keeps (die : Nat) (s : State) : Replies (execThermalLimit die s) (Keeps s) := by
  unfold execThermalLimit
  extract_lets d
  split
  · simp
  split
  · exact execDieLost_keeps die s
  · split <;> simp

@[simp] theorem execCorrectableError_same (coach : Nat) (info : Word) (s : State) : Replies (execCorrectableError coach info s) (SameStore s) :=
  replies_next.2 (s.setDie_same ..)

@[simp] theorem execUncorrectableError_same (coach : Nat) (info : Word) (s : State) :
    Replies (execUncorrectableError coach info s) (SameStore s) := by
  unfold execUncorrectableError
  extract_lets die d d1 s1 core
  have h1 : SameStore s s1 := s.setDie_same ..
  clear_value s1
  split
  · exact replies_next.2 h1
  · exact replies_next.2 (h1.trans (s1.raise_same ..))

/-! ## Lines and timed issue -/

@[simp] theorem State.runItem_same (s0 : State) (core line stage : Nat) (s : State) (i : Item) :
    SameStore s (s0.runItem core line stage s i) := by
  unfold State.runItem
  split
  · exact .refl s
  · extract_lets f
    have hf : SameStore s f := ⟨rfl, rfl⟩
    clear_value f
    split
    · exact hf.trans (f.result_same ..)
    · exact hf.trans (f.lane_same _)

@[simp] theorem runItems_same (s0 : State) (core line stage : Nat) (l : List Item) (s : State) :
    SameStore s (runItems s0 core line stage l s) := by
  induction l generalizing s with
  | nil => exact .refl s
  | cons i rest ih =>
    unfold runItems
    split
    · exact .refl s
    · exact .trans (s0.runItem_same ..) (ih _)

@[simp] theorem State.finishLine_same (s : State) (core line : Nat) (hnd : Bool) : SameStore s (s.finishLine core line hnd) := by
  unfold State.finishLine
  extract_lets s1
  have h1 : SameStore s s1 := by
    unfold s1
    split
    · exact s.discard_same core
    · exact .refl s
  clear_value s1
  exact h1.trans (.trans (t := s1.setCtl core _) ⟨rfl, rfl⟩ (.trans (t := State.setEng _ core _) ⟨rfl, rfl⟩ (State.settleSigs_same ..)))

theorem State.dispatch_same {s t : State} {core : Nat} (h : s.dispatch core = .go t) : SameStore s t := by
  unfold State.dispatch at h
  extract_lets c line hnd stage ps all is u at h
  split at h
  · cases h
  split at h
  · cases h
  split at h
  · cases h
  split at h
  · cases h
  · have hu : SameStore s u := runItems_same ..
    have hf : SameStore u (u.finishLine core line hnd) := u.finishLine_same ..
    rw [← Dispatch.go.inj h]
    exact hu.trans hf

theorem State.tryDispatch_same {s t : State} {core : Nat} (h : s.tryDispatch core = .go t) : SameStore s t := by
  unfold State.tryDispatch at h
  extract_lets c at h
  split at h
  · exact s.dispatch_same h
  · cases h

@[simp] theorem execLineDispatch_same (core : Nat) (s : State) : Replies (execLineDispatch core s) (SameStore s) := by
  unfold execLineDispatch
  split
  · split
    · exact replies_next.2 (.refl s)
    · exact replies_next.2 (s.raise_same ..)
    next t h =>
      split
      · exact replies_next.2 (.refl s)
      · exact replies_next.2 (s.tryDispatch_same h)
  · exact replies_next.2 (.refl s)

@[simp] theorem execHandlerEntry_same (core : Nat) (s : State) : Replies (execHandlerEntry core s) (SameStore s) := by
  unfold execHandlerEntry
  extract_lets c
  split
  · exact replies_next.2 (.refl s)
  split
  · split
    · exact replies_next.2 (.refl s)
    · exact replies_next.2 (s.setCtl_same ..)
  · exact replies_next.2 (.refl s)

@[simp] theorem execTierLookupAnswer_same (core : Nat) (s : State) : Replies (execTierLookupAnswer core s) (SameStore s) :=
  replies_next.2 (.refl s)

@[simp] theorem enterAll_same (coach : Nat) (l : List Nat) (s : State) : SameStore s (enterAll coach l s) := by
  induction l generalizing s with
  | nil => exact .refl s
  | cons c rest ih =>
    unfold enterAll
    extract_lets x
    split
    · exact ih s
    · exact .trans (t := (s.setCoach coach _).setEng c _) ⟨rfl, rfl⟩ (ih _)

@[simp] theorem State.ringCycle_same (s : State) (coach : Nat) : SameStore s (s.ringCycle coach) :=
  (s.setCoach_same coach _).trans (enterAll_same ..)

theorem State.setEng_same (s : State) (n : Nat) (x : Eng) : SameStore s (s.setEng n x) := .refl s

@[simp] theorem State.cutGathers_same (s : State) (core : Nat) : SameStore s (s.cutGathers core) := by
  unfold State.cutGathers
  exact s.setEng_same ..

@[simp] theorem State.cutDue_same (s : State) (core : Nat) (due : List (Queue × Entry)) : SameStore s (s.cutDue core due) := by
  refine State.foldl_same (fun s p => ?_) ..
  dsimp only
  split <;> simp

@[simp] theorem State.cutFailed_same (s : State) (core : Nat) (due : List (Queue × Entry)) (fs : List (Nat × Nat × Word)) :
    SameStore s (s.cutFailed core due fs) := by
  unfold State.cutFailed
  split <;> simp

@[simp] theorem State.openCycle_same (s : State) (coach : Nat) : SameStore s (s.openCycle coach) := by
  unfold State.openCycle
  extract_lets k live dues accs due s1
  split
  · exact .refl s
  split
  · exact s.setCoach_same ..
  next fs _ =>
    extract_lets s2 s3
    have h1 : SameStore s s1 := s.setCoach_same ..
    have h2 : SameStore s1 s2 := State.foldl_same (fun s d => s.cutFailed_same ..) ..
    have h3 : SameStore s2 s3 := .trans (State.foldl_same (fun s f => s.raise_same ..) ..) (State.foldl_same (fun s c => s.cutGathers_same c) ..)
    have h : SameStore s s3 := h1.trans (h2.trans h3)
    clear_value s3
    split
    · exact h.trans (s3.beginDrain_same coach)
    · exact h

@[simp] theorem State.bareRun_same (s : State) (core : Nat) (q : Queue) (e : Entry) : SameStore s (s.bareRun core q e) := by
  unfold State.bareRun
  extract_lets x
  split <;> simp

theorem State.focusEntry_same (s : State) (core : Nat) (e : Entry) : SameStore s (s.focusEntry core e) := ⟨rfl, rfl⟩

@[simp] theorem State.carryOut_same (s : State) (core : Nat) (e : Entry) : SameStore s (s.carryOut core e) :=
  .trans (s.focusEntry_same core e) (.trans (State.lane_same _ e.ins) ⟨rfl, rfl⟩)

@[simp] theorem State.issueHead_same (s : State) (core : Nat) (q : Queue) : SameStore s (s.issueHead core q) := by
  unfold State.issueHead
  extract_lets x k c k1
  split
  · exact .refl s
  extract_lets c1 x1 x2
  exact .trans (t := ((s.setCoach (coachOf core) k1).setCtl core c1).setEng core x2) ⟨rfl, rfl⟩
    (.trans (State.carryOut_same ..) (State.bareRun_same ..))

@[simp] theorem execTimedIssue_same (core : Nat) (q : Queue) (s : State) : Replies (execTimedIssue core q s) (SameStore s) := by
  unfold execTimedIssue
  extract_lets kc t
  have ht : SameStore s t := s.openCycle_same kc
  clear_value t
  split
  · split
    · exact replies_next.2 (ht.trans (t.issueHead_same ..))
    · exact replies_next.2 (.refl s)
  · exact replies_next.2 (.refl s)

@[simp] theorem execRingBeatPark_same (coach : Nat) (s : State) : Replies (execRingBeatPark coach s) (SameStore s) := by
  unfold execRingBeatPark
  extract_lets t
  have ht : SameStore s t := s.openCycle_same coach
  clear_value t
  split
  · split
    · exact replies_next.2 (ht.trans (t.ringCycle_same ..))
    · exact replies_next.2 (.refl s)
  · exact replies_next.2 (.refl s)

theorem State.outEff_keeps (core : Nat) (r : Run) (s : State) (w : WEff) : Keeps s (State.outEff core r s w) := by
  unfold State.outEff
  split
  · exact s.storeCells_keeps ..
  · exact (s.postPiece_same ..).keeps
  · exact .refl s

theorem State.coreCycle_keeps (late : List Nat) (s : State) (core : Nat) (runs : List Run) : Keeps s (s.coreCycle late core runs) := by
  unfold State.coreCycle
  extract_lets act p c c1 kept x s1 kc k s2
  have h1 : SameStore s s1 := ⟨rfl, rfl⟩
  have h2 : SameStore s s2 := by
    unfold s2
    clear_value s1
    split
    · exact h1.trans (s1.setCoach_same ..)
    · exact h1
  clear_value s2
  exact h2.keeps.trans (State.foldl_keeps (fun s r => State.foldl_keeps (fun s w => s.outEff_keeps core r w) ..) ..)

@[simp] theorem State.settleCore_same (s : State) (core : Nat) : SameStore s (s.settleCore core) :=
  (s.settleSigs_same core).trans (State.setCore_same ..)

theorem State.performCycle_keeps (s : State) (coach : Nat) : Keeps s (s.performCycle coach) := by
  unfold State.performCycle
  extract_lets late halves all s1 k s2
  have h1 : Keeps s s1 := by
    refine State.foldl_keeps (fun t p => ?_) ..
    split
    · exact .refl t
    · exact t.coreCycle_keeps ..
  clear_value s1
  have h2 : SameStore s1 s2 := s1.setCoach_same ..
  refine h1.trans (h2.trans (State.foldl_same (fun t p => ?_) ..)).keeps
  split <;> simp

theorem execTimedWritePerform_keeps (coach : Nat) (s : State) : Replies (execTimedWritePerform coach s) (Keeps s) := by
  unfold execTimedWritePerform
  extract_lets t
  have ht : SameStore s t := s.openCycle_same coach
  clear_value t
  split
  · split
    · exact replies_next.2 (ht.keeps.trans (t.performCycle_keeps ..))
    · exact replies_next.2 (.refl s)
  · exact replies_next.2 (.refl s)

@[simp] theorem State.tlFault_same (s : State) (coach : Nat) (c : Nat × Nat) : SameStore s (s.tlFault coach c) := by
  unfold State.tlFault
  extract_lets k a
  exact (s.setCoach_same ..).trans ((State.raise_same ..).trans (State.beginDrain_same ..))

theorem execTimelineWord_keeps (coach : Nat) (s : State) : Replies (execTimelineWord coach s) (Keeps s) := by
  unfold execTimelineWord
  extract_lets k x
  split
  · split
    · exact replies_next.2 (s.tlFault_same ..).keeps
    · exact replies_next.2 (s.tlAct_keeps ..)
  · exact replies_next.2 (.refl s)

@[simp] theorem State.freezeLine_same (s : State) (coach : Nat) : SameStore s (s.freezeLine coach) := by
  unfold State.freezeLine
  extract_lets k paced f tl
  split
  · exact s.setCoach_same ..
  · split
    · exact s.setCoach_same ..
    · exact s.beginDrain_same coach
  · exact s.setCoach_same ..
  · exact .refl s

@[simp] theorem execFreezeRowRestore_same (coach : Nat) (s : State) : Replies (execFreezeRowRestore coach s) (SameStore s) := by
  unfold execFreezeRowRestore
  extract_lets k d
  have hd : SameStore s d.2 := s.delay_same _
  split
  · split
    · exact replies_next.2 (hd.trans (State.setCoach_same ..))
    · exact replies_next.2 hd
  · exact replies_next.2 (.refl s)

theorem State.startCoach_keeps (s : State) (coach gi t : Nat) (resume : Bool) : Keeps s (s.startCoach coach gi t resume) := by
  unfold State.startCoach
  extract_lets k g again cores s1 warm k1 s2
  have h1 : SameStore s s1 := State.foldl_same (fun s c => s.setCtl_same ..) ..
  have h2 : Keeps s1 s2 := .trans (SameStore.keeps (.trans (s1.setCoach_same ..) (State.setGang_same ..))) (State.setRecord_keeps ..)
  have h : Keeps s s2 := h1.keeps.trans h2
  clear_value s2
  refine .trans ?_ (State.freezeLine_same ..).keeps
  split
  · exact h
  · exact h.trans (s2.clearCap_keeps coach)

theorem State.takeTick_keeps (s : State) (coach gi t : Nat) (resume : Bool) : Keeps s (s.takeTick coach gi t resume) := by
  unfold State.takeTick
  extract_lets k g
  split
  · exact (s.setCoach_same ..).keeps
  split
  · exact (s.setCoach_same ..).keeps
  · exact s.startCoach_keeps ..

theorem execStartTick_keeps (coach : Nat) (s : State) : Replies (execStartTick coach s) (Keeps s) := by
  unfold execStartTick
  extract_lets k
  split
  · split
    · split
      · exact replies_next.2 (.refl s)
      · exact replies_next.2 (s.takeTick_keeps ..)
    split
    · exact replies_next.2 (.refl s)
    split
    · exact replies_next.2 (s.loseFor_keeps ..)
    · exact replies_next.2 ((s.noteAnswer_same _).keeps.trans (State.takeTick_keeps ..))
  · exact replies_next.2 (.refl s)

@[simp] theorem State.issueUntimed_same (s : State) (core : Nat) (q : Queue) : SameStore s (s.issueUntimed core q) := by
  unfold State.issueUntimed
  extract_lets x
  split
  · exact .refl s
  · exact (s.setEng_same ..).trans (State.carryOut_same ..)

@[simp] theorem execFQueueIssue_same (core : Nat) (s : State) : Replies (execFQueueIssue core s) (SameStore s) := by
  unfold execFQueueIssue
  split
  · split
    · exact replies_next.2 ((s.issueUntimed_same ..).trans (State.settleSigs_same ..))
    · exact replies_next.2 (.refl s)
  · exact replies_next.2 (.refl s)

theorem execKOperationApply_keeps (core n : Nat) (s : State) : Replies (execKOperationApply core n s) (Keeps s) := by
  unfold execKOperationApply
  split
  next o _ =>
    split
    · exact replies_next.2 (.refl s)
    split
    · exact replies_next.2 (s.resultK_keeps core o)
    · extract_lets r d
      have hr : SameStore s r.1 := s.applyK_same core o
      clear_value r
      exact replies_next.2 (hr.trans ((r.1.delay_same _).trans (State.setOp_same ..))).keeps
  · split
    · split
      · exact replies_next.2 ((s.issueUntimed_same ..).trans (State.settleSigs_same ..)).keeps
      · exact replies_next.2 (.refl s)
    · exact replies_next.2 (.refl s)

theorem execScalarAccessComplete_keeps (core n : Nat) (s : State) : Replies (execScalarAccessComplete core n s) (Keeps s) := by
  unfold execScalarAccessComplete
  split
  · split
    · exact replies_next.2 (s.completeAccess_keeps ..)
    · exact replies_next.2 (.refl s)
  · exact replies_next.2 (.refl s)

/-! ## Every instruction and every event -/

/-- An instruction of a lane keeps storage as it is; of the events, those listed first write to it, each under a lemma of its own. -/
theorem exec_keeps (i : Instr) (s : State) : Replies (exec i s) (Keeps s) := by
  have hlane := (laneExec_same i s).mono fun _ h => h.keeps
  cases i
  case jobLogScan => exact execJobLogScan_keeps ..
  case contextLoaded => exact execContextLoaded_keeps ..
  case startTick => exact execStartTick_keeps ..
  case eviction => exact execEviction_keeps ..
  case timedWritePerform => exact execTimedWritePerform_keeps ..
  case scalarAccessComplete => exact execScalarAccessComplete_keeps ..
  case cpComplete => exact execCpComplete_keeps ..
  case ldxComplete => exact execLdxComplete_keeps ..
  case shiftGranuleWrite => exact execShiftGranuleWrite_keeps ..
  case timelineWord => exact execTimelineWord_keeps ..
  case landingWrite => exact execLandingWrite_keeps ..
  case tierMoveComplete => exact execTierMoveComplete_keeps ..
  case kOperationApply => exact execKOperationApply_keeps ..
  case remoteWriteArrive => exact execRemoteWriteArrive_keeps ..
  case readDataArrive => exact execReadDataArrive_keeps ..
  case remoteAtomicArrive => exact execRemoteAtomicArrive_keeps ..
  case atomicResultArrive => exact execAtomicResultArrive_keeps ..
  case fredComplete => exact execFredComplete_keeps ..
  case cphGranule => exact execCphGranule_keeps ..
  case dieLost => exact execDieLost_keeps ..
  case coachSave => exact execCoachSave_keeps ..
  case gangResume => exact execGangResume_keeps ..
  case stepReissue => exact execStepReissue_keeps ..
  case gangDone => exact execGangDone_keeps ..
  case gcmdEnd => exact execGcmdEnd_keeps ..
  case registerWrite => exact execRegisterWrite_keeps ..
  case powerOnReset die => exact execPowerOnReset_keeps die s
  case quote => exact execQuote_keeps ..
  case readBadPageList => exact execReadBadPageList_keeps ..
  case retireGranules => exact execRetireGranules_keeps ..
  case stageUpdate => exact execStageUpdate_keeps ..
  case thermalLimit => exact execThermalLimit_keeps ..
  case virtualFunctionReset => exact execVirtualFunctionReset_keeps ..
  case gangPlacement | holdRequest | holdCommit | preemptionRequest | childEnd | launchAnswer | lineDispatch | timedIssue
      | ringBeatPark | handlerEntry | deadlineFault | phAdvComplete | tierLookupAnswer | uncorrectableError | fQueueIssue
      | linkRetrain | linkStateMessage | flitReceive | flitForward | acknowledgementArrive | releasedWriteSend | retransmitTimeout
      | breakNotice | remoteReadArrive | remoteLoadTimeout | fredContribution | fredTimeout | fbarComplete | cphComplete
      | stopMessage | stepBeginRelease | stepCommitDecision | barComplete | fenceComplete | coreExited | hrevWrite | gcmdResume
      | evqaRead | hfaqRead | kvpbWrite | tcapWrite | mailboxInvalidCommand | telemetrySample | paceUpdate | paceWindow
      | correctableError | retrainComplete | freezeRowRestore =>
    exact Replies.mono (p := SameStore s) (by simp [exec]) fun _ h => h.keeps
  all_goals exact hlane

/-! ## The clock advance and the step -/

@[simp] theorem State.tickCore_same (s : State) (core : Nat) : SameStore s (s.tickCore core) := by
  unfold State.tickCore
  extract_lets x s1 c
  have h1 : SameStore s s1 := by
    unfold s1
    split
    · exact (s.setCore_same ..).trans (State.settleSigs_same ..)
    · exact .refl s
  clear_value s1
  exact h1.trans (s1.setCtl_same ..)

@[simp] theorem State.tickGang_same (s : State) (gi : Nat) : SameStore s (s.tickGang gi) := by
  unfold State.tickGang
  extract_lets g
  split
  · exact s.setGang_same ..
  · exact .refl s

@[simp] theorem State.tickDie_same (s : State) (die : Nat) : SameStore s (s.tickDie die) :=
  (s.settleClosing_same die).trans (State.tickAsked_same ..)

@[simp] theorem State.endDrain_same (s : State) (coach : Nat) : SameStore s (s.endDrain coach) := by
  unfold State.endDrain
  extract_lets k d
  split
  · exact (s.delay_same _).trans (State.setCoach_same ..)
  · exact .refl s

@[simp] theorem State.tickCoach_same (s : State) (coach : Nat) : SameStore s (s.tickCoach coach) := by
  unfold State.tickCoach
  exact (s.setCoach_same ..).trans ((State.endDrain_same ..).trans (State.freezeLine_same ..))

/-- The clock advance counts one cycle and changes no byte of storage (R5). -/
theorem State.tick_counts (s : State) : s.tick.cyc = s.cyc + 1 ∧ s.tick.mem = s.mem := by
  unfold State.tick
  extract_lets s1 cyc s2 s3 s4
  have h1 : SameStore s s1 := State.foldl_same (fun s c => s.tickCore_same c) ..
  have h2 : s2.cyc = s1.cyc + 1 ∧ s2.mem = s1.mem := ⟨rfl, rfl⟩
  have h3 : SameStore s2 s3 := State.foldl_same (fun s g => s.tickGang_same g) ..
  have h4 : SameStore s3 s4 := State.foldl_same (fun s d => s.tickDie_same d) ..
  clear_value s4 s3 s2 s1
  have h5 : SameStore s4 (s4.busyCoaches.foldl State.tickCoach s4) := State.foldl_same (fun s c => s.tickCoach_same c) ..
  obtain ⟨hcyc, hmem⟩ := h3.trans (h4.trans h5)
  exact ⟨by rw [hcyc, h2.1, h1.1], by rw [hmem, h2.2, h1.2]⟩

/-- A step with an event from outside is that event, or the fault for a die that no domain has. -/
theorem step_of_inbox_cons {s : State} {i : Instr} {rest : List Instr} (h : s.inbox = i :: rest) :
    step s = if namedDie i < 384 then exec i { s with inbox := rest } else .fault .noSuchPart := by
  unfold step outsideEvent
  rw [h]

/-- A step with no event from outside is the next event of the agenda, on the state with the turn moved on. -/
theorem step_of_nextEvent {s : State} {c : Cand} (h : s.inbox = []) (hc : s.nextEvent = some c) :
    step s = exec c.ev { s with turn := if c.again then c.pos else c.pos + 1 } := by
  unfold step State.advance
  rw [h, hc]

/-- A step with no event from outside and none left in the agenda is the clock advance. -/
theorem step_of_nextEvent_none {s : State} (h : s.inbox = []) (hc : s.nextEvent = none) : step s = .next s.tick := by
  unfold step State.advance
  rw [h, hc]

/-- The three forms of a step: an event, from outside or of the agenda, on a state with the same clock and storage; the stop at an event
that names no die of a domain; the clock advance. -/
theorem step_cases (s : State) :
    (¬(s.inbox = [] ∧ s.nextEvent = none) ∧ Replies (step s) (Keeps s)) ∨
    (step s = .fault .noSuchPart ∧ ∃ i rest, s.inbox = i :: rest ∧ 384 ≤ namedDie i) ∨
    ((s.inbox = [] ∧ s.nextEvent = none) ∧ step s = .next s.tick) := by
  cases hi : s.inbox with
  | cons i rest =>
    rw [step_of_inbox_cons hi]
    by_cases hd : namedDie i < 384
    · rw [if_pos hd]
      exact .inl ⟨by simp, exec_keeps i { s with inbox := rest }⟩
    · rw [if_neg hd]
      exact .inr (.inl ⟨rfl, i, rest, rfl, by omega⟩)
  | nil =>
    cases hc : s.nextEvent with
    | none => exact .inr (.inr ⟨⟨rfl, rfl⟩, step_of_nextEvent_none hi hc⟩)
    | some c =>
      rw [step_of_nextEvent hi hc]
      exact .inl ⟨by simp, exec_keeps c.ev { s with turn := if c.again then c.pos else c.pos + 1 }⟩

/-- Settles O6: each step keeps the canonical form, the events by the lemma of each function that writes storage, and the clock advance
because it writes none. -/
theorem memoryStaysCanonical : Obligations.MemoryStaysCanonical := by
  unfold Obligations.MemoryStaysCanonical
  intro s t hwf hstep
  obtain ⟨-, u, hu, -, hkeep⟩ | ⟨hfault, -⟩ | ⟨-, htick⟩ := step_cases s
  · obtain rfl : u = t := Host.Outcome.next.inj (hu.symm.trans hstep)
    exact hkeep hwf
  · simp [hfault] at hstep
  · obtain rfl : s.tick = t := Host.Outcome.next.inj (htick.symm.trans hstep)
    rw [s.tick_counts.2]
    exact hwf

/-- Settles O5: each instruction and each event answers a next state, so that a step stops only at an event for no die. -/
theorem noInstructionStops : Obligations.NoInstructionStops := by
  unfold Obligations.NoInstructionStops
  refine ⟨fun i s => ?_, fun s => ?_⟩
  · obtain ⟨t, ht, -⟩ := exec_keeps i s
    exact ⟨t, ht⟩
  · obtain ⟨-, u, hu, -⟩ | hfault | ⟨-, htick⟩ := step_cases s
    · exact .inl ⟨u, hu⟩
    · exact .inr hfault
    · exact .inl ⟨_, htick⟩

/-- Settles O7: no event moves the clock, and the clock advance counts one cycle. -/
theorem theClockCounts : Obligations.TheClockCounts := by
  unfold Obligations.TheClockCounts
  intro s t hstep
  obtain ⟨hno, u, hu, hcyc, -⟩ | ⟨hfault, -⟩ | ⟨hyes, htick⟩ := step_cases s
  · obtain rfl : u = t := Host.Outcome.next.inj (hu.symm.trans hstep)
    rw [if_neg hno, hcyc]
  · simp [hfault] at hstep
  · obtain rfl : s.tick = t := Host.Outcome.next.inj (htick.symm.trans hstep)
    rw [if_pos hyes, s.tick_counts.1]

/-! ## The machine at reset -/

@[simp] theorem Bits.get_nil {w : Nat} (i : Nat) : Bits.get ([] : Bits w) i = 0 := rfl

theorem Eng.reset_queue (q : Queue) : Eng.reset.queue q = [] := by cases q <;> rfl

/-- A zero entry of the table of rmx stands for minus infinity (R241). -/
theorem Dat.reset_rmx (n : Nat) : Dat.reset.rmx n = 0xFF800000 := by simp [Dat.rmx, Dat.reset]

theorem Die.reset_regs (off : Nat) : Die.reset.regs.get off = if off = 0x6000 then 3200 else 0 := by
  by_cases h : off = 0x6000
  · subst h; rfl
  · simp [Die.reset, Bits.get, lookupD, h, Ne.symm h]

/-- Settles O1: at reset every table is empty, so that each entity reads as its own reset value. -/
theorem resetState : Obligations.ResetState := by
  unfold Obligations.ResetState
  refine ⟨rfl, rfl, rfl, fun _ => rfl, rfl, fun c => ?_, fun c => ?_, fun c n => ?_, fun d off => ?_, fun d => ?_, fun i => ?_, fun g => ?_⟩
  · exact ⟨rfl, rfl, rfl, rfl, rfl, rfl⟩
  · exact ⟨rfl, rfl, rfl, fun _ => rfl, fun _ => rfl, Eng.reset_queue, rfl, rfl⟩
  · exact ⟨rfl, rfl, Dat.reset_rmx n, rfl, rfl⟩
  · exact Die.reset_regs off
  · exact ⟨rfl, rfl, rfl, rfl, rfl, rfl, rfl, fun _ => rfl⟩
  · exact ⟨rfl, rfl⟩
  · rfl

/-! ## Operations of a core: replaced and ended -/

theorem SameStore.sameBytes {s t : State} (h : SameStore s t) : SameBytes s t := fun k => by rw [h.2]

theorem Eng.op?_mem {x : Eng} {n : Nat} {o : Op} (h : x.op? n = some o) : o ∈ x.ops ∧ o.id = n :=
  ⟨List.mem_of_find?_eq_some h, by simpa using List.find?_some h⟩

theorem State.setOp_ops (s : State) (core : Nat) (o : Op) :
    ((s.setOp core o).eng core).ops = (s.eng core).ops.map fun p => if p.id == o.id then o else p := by simp [State.setOp]

theorem State.setOp_core_other {core i : Nat} (s : State) (o : Op) (h : i ≠ core) : (s.setOp core o).core i = s.core i :=
  s.core_setEng_other core i _ h

@[simp] theorem State.setOp_ctl (s : State) (core i : Nat) (o : Op) : (s.setOp core o).ctl i = s.ctl i := s.ctl_setEng ..

@[simp] theorem State.setOp_dat (s : State) (core i : Nat) (o : Op) : (s.setOp core o).dat i = s.dat i := s.dat_setEng ..

/-- Only the cores differ, and the delays that are still to come. -/
def CoresDelays (s t : State) : Prop := t = { s with cores := t.cores, delays := t.delays }

theorem CoresDelays.trans {s t u : State} (h : CoresDelays s t) (k : CoresDelays t u) : CoresDelays s u := by
  unfold CoresDelays at *
  rw [k, h]

theorem State.setOp_cores (s : State) (core : Nat) (o : Op) : s.setOp core o = { s with cores := (s.setOp core o).cores } := rfl

/-- The operation that another one replaces is listed in its place. -/
theorem State.mem_setOp {s : State} {core n : Nat} {o o1 : Op} (h : (s.eng core).op? n = some o) (h1 : o1.id = n) :
    o1 ∈ ((s.setOp core o1).eng core).ops := by
  obtain ⟨hmem, hid⟩ := Eng.op?_mem h
  rw [State.setOp_ops, List.mem_map]
  exact ⟨o, hmem, by simp [hid, h1]⟩

theorem State.awDone_core_other {c i : Nat} (s : State) (k val stat start : Nat) (h : i ≠ c) :
    (s.awDone c k val stat start).core i = s.core i := s.core_setCtl_other c i _ h

@[simp] theorem State.awDone_eng (s : State) (c i k val stat start : Nat) : (s.awDone c k val stat start).eng i = s.eng i := s.eng_setCtl ..

theorem doneSigs_core_other {core i : Nat} (h : i ≠ core) (l : List Sig) (s : State) : (doneSigs core l s).core i = s.core i := by
  induction l generalizing s with
  | nil => rfl
  | cons g rest ih => rw [doneSigs, ih, State.awDone_core_other _ _ _ _ _ h]

@[simp] theorem doneSigs_eng (core i : Nat) (l : List Sig) (s : State) : (doneSigs core l s).eng i = s.eng i := by
  induction l generalizing s with
  | nil => rfl
  | cons g rest ih => rw [doneSigs, ih, State.awDone_eng]

theorem doneSigs_cores (core : Nat) (l : List Sig) (s : State) : doneSigs core l s = { s with cores := (doneSigs core l s).cores } := by
  induction l generalizing s with
  | nil => rfl
  | cons g rest ih => rw [doneSigs, ih]; rfl

theorem State.settleSigs_core_other {core i : Nat} (s : State) (h : i ≠ core) : (s.settleSigs core).core i = s.core i := by
  unfold State.settleSigs
  extract_lets x ready e s1
  rw [doneSigs_core_other h, s.core_setEng_other core i _ h]

theorem State.settleSigs_ops (s : State) (core : Nat) : ((s.settleSigs core).eng core).ops = (s.eng core).ops := by
  unfold State.settleSigs
  extract_lets x ready e s1
  rw [doneSigs_eng, State.eng_setEng_self]
  rfl

theorem State.settleSigs_cores (s : State) (core : Nat) : s.settleSigs core = { s with cores := (s.settleSigs core).cores } := by
  unfold State.settleSigs
  extract_lets x ready e s1
  rw [doneSigs_cores]
  rfl

/-- A core without signals keeps its control side. -/
theorem State.settleSigs_ctl {s : State} {core : Nat} (h : (s.eng core).sigs = []) : (s.settleSigs core).ctl core = s.ctl core := by
  have hs : (s.core core).eng.sigs = [] := h
  simp [State.settleSigs, hs, doneSigs]

/-- The state of an ended operation before the signals and shrinks that waited for it are settled. -/
def State.dropOp (s : State) (core : Nat) (o : Op) (val stat : Nat) : State :=
  let s1 := s.setEng core { s.eng core with ops := (s.eng core).ops.filter fun p => !(p.id == o.id) }
  match o.e.aw with
  | some k => s1.awDone core k val stat o.start
  | none => s1

theorem State.finishOp_eq (s : State) (core : Nat) (o : Op) (val stat : Nat) :
    s.finishOp core o val stat = ((s.dropOp core o val stat).settleSigs core).setCore core
      (((s.dropOp core o val stat).settleSigs core).core core).settleShrinks := rfl

theorem State.dropOp_core_other {core i : Nat} (s : State) (o : Op) (val stat : Nat) (h : i ≠ core) :
    (s.dropOp core o val stat).core i = s.core i := by
  unfold State.dropOp
  extract_lets e s1
  have h1 : s1.core i = s.core i := s.core_setEng_other core i _ h
  split
  · rw [State.awDone_core_other _ _ _ _ _ h, h1]
  · exact h1

theorem State.dropOp_eng (s : State) (core : Nat) (o : Op) (val stat : Nat) :
    (s.dropOp core o val stat).eng core = { s.eng core with ops := (s.eng core).ops.filter fun p => !(p.id == o.id) } := by
  unfold State.dropOp
  extract_lets e s1
  split <;> simp [s1, e]

theorem State.dropOp_cores (s : State) (core : Nat) (o : Op) (val stat : Nat) :
    s.dropOp core o val stat = { s with cores := (s.dropOp core o val stat).cores } := by
  unfold State.dropOp
  extract_lets e s1
  split <;> rfl

theorem State.finishOp_core_other {core i : Nat} (s : State) (o : Op) (val stat : Nat) (h : i ≠ core) :
    (s.finishOp core o val stat).core i = s.core i := by
  rw [State.finishOp_eq, State.core_setCore_other _ _ _ _ h, State.settleSigs_core_other _ h, State.dropOp_core_other _ _ _ _ h]

/-- The ended operation leaves the list, and no other does. -/
theorem State.finishOp_ops (s : State) (core : Nat) (o : Op) (val stat : Nat) :
    ((s.finishOp core o val stat).eng core).ops = (s.eng core).ops.filter fun p => !(p.id == o.id) := by
  have h := State.settleSigs_ops (s.dropOp core o val stat) core
  rw [State.dropOp_eng] at h
  rw [State.finishOp_eq]
  simpa [State.eng, Core.settleShrinks] using h

theorem State.finishOp_cores (s : State) (core : Nat) (o : Op) (val stat : Nat) :
    s.finishOp core o val stat = { s with cores := (s.finishOp core o val stat).cores } := by
  rw [State.finishOp_eq, State.settleSigs_cores, State.dropOp_cores]
  rfl

theorem State.finishOp_ctl {s : State} {core : Nat} (h : (s.eng core).sigs = []) (o : Op) (val stat : Nat) :
    (s.finishOp core o val stat).ctl core = (s.dropOp core o val stat).ctl core := by
  have hs : ((s.dropOp core o val stat).eng core).sigs = [] := by rw [State.dropOp_eng]; exact h
  rw [← State.settleSigs_ctl hs, State.finishOp_eq]
  simp [State.ctl, Core.settleShrinks]

/-- Ending an operation ends it in the sense of the statements (R118, R164). -/
theorem State.finishOp_ends {s : State} {core : Nat} {o : Op} {aw : BitVec 6} (haw : o.e.aw = some aw.toNat) (val stat : Nat) :
    OpEnds s (s.finishOp core o val stat) core o.id aw val stat := by
  refine ⟨fun p => ?_, fun c h => s.finishOp_core_other o val stat h, fun h => ?_⟩
  · rw [State.finishOp_ops]; simp
  · rw [State.finishOp_ctl h]
    simp only [State.dropOp, haw, State.awDone, State.ctl_setEng, State.ctl_setCtl_self]
    refine ⟨rfl, fun r hr => Bits.get_put_other _ _ _ _ hr, fun hfirst => ?_⟩
    simp [Ctl.setSr, awUpdate, hfirst]

/-- The ends of an operation speak of the cores and the clock alone. -/
theorem OpEnds.of_cores {s s1 t : State} {core id val stat : Nat} {aw : BitVec 6} (hcores : s1.cores = s.cores) (hcyc : s1.cyc = s.cyc)
    (h : OpEnds s1 t core id aw val stat) : OpEnds s t core id aw val stat := by
  simpa only [OpEnds, State.eng, State.ctl, State.core, hcores, hcyc] using h

/-! ## Timeouts -/

theorem remoteLoadTimeout_of {s : State} {core n : Nat} {o : Op} {z : BitVec 2} {aq : Bool} {a b : Reg} {off : BitVec 11} {u : UCont}
    (h : (s.eng core).op? n = some o) (hi : o.e.ins = .flLd z aq a b off u) :
    exec (.remoteLoadTimeout core n) s = .next (if o.at_ + 1048576 ≤ s.cyc ∧ o.loaded.length < flBytes z then s.finishOp core o 0 4 else s) := by
  show execRemoteLoadTimeout core n s = _
  simp only [execRemoteLoadTimeout, h, hi]
  split <;> rfl

theorem fredTimeout_of {s : State} {core n : Nat} {o : Op} {op : BitVec 2} {g t4 : BitVec 4} {a : Reg} {off : BitVec 11} {u : UCont} {x : Group}
    (h : (s.eng core).op? n = some o) (hi : o.e.ins = .fred op g t4 a off u) (hx : o.grp = some x) :
    exec (.fredTimeout core n) s =
      .next (if o.at_ + 1048576 ≤ s.cyc ∧ o.parts.length < x.mem.length then s.finishOp core o 0 2 else s) := by
  show execFredTimeout core n s = _
  simp only [execFredTimeout, h, hi, hx]
  split <;> rfl

/-- An operation of a core that ends with a value and a status, and changes no byte. -/
theorem State.finishOp_found {s : State} {core n : Nat} {o : Op} {aw : BitVec 6} (h : (s.eng core).op? n = some o)
    (haw : o.e.aw = some aw.toNat) (val stat : Nat) :
    SameBytes s (s.finishOp core o val stat) ∧ OpEnds s (s.finishOp core o val stat) core n aw val stat := by
  have hid : o.id = n := (Eng.op?_mem h).2
  exact ⟨(s.finishOp_same ..).sameBytes, hid ▸ State.finishOp_ends haw val stat⟩

/-! ## Delays, slots and the results of reductions -/

theorem State.delay_eq (s : State) (bound : Nat) : (s.delay bound).2 = { s with delays := (s.delay bound).2.delays } := by
  unfold State.delay
  split <;> rfl

theorem State.delay_zero {s : State} (h : s.delays = []) (bound : Nat) : (s.delay bound).1 = 0 := by simp [State.delay, h]

/-- The operation that settleOp gives: done, with the due cycle that it was given now or before. -/
theorem State.settleOp_op (s : State) (o : Op) : (s.settleOp o).1 = { o with done := true, due := (s.settleOp o).1.due } := by
  unfold State.settleOp
  split
  next h => cases o; simp_all
  · rfl

theorem State.settleOp_eq (s : State) (o : Op) : (s.settleOp o).2 = { s with delays := (s.settleOp o).2.delays } := by
  unfold State.settleOp
  split
  · rfl
  · exact s.delay_eq _

theorem State.settleOp_due {s : State} {o : Op} (h : o.done = false) : (s.settleOp o).1.due = s.cyc + (s.delay 0xFFFFFFFF).1 := by
  simp [State.settleOp, h]

theorem State.settleOp_of_done {s : State} {o : Op} (h : o.done = true) : s.settleOp o = (o, s) := by simp [State.settleOp, h]

theorem State.takeCtx_eq (s : State) (coach map ver a n : Nat) :
    s.takeCtx coach map ver a n = { s with slots := (s.takeCtx coach map ver a n).slots } := by
  unfold State.takeCtx
  split
  · exact s.takeSlot_eq ..
  · rfl

theorem nthD_eq_getD {α : Type} (d : α) (l : List α) (i : Nat) : nthD d l i = l.getD i d := by
  induction l generalizing i with
  | nil => rfl
  | cons a l ih => cases i with
    | zero => rfl
    | succ i => simpa [nthD] using ih i

theorem unitOf_length_le {α : Type} (pos : Nat) (l : List α) : (unitOf pos l).length ≤ 64 := List.length_take_le ..

/-- The bytes of the unit of a list at a place are those of the list from there on. -/
theorem byte_write_unitOf (m : Mem) (k pos : Nat) (l : List Byte) {i : Nat} (hi : i < 64) (hl : pos + i < l.length) :
    (m.write k (unitOf pos l)).byte (k + i) = nthD 0 l (pos + i) := by
  have hlen : i < (unitOf pos l).length := by simp only [unitOf, List.length_take, List.length_drop]; omega
  rw [Mem.byte_write _ _ _ _ hlen, nthD_eq_getD, List.getD_eq_getElem _ _ hl]
  simp [unitOf]

theorem redBytes_toNat (t : BitVec 4) : redBytes t.toNat = if t = 8 then 8 else 4 := by
  revert t
  decide

/-- The bytes of a reduction's value (R331). -/
def Op.reduced (o : Op) (x : Group) (op t : Nat) : List Byte :=
  (subtree op t x.mem (fun i => redElems t (lookupD [] o.parts i)) x.mem.length 0).flatMap (bytesOf (redBytes t))

/-- Where the next unit of a reduction's value is written (R330). -/
def State.fredPlace (s : State) (core : Nat) (o : Op) (x : Group) (size : Nat) : Loc :=
  (nthD (.sram 0 0) (s.fredTargets (coachOf core) x o.e.v0.toNat) (o.pos / size)).add (o.pos % size)

section
variable {s : State} {core n : Nat} {o : Op} {op : BitVec 2} {g t4 : BitVec 4} {a : Reg} {off : BitVec 11} {u : UCont} {x : Group}
  {out : List Byte}

theorem fredComplete_early (h : (s.eng core).op? n = some o) (hi : o.e.ins = .fred op g t4 a off u) (hx : o.grp = some x)
    (hlen : o.parts.length < x.mem.length) : exec (.fredComplete core n) s = .next s := by
  show execFredComplete core n s = _
  simp only [execFredComplete, h, hi, hx]
  rw [if_pos hlen]

/-- Once every contribution is there, the event settles the operation, and carries a unit when its time has come and its place is served. -/
theorem fredComplete_of (h : (s.eng core).op? n = some o) (hi : o.e.ins = .fred op g t4 a off u) (hx : o.grp = some x)
    (hlen : x.mem.length ≤ o.parts.length) (hout : o.reduced x op.toNat t4.toNat = out) :
    exec (.fredComplete core n) s =
      let l := s.fredPlace core o x out.length
      let s1 := (s.settleOp o).2
      let s2 : State := { s1.takeSlot true l 1 with mem := s1.mem.write l.key (unitOf (o.pos % out.length) out) }
      .next (if s.cyc < (s.settleOp o).1.due ∨ s.served true l 64 = false then s1.setOp core (s.settleOp o).1
        else if (s.fredTargets (coachOf core) x o.e.v0.toNat).length * out.length ≤ o.pos + 64
        then s2.finishOp core (s.settleOp o).1 out.length 0 else s2.nextUnit core (s.settleOp o).1 64) := by
  show execFredComplete core n s = _
  simp only [execFredComplete, h, hi, hx]
  rw [if_neg (Nat.not_lt.mpr hlen)]
  subst hout
  rw [apply_ite Host.Outcome.next, apply_ite Host.Outcome.next]
  rfl

theorem fredComplete_waits (h : (s.eng core).op? n = some o) (hi : o.e.ins = .fred op g t4 a off u) (hx : o.grp = some x)
    (hlen : x.mem.length ≤ o.parts.length) (hout : o.reduced x op.toNat t4.toNat = out)
    (hwait : s.cyc < (s.settleOp o).1.due ∨ s.served true (s.fredPlace core o x out.length) 64 = false) :
    Answers (.fredComplete core n) s fun t =>
      SameBytes s t ∧ OnlyCore s { t with delays := s.delays } core ∧ t.ctl core = s.ctl core ∧ t.dat core = s.dat core ∧
      ∃ y ∈ (t.eng core).ops, y.id = n ∧ y.done = true ∧ y.due = (s.settleOp o).1.due ∧ y.pos = o.pos := by
  refine ⟨_, (fredComplete_of h hi hx hlen hout).trans (by simp only [if_pos hwait]; rfl), ?_⟩
  have hs := s.settleOp_eq o
  have ho := s.settleOp_op o
  generalize s.settleOp o = r at hs ho ⊢
  obtain ⟨o1, s1⟩ := r
  dsimp only at hs ho ⊢
  have h1 : (s1.eng core).op? n = some o := by rw [hs]; exact h
  have hid : o1.id = n := by rw [ho]; exact (Eng.op?_mem h).2
  refine ⟨fun k => ?_, ⟨?_, fun i hic => ?_⟩, ?_, ?_, o1, State.mem_setOp h1 hid, hid, ?_, rfl, ?_⟩
  · rw [hs]; rfl
  · rw [hs]; rfl
  · exact (s1.setOp_core_other o1 hic).trans (by rw [hs]; rfl)
  · rw [State.setOp_ctl, hs]; rfl
  · rw [State.setOp_dat, hs]; rfl
  · rw [ho]
  · rw [ho]

theorem fredComplete_writes (h : (s.eng core).op? n = some o) (hi : o.e.ins = .fred op g t4 a off u) (hx : o.grp = some x)
    (hlen : x.mem.length ≤ o.parts.length) (hout : o.reduced x op.toNat t4.toNat = out)
    (hdue : (s.settleOp o).1.due ≤ s.cyc) (hserved : s.served true (s.fredPlace core o x out.length) 64 = true) :
    Answers (.fredComplete core n) s fun t =>
      t.mem = s.mem.write (s.fredPlace core o x out.length).key (unitOf (o.pos % out.length) out) ∧
      ((s.fredTargets (coachOf core) x o.e.v0.toNat).length * out.length ≤ o.pos + 64 → OpEnds s t core n u.aw out.length 0) ∧
      (o.pos + 64 < (s.fredTargets (coachOf core) x o.e.v0.toNat).length * out.length →
        (∀ i, i ≠ core → t.core i = s.core i) ∧ t.ctl core = s.ctl core ∧
        ∃ y ∈ (t.eng core).ops, y.id = n ∧ y.done = true ∧ y.pos = o.pos + 64) := by
  have hgo : ¬(s.cyc < (s.settleOp o).1.due ∨ s.served true (s.fredPlace core o x out.length) 64 = false) := by simp [hserved, hdue]
  refine ⟨_, (fredComplete_of h hi hx hlen hout).trans (by simp only [if_neg hgo]; rfl), ?_⟩
  have hs := s.settleOp_eq o
  have ho := s.settleOp_op o
  generalize s.settleOp o = r at hs ho ⊢
  obtain ⟨o1, s1⟩ := r
  dsimp only at hs ho ⊢
  generalize s.fredPlace core o x out.length = l
  have hmem : s1.mem = s.mem := by rw [hs]
  have h2 : ∀ m, let s2 : State := { s1.takeSlot true l 1 with mem := m }; s2.cores = s.cores ∧ s2.cyc = s.cyc := by
    intro m
    rw [State.takeSlot_eq, hs]
    exact ⟨rfl, rfl⟩
  rw [hmem]
  specialize h2 (s.mem.write l.key (unitOf (o.pos % out.length) out))
  generalize h3 : ({ s1.takeSlot true l 1 with mem := s.mem.write l.key (unitOf (o.pos % out.length) out) } : State) = s2 at h2 ⊢
  obtain ⟨hcores, hcyc⟩ := h2
  have hmem2 : s2.mem = s.mem.write l.key (unitOf (o.pos % out.length) out) := by rw [← h3]
  have hid : o1.id = n := by rw [ho]; exact (Eng.op?_mem h).2
  have h1 : (s2.eng core).op? n = some o := by simpa only [State.eng, State.core, hcores] using h
  split
  next hlast =>
    refine ⟨(s2.finishOp_same ..).2.trans hmem2, fun _ => ?_, fun hmore => by omega⟩
    have haw : o1.e.aw = some u.aw.toNat := by rw [ho]; simp [Entry.aw, awOf, hi]
    exact hid ▸ (State.finishOp_ends haw out.length 0).of_cores hcores hcyc
  next hmore =>
    refine ⟨(s2.nextUnit_same ..).2.trans hmem2, fun hlast => by omega, fun _ => ⟨fun i hic => ?_, ?_, ?_⟩⟩
    · exact (s2.nextUnit_other o1 64 hic).trans (by simp only [State.core, hcores])
    · exact (s2.setOp_ctl ..).trans (by simp only [State.ctl, State.core, hcores])
    · exact ⟨_, State.mem_setOp (o1 := { o1 with pos := o1.pos + 64 }) h1 hid, hid, by rw [ho], by rw [ho]⟩

end

/-! ## Host copies -/

@[simp] theorem State.notePages_cores (l : List Nat) (s : State) : (s.notePages l).cores = s.cores := by
  induction l generalizing s with
  | nil => rfl
  | cons g l ih =>
    unfold State.notePages
    extract_lets coach slot d
    split
    · rw [ih]; rfl
    · exact ih s

@[simp] theorem State.storeCells_cores (s : State) (coach core map : Nat) (cells : List Host.Cell) :
    (s.storeCells coach core map cells).cores = s.cores := by
  unfold State.storeCells
  extract_lets k m at_ now late ph src s1
  rw [State.notePages_cores]
  unfold s1
  split <;> rfl

/-- With no shift under way a store writes its cells and nothing else (R149). -/
theorem State.storeCells_mem {s : State} {coach : Nat} (h : (s.coach coach).ph.prep = false) (core map : Nat) (cells : List Host.Cell) :
    (s.storeCells coach core map cells).mem = s.mem.writeCells cells := by
  unfold State.storeCells
  extract_lets k m at_ now late ph src s1
  rw [(State.notePages_same ..).2]
  unfold s1
  split
  next hprep => simp [k, h] at hprep
  · rfl

/-- The cells of a context depend on where its regions lie alone. -/
theorem State.ctxCells_congr {s t : State} {coach ver : Nat} (h : ∀ e a, t.locIn coach e ver a = s.locIn coach e ver a)
    (l : List (Nat × Nat × Option MapEntry)) (bs : List Byte) : t.ctxCells coach ver l bs = s.ctxCells coach ver l bs := by
  induction l generalizing bs with
  | nil => rfl
  | cons p l ih =>
    obtain ⟨a, n, e⟩ := p
    cases e with
    | none => simp only [State.ctxCells, ih]
    | some e => simp only [State.ctxCells, ih, h]

/-- What the copy of one unit does (R334): the unit is moved from the state `s`, the operation goes on by 64 bytes, and the next unit waits
for a delay only when it begins a granule or there is none. -/
structure CopiesUnit (s t : State) (core : Nat) (o : Op) (d2h : Bool) : Prop where
  ctl : t.ctl core = s.ctl core
  other : ∀ i, i ≠ core → t.core i = s.core i
  op : ∃ d, ((nthD 0 o.data 0 + o.pos + 64) % 4096 ≠ 0 → o.pos + 64 < o.e.v2.toNat → d = 0) ∧
    (t.eng core).ops = (s.eng core).ops.map fun p => if p.id == o.id then { o with pos := o.pos + 64, due := s.cyc + 1 + d } else p
  toHost : d2h = true → t.mem = s.mem.write o.hostAt.key (s.ctxWas (coachOf core) o.e.map o.e.ver (o.e.v0.toNat + o.pos) 64)
  toDevice : d2h = false → (s.coach (coachOf core)).ph.prep = false → t.mem = s.mem.writeCells
    (s.ctxCells (coachOf core) o.e.ver (s.parts (coachOf core) o.e.map (o.e.v0.toNat + o.pos) 64) (s.mem.read o.hostAt.key 64))

/-- The delay before the next unit of a copy: none within a granule. -/
def State.unitDelay (s : State) (o : Op) : Nat × State :=
  if (nthD 0 o.data 0 + o.pos + 64) % 4096 = 0 ∨ o.e.v2.toNat ≤ o.pos + 64 then s.delay 0xFFFFFFFF else (0, s)

theorem State.unitDelay_eq (s : State) (o : Op) : (s.unitDelay o).2 = { s with delays := (s.unitDelay o).2.delays } := by
  unfold State.unitDelay
  split
  · exact s.delay_eq _
  · rfl

theorem State.unitDelay_inside {s : State} {o : Op} (h : (nthD 0 o.data 0 + o.pos + 64) % 4096 ≠ 0) (h' : o.pos + 64 < o.e.v2.toNat) :
    (s.unitDelay o).1 = 0 := by
  unfold State.unitDelay
  rw [if_neg (by omega)]

theorem CopiesUnit.of_setOp {s s2 : State} {core d : Nat} {o : Op} {d2h : Bool} (hcores : s2.cores = s.cores)
    (hd : (nthD 0 o.data 0 + o.pos + 64) % 4096 ≠ 0 → o.pos + 64 < o.e.v2.toNat → d = 0)
    (hto : d2h = true → s2.mem = s.mem.write o.hostAt.key (s.ctxWas (coachOf core) o.e.map o.e.ver (o.e.v0.toNat + o.pos) 64))
    (hdev : d2h = false → (s.coach (coachOf core)).ph.prep = false → s2.mem = s.mem.writeCells
      (s.ctxCells (coachOf core) o.e.ver (s.parts (coachOf core) o.e.map (o.e.v0.toNat + o.pos) 64) (s.mem.read o.hostAt.key 64))) :
    CopiesUnit s (s2.setOp core { o with pos := o.pos + 64, due := s.cyc + 1 + d }) core o d2h where
  ctl := by rw [State.setOp_ctl]; simp only [State.ctl, State.core, hcores]
  other i hi := by rw [State.setOp_core_other _ _ hi]; simp only [State.core, hcores]
  op := ⟨d, hd, by rw [State.setOp_ops]; simp only [State.eng, State.core, hcores]⟩
  toHost h := (State.setOp_same ..).2.trans (hto h)
  toDevice h hp := (State.setOp_same ..).2.trans (hdev h hp)

theorem State.copyUnit_copies (s : State) (core : Nat) (o : Op) (d2h : Bool) : CopiesUnit s (s.copyUnit core o d2h) core o d2h := by
  unfold State.copyUnit
  extract_lets kc dev t o1 s1 cells
  have ht : t.2 = { s with delays := t.2.delays } := s.unitDelay_eq o
  have hd : (nthD 0 o.data 0 + o.pos + 64) % 4096 ≠ 0 → o.pos + 64 < o.e.v2.toNat → t.1 = 0 := State.unitDelay_inside
  clear_value t
  obtain ⟨d, l, hs1⟩ : ∃ d l, s1 = { s with delays := d, slots := l } := by
    have hc : s1 = { t.2 with slots := s1.slots } := t.2.takeCtx_eq ..
    rw [ht] at hc
    exact ⟨t.2.delays, s1.slots, hc⟩
  clear_value s1
  have hcores : s1.cores = s.cores := by rw [hs1]
  have hmem : s1.mem = s.mem := by rw [hs1]
  split
  next h =>
    refine CopiesUnit.of_setOp hcores hd (fun _ => ?_) (fun h' => by simp [h] at h')
    rw [hs1]; rfl
  next h =>
    refine CopiesUnit.of_setOp ((State.storeCells_cores ..).trans hcores) hd (fun h' => absurd h' h) (fun _ hp => ?_)
    have hp1 : (s1.coach kc).ph.prep = false := by rw [hs1]; exact hp
    have hparts : s1.parts kc o.e.map dev 64 = s.parts kc o.e.map dev 64 := by rw [hs1]; rfl
    rw [State.storeCells_mem hp1]
    unfold cells
    rw [hmem, hparts, State.ctxCells_congr (s := s) fun e a => by rw [hs1]; rfl]

theorem State.mishap_eq (s : State) : s.mishap = (s.noise.headD false, { s with noise := s.noise.tail }) := by
  cases h : s.noise with
  | nil => cases s; simp_all [State.mishap]
  | cons b rest => simp [State.mishap, h]

theorem hSlot_eq (v : Word) : hSlot v = v.toNat / 2 ^ 48 := by
  have := v.isLt
  simp only [hSlot, fld]
  omega

theorem hOff_eq (v : Word) : hOff v = v.toNat % 2 ^ 32 := by simp [hOff, fld]

theorem fld_zero (v : Word) (len : Nat) : fld v 0 len = v.toNat % 2 ^ len := by simp [fld]

section
variable {s : State} {core n : Nat} {o : Op} {z : BitVec 2} {a hr c : Reg} {u : UCont}

theorem cphGranule_idle (h : (s.eng core).op? n = some o) (hi : o.e.ins = .cph z a hr c u)
    (hidle : o.done = true ∨ o.e.v2.toNat ≤ o.pos ∨ s.cyc < o.due ∨
      s.unitServed (coachOf core) o.e (o.e.v0.toNat + o.pos) = false) : exec (.cphGranule core n) s = .next s := by
  show execCphGranule core n s = _
  simp only [execCphGranule, h, hi]
  rw [if_pos hidle]

/-- A copy that stops is done, with its status, and nothing else has changed but the outside's mishap. -/
theorem State.setOp_stops (h : (s.eng core).op? n = some o) (l : List Bool) (stat : Nat) :
    let t := ({ s with noise := l } : State).setOp core { o with done := true, stat := stat }
    SameBytes s t ∧ OnlyCore s { t with noise := s.noise } core ∧ t.ctl core = s.ctl core ∧
      ∃ x ∈ (t.eng core).ops, x.id = n ∧ x.done = true ∧ x.stat = stat ∧ x.pos = o.pos := by
  intro t
  have hid : o.id = n := (Eng.op?_mem h).2
  exact ⟨fun k => rfl, ⟨rfl, fun i hic => State.setOp_core_other { s with noise := l } _ hic⟩, State.setOp_ctl ..,
    _, State.mem_setOp h hid, hid, rfl, rfl, rfl⟩

/-- A unit of a host copy that has moved, with the host page that the copy goes on in (R334). -/
def MovesUnit (s t : State) (core n : Nat) (o : Op) (z : BitVec 2) (base pasid : Nat) : Prop :=
  t.ctl core = s.ctl core ∧ (∀ i, i ≠ core → t.core i = s.core i) ∧
  (∃ x ∈ (t.eng core).ops, x.id = n ∧ x.done = false ∧ x.pos = o.pos + 64 ∧ nthD 0 x.data 0 = base ∧ nthD 0 x.data 1 = pasid ∧
    s.cyc < x.due ∧ ((base + o.pos + 64) % 4096 ≠ 0 → o.pos + 64 < o.e.v2.toNat → x.due = s.cyc + 1)) ∧
  (z = 1 → t.mem = s.mem.write (Loc.host pasid (base + o.pos)).key
    (s.ctxWas (coachOf core) o.e.map o.e.ver (o.e.v0.toNat + o.pos) 64)) ∧
  (z ≠ 1 → (s.coach (coachOf core)).ph.prep = false → t.mem = s.mem.writeCells
    (s.ctxCells (coachOf core) o.e.ver (s.parts (coachOf core) o.e.map (o.e.v0.toNat + o.pos) 64)
      (s.mem.read (Loc.host pasid (base + o.pos)).key 64)))

theorem CopiesUnit.moves {l : List Bool} {d : List Nat} {t : State} (h : (s.eng core).op? n = some o) (hdone : o.done = false)
    (k : CopiesUnit { s with noise := l } t core { o with data := d } (z == 1)) : MovesUnit s t core n o z (nthD 0 d 0) (nthD 0 d 1) := by
  obtain ⟨hmem, hid⟩ := Eng.op?_mem h
  obtain ⟨hctl, hother, ⟨e, he, hops⟩, hto, hdev⟩ := k
  dsimp only at he hops hto hdev
  refine ⟨hctl, hother, ⟨{ o with data := d, pos := o.pos + 64, due := s.cyc + 1 + e }, ?_, hid, hdone, rfl, rfl, rfl, ?_, ?_⟩, ?_, ?_⟩
  · rw [hops, List.mem_map]
    exact ⟨o, hmem, by simp⟩
  · show s.cyc < s.cyc + 1 + e
    omega
  · exact fun hin hlen => by simp [he hin hlen]
  · exact fun hz => hto (by simp [hz])
  · refine fun hz hp => (hdev (by simpa using hz) hp).trans ?_
    exact congrArg s.mem.writeCells (State.ctxCells_congr (s := s) (t := { s with noise := l }) (fun _ _ => rfl) ..)

section
variable (h : (s.eng core).op? n = some o) (hi : o.e.ins = .cph z a hr c u)
  (hgo : ¬(o.done = true ∨ o.e.v2.toNat ≤ o.pos ∨ s.cyc < o.due ∨ s.unitServed (coachOf core) o.e (o.e.v0.toNat + o.pos) = false))
include h hi hgo

/-- A unit of a host copy that may move: at the start of a granule the handle and the translation are tested first (R332, R333). -/
theorem cphGranule_of :
    exec (.cphGranule core n) s =
      let die := dieOf (coachOf core)
      let tenant := (s.gangOf (coachOf core)).tenant
      let s1 : State := { s with noise := s.noise.tail }
      let base := (s.handleWord die tenant (hSlot o.e.v1) 0).toNat + hOff o.e.v1
      .next (if o.pos = 0 ∨ (nthD 0 o.data 0 + o.pos) % 4096 = 0 then
        if s.handleOk die tenant o.e.v1 o.e.v2.toNat (z == 1) = false then s.setOp core { o with done := true, stat := 1 }
        else if s.noise.headD false = true then s1.setOp core { o with done := true, stat := 7 }
        else s1.copyUnit core { o with data := [base, fld (s.handleWord die tenant (hSlot o.e.v1) 2) 0 20] } (z == 1)
      else s.copyUnit core o (z == 1)) := by
  show execCphGranule core n s = _
  simp only [execCphGranule, h, hi]
  rw [if_neg hgo, State.mishap_eq]
  rw [apply_ite Host.Outcome.next, apply_ite Host.Outcome.next, apply_ite Host.Outcome.next]

/-- The handle no longer passes (R333). -/
theorem cphGranule_revoked (hstart : o.pos = 0 ∨ (nthD 0 o.data 0 + o.pos) % 4096 = 0)
    (hbad : ¬ s.handleOk (dieOf (coachOf core)) (s.gangOf (coachOf core)).tenant o.e.v1 o.e.v2.toNat (z == 1) = true) :
    exec (.cphGranule core n) s = .next (s.setOp core { o with done := true, stat := 1 }) := by
  rw [cphGranule_of h hi hgo]
  dsimp only
  rw [if_pos hstart, if_pos (by simpa using hbad)]

/-- The translation fails. -/
theorem cphGranule_unmapped (hstart : o.pos = 0 ∨ (nthD 0 o.data 0 + o.pos) % 4096 = 0)
    (hok : s.handleOk (dieOf (coachOf core)) (s.gangOf (coachOf core)).tenant o.e.v1 o.e.v2.toNat (z == 1) = true)
    (hbad : s.noise.headD false = true) :
    exec (.cphGranule core n) s = .next (({ s with noise := s.noise.tail } : State).setOp core { o with done := true, stat := 7 }) := by
  rw [cphGranule_of h hi hgo]
  dsimp only
  rw [if_pos hstart, if_neg (ne_false_of_eq_true hok), if_pos hbad]

/-- The first unit of a granule moves to or from the page that the handle names. -/
theorem cphGranule_begins (hstart : o.pos = 0 ∨ (nthD 0 o.data 0 + o.pos) % 4096 = 0)
    (hok : s.handleOk (dieOf (coachOf core)) (s.gangOf (coachOf core)).tenant o.e.v1 o.e.v2.toNat (z == 1) = true)
    (hgood : s.noise.headD false = false) (hdone : o.done = false) :
    let w (i : Nat) : Nat := (s.handleWord (dieOf (coachOf core)) (s.gangOf (coachOf core)).tenant (o.e.v1.toNat / 2 ^ 48) i).toNat
    Answers (.cphGranule core n) s fun t => MovesUnit s t core n o z (w 0 + o.e.v1.toNat % 2 ^ 32) (w 2 % 2 ^ 20) := by
  intro w
  refine ⟨_, ?_, CopiesUnit.moves (l := s.noise.tail) (d := [w 0 + o.e.v1.toNat % 2 ^ 32, w 2 % 2 ^ 20]) h hdone (State.copyUnit_copies ..)⟩
  rw [cphGranule_of h hi hgo]
  dsimp only
  rw [if_pos hstart, if_neg (ne_false_of_eq_true hok), if_neg (ne_true_of_eq_false hgood), hSlot_eq, hOff_eq, fld_zero]

/-- A unit within a granule moves on in the page of the one before. -/
theorem cphGranule_continues (hinside : ¬(o.pos = 0 ∨ (nthD 0 o.data 0 + o.pos) % 4096 = 0)) (hdone : o.done = false) :
    Answers (.cphGranule core n) s fun t => MovesUnit s t core n o z (nthD 0 o.data 0) (nthD 0 o.data 1) := by
  refine ⟨_, ?_, CopiesUnit.moves (l := s.noise) (d := o.data) h hdone (State.copyUnit_copies ..)⟩
  rw [cphGranule_of h hi hgo]
  dsimp only
  rw [if_neg hinside]

end

theorem cphComplete_ends (h : (s.eng core).op? n = some o) (hi : o.e.ins = .cph z a hr c u)
    (hend : o.done = true ∨ (o.e.v2.toNat ≤ o.pos ∧ o.due ≤ s.cyc)) :
    Answers (.cphComplete core n) s fun t => SameBytes s t ∧ OpEnds s t core n u.aw o.pos o.stat := by
  refine ⟨s.finishOp core o o.pos o.stat, ?_, State.finishOp_found h (by simp [Entry.aw, awOf, hi]) ..⟩
  show execCphComplete core n s = _
  simp only [execCphComplete, h, hi]
  rw [if_pos hend]

end

/-! ## Contributions to a reduction -/

section
variable {s : State} {n : Nat} {m : Msg} {o : Op}

theorem State.msgReady_of (hm : lookup? s.net n = some m) (hdue : m.due ≤ s.cyc) : s.msgReady n = some m := by
  simp [State.msgReady, hm, hdue]

theorem Mem.read_length (m : Mem) (k n : Nat) : (m.read k n).length = n := by
  induction n generalizing k with
  | zero => rfl
  | succ n ih => simp [Mem.read, ih]

theorem fredContribution_waits (hm : lookup? s.net n = some m) (hdue : m.due ≤ s.cyc) (hk : m.kind = .collective)
    (h : (s.eng m.core).op? m.id = some o) (hs : s.msgServed m = false) : exec (.fredContribution n) s = .next s := by
  show execFredContribution n s = _
  simp [execFredContribution, State.msgReady_of hm hdue, hk, h, hs]

/-- A unit of a contribution that is read: the message waits for its next unit, or joins the reduction whole (R330). -/
theorem fredContribution_of (hm : lookup? s.net n = some m) (hdue : m.due ≤ s.cyc) (hk : m.kind = .collective)
    (h : (s.eng m.core).op? m.id = some o) (hs : s.msgServed m = true) :
    exec (.fredContribution n) s =
      let bs := (s.viewOf m.place).read m.place.key m.unit
      .next (if (m.moved bs).whole then ((s.moveUnit n m bs).dropMsg n).setOp m.core
          { o with parts := putKey o.parts (nthD 0 m.opnd 0) (m.moved bs).got }
        else s.moveUnit n m bs) := by
  show execFredContribution n s = _
  simp [execFredContribution, State.msgReady_of hm hdue, hk, h, hs]
  split <;> rfl

theorem fredContribution_reads (hm : lookup? s.net n = some m) (hdue : m.due ≤ s.cyc) (hk : m.kind = .collective)
    (h : (s.eng m.core).op? m.id = some o) (hs : s.msgServed m = true) :
    let all := m.got ++ (s.viewOf m.place).read m.place.key m.unit
    Answers (.fredContribution n) s fun t => SameBytes s t ∧
      OnlyCore s { t with net := s.net, slots := s.slots } m.core ∧ t.ctl m.core = s.ctl m.core ∧
      (m.got.length + 64 < m.size → t.cores = s.cores ∧ lookup? t.net n = some { m with got := all }) ∧
      (m.size ≤ m.got.length + 64 → lookup? t.net n = none ∧ ∃ x ∈ (t.eng m.core).ops, x.id = m.id ∧
        lookup? x.parts (nthD 0 m.opnd 0) = some all ∧ ∀ i, i ≠ nthD 0 m.opnd 0 → lookup? x.parts i = lookup? o.parts i) := by
  intro all
  have hwhole : (m.moved ((s.viewOf m.place).read m.place.key m.unit)).whole = decide (m.size ≤ m.got.length + 64) := by
    have hunit : m.unit = min 64 (m.size - m.got.length) := rfl
    simp only [Msg.whole, Msg.moved_size, Msg.moved_got, List.length_append, Mem.read_length, decide_eq_decide]
    omega
  have hmove := s.moveUnit_eq n m ((s.viewOf m.place).read m.place.key m.unit)
  refine ⟨_, fredContribution_of hm hdue hk h hs, ?_⟩
  dsimp only
  rw [hwhole]
  by_cases hlast : m.size ≤ m.got.length + 64
  · rw [if_pos (decide_eq_true hlast), hmove]
    have hid : o.id = m.id := (Eng.op?_mem h).2
    refine ⟨fun k => rfl, ⟨rfl, fun i hic => State.setOp_core_other (State.dropMsg _ n) _ hic⟩, State.setOp_ctl ..,
      fun hmore => by omega, fun _ => ⟨?_, ?_⟩⟩
    · exact lookup?_dropKey_self ..
    · refine ⟨_, State.mem_setOp (s := State.dropMsg _ n) h hid, hid, ?_, fun i hi => ?_⟩
      · simp [lookup?_putKey, all]
      · simp [lookup?_putKey, hi]
  · rw [if_neg (by simpa using hlast), hmove]
    refine ⟨fun k => rfl, ⟨rfl, fun i _ => rfl⟩, rfl, fun _ => ⟨rfl, ?_⟩, fun hle => absurd hle hlast⟩
    simp [lookup?_putKey, all, Msg.moved]

end

/-! ## fbar -/

/-- Whether an operation is the k-th fbar of its core. -/
def Op.isFbarAt (k : Nat) (o : Op) : Bool :=
  match o.e.ins with
  | .fbar _ => o.pos == k
  | _ => false

/-- Whether an operation is an fbar whose end is due (R332). -/
def Op.fbarEnds (now : Nat) (o : Op) : Bool :=
  match o.e.ins with
  | .fbar _ => o.done && decide (o.due ≤ now)
  | _ => false

theorem State.fbarOp_eq (s : State) (core k : Nat) : s.fbarOp core k = (s.eng core).ops.find? (Op.isFbarAt k) := rfl

theorem State.fbarOp_found {s : State} {core k : Nat} {x : Op} (h : s.fbarOp core k = some x) :
    x ∈ (s.eng core).ops ∧ x.isFbarAt k = true :=
  ⟨List.mem_of_find?_eq_some h, List.find?_some (p := Op.isFbarAt k) h⟩

theorem State.passFbar_cons (s : State) (k c : Nat) (rest : List Nat) :
    s.passFbar k (c :: rest) = match s.fbarOp c k with
      | some o => ((s.settleOp o).2.setOp c (s.settleOp o).1).passFbar k rest
      | none => s.passFbar k rest := rfl

theorem State.endFbars_cons (s : State) (c : Nat) (rest : List Nat) :
    s.endFbars (c :: rest) = match (s.eng c).ops.find? (Op.fbarEnds s.cyc) with
      | some o => (s.finishOp c o 0 0).endFbars rest
      | none => s.endFbars rest := rfl

theorem Op.isFbarAt_iff {k : Nat} {o : Op} : o.isFbarAt k = true ↔ (∃ v, o.e.ins = .fbar v) ∧ o.pos = k := by
  unfold Op.isFbarAt
  split
  next v hv => simp [hv]
  next hno => simpa using fun v hv => absurd hv (hno v)

theorem Op.fbarEnds_iff {now : Nat} {o : Op} : o.fbarEnds now = true ↔ (∃ v, o.e.ins = .fbar v) ∧ o.done = true ∧ o.due ≤ now := by
  unfold Op.fbarEnds
  split
  next v hv => simp [hv]
  next hno => simpa using fun v hv => absurd hv (hno v)

/-- Replacing an operation by its id leaves the first match of a predicate in its place, when the new operation matches as well. -/
theorem find?_map_replace {p : Op → Bool} {x o1 : Op} (hp : p o1 = true) {l : List Op} (h : l.find? p = some x) :
    (l.map fun y => if y.id == x.id then o1 else y).find? p = some o1 := by
  induction l with
  | nil => simp at h
  | cons y l ih =>
    by_cases hy : p y = true
    · obtain rfl : y = x := by simpa [hy] using h
      simp [hp]
    · have hl : l.find? p = some x := by simpa [hy] using h
      by_cases hid : y.id = x.id
      · simp [hid, hp]
      · simpa [hid, hy] using ih hl

theorem State.settleOp_core (s : State) (o : Op) (i : Nat) : (s.settleOp o).2.core i = s.core i := by rw [State.settleOp_eq]; rfl

theorem State.settleOp_delays {s : State} (h : s.delays = []) (o : Op) : (s.settleOp o).2.delays = [] := by
  unfold State.settleOp
  split
  · exact h
  · simp [State.delay, h]

/-- An operation that settles with no delay to come is due now, unless it was due before. -/
theorem State.settleOp_due_le {s : State} {o : Op} (h : s.delays = []) (ho : o.done = false ∨ o.due ≤ s.cyc) :
    (s.settleOp o).1.due ≤ s.cyc := by
  cases hd : o.done with
  | false => rw [State.settleOp_due hd, State.delay_zero h]; exact Nat.le_refl _
  | true => rw [State.settleOp_of_done hd]; exact ho.resolve_left (by simp [hd])

/-- A core's operation settled in place, as passFbar does it. -/
def State.settleAt (s : State) (c : Nat) (o : Op) : State := (s.settleOp o).2.setOp c (s.settleOp o).1

theorem State.settleAt_core_other {c i : Nat} (s : State) (o : Op) (h : i ≠ c) : (s.settleAt c o).core i = s.core i :=
  (State.setOp_core_other _ _ h).trans (s.settleOp_core ..)

theorem State.settleAt_ops (s : State) (c : Nat) (o : Op) :
    ((s.settleAt c o).eng c).ops = (s.eng c).ops.map fun y => if y.id == o.id then (s.settleOp o).1 else y := by
  have hid : (s.settleOp o).1.id = o.id := by rw [s.settleOp_op]
  have he : (s.settleOp o).2.eng c = s.eng c := congrArg Core.eng (s.settleOp_core o c)
  rw [State.settleAt, State.setOp_ops, he, hid]

theorem State.settleAt_coresDelays (s : State) (c : Nat) (o : Op) : CoresDelays s (s.settleAt c o) := by
  unfold CoresDelays State.settleAt
  rw [State.setOp_cores, s.settleOp_eq]

theorem State.passFbar_core_other {i : Nat} (k : Nat) (l : List Nat) (h : i ∉ l) (s : State) : (s.passFbar k l).core i = s.core i := by
  induction l generalizing s with
  | nil => rfl
  | cons c rest ih =>
    obtain ⟨hc, hrest⟩ : i ≠ c ∧ i ∉ rest := by simpa using h
    rw [State.passFbar_cons]
    split
    next o _ => exact (ih hrest _).trans (s.settleAt_core_other o hc)
    · exact ih hrest s

theorem State.passFbar_coresDelays (k : Nat) (l : List Nat) (s : State) : CoresDelays s (s.passFbar k l) := by
  induction l generalizing s with
  | nil => rfl
  | cons c rest ih =>
    rw [State.passFbar_cons]
    split
    next o _ => exact (s.settleAt_coresDelays c o).trans (ih _)
    · exact ih s

/-- What passFbar makes of the operations of a core that has the k-th fbar: that one is done, and due now when no delay is to come. -/
structure Passed (s t : State) (i : Nat) (x o1 : Op) : Prop where
  op : o1 = { x with done := true, due := o1.due }
  due : s.delays = [] → x.done = false ∨ x.due ≤ s.cyc → o1.due ≤ s.cyc
  ops : (t.eng i).ops = (s.eng i).ops.map fun y => if y.id == x.id then o1 else y

theorem State.settleAt_passed (s : State) (i : Nat) (x : Op) : Passed s (s.settleAt i x) i x (s.settleOp x).1 :=
  ⟨s.settleOp_op x, State.settleOp_due_le, s.settleAt_ops i x⟩

theorem Passed.of_eng {s s1 t : State} {i : Nat} {x o1 : Op} (h : Passed s1 t i x o1) (heng : s1.eng i = s.eng i) (hcyc : s1.cyc = s.cyc)
    (hdelays : s.delays = [] → s1.delays = []) : Passed s t i x o1 :=
  ⟨h.op, fun hd hx => hcyc ▸ h.due (hdelays hd) (hcyc ▸ hx), by rw [h.ops, heng]⟩

/-- A second pass over the same core finds the operation done, and settles it as it is. -/
theorem Passed.again {s s1 t : State} {i : Nat} {x o1 o2 : Op} (h : Passed s s1 i x o1) (k : Passed s1 t i o1 o2) (hcyc : s1.cyc = s.cyc)
    (hdelays : s.delays = [] → s1.delays = []) : Passed s t i x o2 where
  op := by rw [k.op, h.op]
  due hd hx := by
    have h1 := h.due hd hx
    rw [← hcyc] at h1 ⊢
    exact k.due (hdelays hd) (.inr h1)
  ops := by
    have hid : o1.id = x.id := by rw [h.op]
    rw [k.ops, h.ops, List.map_map]
    refine List.map_congr_left fun y _ => ?_
    by_cases hy : y.id = x.id <;> simp [hy, hid]

theorem State.passFbar_passed {i k : Nat} {x : Op} (l : List Nat) (hi : i ∈ l) (s : State) (hx : s.fbarOp i k = some x) :
    ∃ o1, Passed s (s.passFbar k l) i x o1 := by
  induction l generalizing s x with
  | nil => simp at hi
  | cons c rest ih =>
    rw [State.passFbar_cons]
    have hcyc : ∀ o, (s.settleAt c o).cyc = s.cyc := fun o => by rw [s.settleAt_coresDelays c o]
    have hdelays : ∀ o, s.delays = [] → (s.settleAt c o).delays = [] := fun o h => State.settleOp_delays h o
    by_cases hc : i = c
    · subst hc
      rw [hx]
      have h1 := s.settleAt_passed i x
      by_cases hr : i ∈ rest
      · have hp : (s.settleOp x).1.isFbarAt k = true := by
          rw [s.settleOp_op]
          exact (State.fbarOp_found hx).2
        have hx1 : (s.settleAt i x).fbarOp i k = some (s.settleOp x).1 := by
          rw [State.fbarOp_eq, s.settleAt_ops]
          exact find?_map_replace hp hx
        obtain ⟨o2, h2⟩ := ih hr _ hx1
        exact ⟨o2, h1.again h2 (hcyc x) (hdelays x)⟩
      · have hsame : ((s.settleAt i x).passFbar k rest).eng i = (s.settleAt i x).eng i :=
          congrArg Core.eng (State.passFbar_core_other k rest hr _)
        exact ⟨_, h1.op, h1.due, by rw [← h1.ops]; exact congrArg Eng.ops hsame⟩
    · have hr : i ∈ rest := (List.mem_cons.1 hi).resolve_left hc
      split
      next o _ =>
        have heng : (s.settleAt c o).eng i = s.eng i := congrArg Core.eng (s.settleAt_core_other o hc)
        obtain ⟨o1, h1⟩ := ih hr (s.settleAt c o) (by rw [State.fbarOp_eq, heng]; exact hx)
        exact ⟨o1, h1.of_eng heng (hcyc o) (hdelays o)⟩
      · exact ih hr s hx

theorem State.endFbars_core_other {i : Nat} (l : List Nat) (h : i ∉ l) (s : State) : (s.endFbars l).core i = s.core i := by
  induction l generalizing s with
  | nil => rfl
  | cons c rest ih =>
    obtain ⟨hc, hrest⟩ : i ≠ c ∧ i ∉ rest := by simpa using h
    rw [State.endFbars_cons]
    split
    next o _ => exact (ih hrest _).trans (s.finishOp_core_other o 0 0 hc)
    · exact ih hrest s

theorem State.endFbars_coresDelays (l : List Nat) (s : State) : CoresDelays s (s.endFbars l) := by
  induction l generalizing s with
  | nil => rfl
  | cons c rest ih =>
    rw [State.endFbars_cons]
    split
    next o _ =>
      have h1 : CoresDelays s (s.finishOp c o 0 0) := by unfold CoresDelays; rw [s.finishOp_cores]
      exact h1.trans (ih _)
    · exact ih s

/-- An end takes operations away and adds none. -/
theorem State.finishOp_ops_subset {s : State} {c i : Nat} {o y : Op} (h : y ∈ ((s.finishOp c o 0 0).eng i).ops) : y ∈ (s.eng i).ops := by
  by_cases hi : i = c
  · subst hi
    rw [State.finishOp_ops] at h
    exact List.mem_of_mem_filter h
  · have he : (s.finishOp c o 0 0).eng i = s.eng i := congrArg Core.eng (s.finishOp_core_other o 0 0 hi)
    rwa [he] at h

theorem State.endFbars_ops_subset {i : Nat} {y : Op} (l : List Nat) (s : State) (h : y ∈ ((s.endFbars l).eng i).ops) : y ∈ (s.eng i).ops := by
  induction l generalizing s with
  | nil => exact h
  | cons c rest ih =>
    rw [State.endFbars_cons] at h
    split at h
    · exact State.finishOp_ops_subset (ih _ h)
    · exact ih s h

/-- When the operations of one id are just those whose end is due, they have ended. -/
theorem State.endFbars_ends {i a : Nat} (l : List Nat) (hi : i ∈ l) (s : State) (h : ∀ y ∈ (s.eng i).ops, y.id = a ↔ y.fbarEnds s.cyc = true)
    {y : Op} (hy : y ∈ ((s.endFbars l).eng i).ops) : y.id ≠ a := by
  induction l generalizing s with
  | nil => simp at hi
  | cons c rest ih =>
    rw [State.endFbars_cons] at hy
    by_cases hc : i = c
    · subst hc
      split at hy
      next o ho =>
        have hoa : o.id = a := (h o (List.mem_of_find?_eq_some ho)).2 (List.find?_some ho)
        have hmem : y ∈ ((s.finishOp i o 0 0).eng i).ops := State.endFbars_ops_subset rest _ hy
        rw [State.finishOp_ops, List.mem_filter] at hmem
        simpa [hoa] using hmem.2
      next hnone =>
        have hmem := State.endFbars_ops_subset rest s hy
        intro hya
        exact List.find?_eq_none.1 hnone y hmem ((h y hmem).1 hya)
    · have hr : i ∈ rest := (List.mem_cons.1 hi).resolve_left hc
      split at hy
      next o _ =>
        refine ih hr (s.finishOp c o 0 0) (fun y hy => ?_) hy
        rw [(s.finishOp_same ..).1]
        exact h y (State.finishOp_ops_subset hy)
      · exact ih hr s h hy

theorem State.endFbars_none (l : List Nat) (s : State) (h : ∀ c ∈ l, ∀ y ∈ (s.eng c).ops, y.fbarEnds s.cyc = false) : s.endFbars l = s := by
  induction l with
  | nil => rfl
  | cons c rest ih =>
    have hnone : (s.eng c).ops.find? (Op.fbarEnds s.cyc) = none :=
      List.find?_eq_none.2 fun y hy => by simp [h c (by simp) y hy]
    rw [State.endFbars_cons, hnone]
    exact ih fun c hc => h c (by simp [hc])

section
variable {s : State} {gang k : Nat}

theorem fbarComplete_away (h : s.onCoaches gang = false) : exec (.fbarComplete gang) s = .next s := by
  show execFbarComplete gang s = _
  simp [execFbarComplete, h]

theorem fbarComplete_of (h : s.onCoaches gang = true) (hk : s.fbarNext (s.gang gang) = some k) :
    exec (.fbarComplete gang) s = .next ((if ((s.gang gang).cores.all fun i => s.fbarArrived i k) = true
      then s.passFbar k (s.gang gang).cores else s).endFbars (s.gang gang).cores) := by
  show execFbarComplete gang s = _
  simp [execFbarComplete, h, hk]

theorem fbarComplete_passes (h : s.onCoaches gang = true) (hk : s.fbarNext (s.gang gang) = some k)
    (hall : ((s.gang gang).cores.all fun i => s.fbarArrived i k) = true) :
    Answers (.fbarComplete gang) s fun t => SameBytes s t ∧ t = { s with cores := t.cores, delays := t.delays } ∧
      (∀ i, i ∉ (s.gang gang).cores → t.core i = s.core i) ∧
      ∀ i ∈ (s.gang gang).cores, ∀ x, s.fbarOp i k = some x →
        (∀ y ∈ (t.eng i).ops, y.id = x.id → y.done = true) ∧
        (s.delays = [] → (∀ y ∈ (s.eng i).ops, ∀ v, y.e.ins = .fbar v → y.done = false) → ∀ y ∈ (t.eng i).ops, y.id ≠ x.id) := by
  refine ⟨_, (fbarComplete_of h hk).trans (by rw [if_pos hall]), ?_⟩
  generalize (s.gang gang).cores = l
  refine ⟨((s.passFbar_same k l).trans (State.endFbars_same ..)).sameBytes,
    (s.passFbar_coresDelays k l).trans (State.endFbars_coresDelays ..),
    fun i hi => (State.endFbars_core_other l hi _).trans (s.passFbar_core_other k l hi), fun i hi x hx => ?_⟩
  obtain ⟨o1, ho1, hdue, hops⟩ := s.passFbar_passed l hi hx
  have hid : o1.id = x.id := by rw [ho1]
  have hdone : o1.done = true := by rw [ho1]
  obtain ⟨hxmem, hxk⟩ := State.fbarOp_found hx
  obtain ⟨⟨v, hv⟩, -⟩ := Op.isFbarAt_iff.1 hxk
  have hcase : ∀ y ∈ ((s.passFbar k l).eng i).ops, y = o1 ∨ (y ∈ (s.eng i).ops ∧ y.id ≠ x.id) := by
    intro y hy
    rw [hops, List.mem_map] at hy
    obtain ⟨y0, hy0, rfl⟩ := hy
    by_cases hyid : y0.id = x.id
    · exact .inl (by simp [hyid])
    · exact .inr (by simpa [hyid] using hy0)
  refine ⟨fun y hy hyx => ?_, fun hdelays hopen y hy => ?_⟩
  · obtain rfl | ⟨-, hne⟩ := hcase y (State.endFbars_ops_subset l _ hy)
    · exact hdone
    · exact absurd hyx hne
  · have hcyc : (s.passFbar k l).cyc = s.cyc := (s.passFbar_same k l).1
    refine State.endFbars_ends l hi _ (fun y hy => ?_) hy
    rw [hcyc, Op.fbarEnds_iff]
    obtain rfl | ⟨hmem, hne⟩ := hcase y hy
    · have hins : y.e.ins = .fbar v := by rw [ho1]; exact hv
      exact iff_of_true hid ⟨⟨v, hins⟩, hdone, hdue hdelays (.inl (hopen x hxmem v hv))⟩
    · refine iff_of_false hne fun ⟨⟨w, hw⟩, hyd, _⟩ => ?_
      rw [hopen y hmem w hw] at hyd
      cases hyd

theorem fbarComplete_waits (hk : s.fbarNext (s.gang gang) = some k) (hall : ((s.gang gang).cores.all fun i => s.fbarArrived i k) = false)
    (hopen : ∀ i ∈ (s.gang gang).cores, ∀ y ∈ (s.eng i).ops, ∀ v, y.e.ins = .fbar v → y.done = false) :
    exec (.fbarComplete gang) s = .next s := by
  cases h : s.onCoaches gang with
  | false => exact fbarComplete_away h
  | true =>
    rw [fbarComplete_of h hk, if_neg (by simp [hall]), State.endFbars_none]
    intro c hc y hy
    rw [Bool.eq_false_iff, ne_eq, Op.fbarEnds_iff]
    rintro ⟨⟨v, hv⟩, hd, -⟩
    simp [hopen c hc y hy v hv] at hd

end

/-! ## The collectives and host copies -/

section
variable {s : State} {core n : Nat} {o : Op} {z op : BitVec 2} {aq : Bool} {g t4 : BitVec 4} {a b hr c : Reg} {off : BitVec 11} {u : UCont}
  {x : Group}

theorem remoteLoadTimeout_ends (h : (s.eng core).op? n = some o) (hi : o.e.ins = .flLd z aq a b off u) (hat : o.at_ + 1048576 ≤ s.cyc)
    (hlen : o.loaded.length < flBytes z) :
    Answers (.remoteLoadTimeout core n) s fun t => SameBytes s t ∧ OpEnds s t core n u.aw 0 4 :=
  ⟨_, (remoteLoadTimeout_of h hi).trans (by rw [if_pos ⟨hat, hlen⟩]), State.finishOp_found h (by simp [Entry.aw, awOf, hi]) ..⟩

theorem remoteLoadTimeout_waits (h : (s.eng core).op? n = some o) (hi : o.e.ins = .flLd z aq a b off u)
    (hno : s.cyc < o.at_ + 1048576 ∨ flBytes z ≤ o.loaded.length) : exec (.remoteLoadTimeout core n) s = .next s := by
  rw [remoteLoadTimeout_of h hi, if_neg (by omega)]

theorem fredTimeout_ends (h : (s.eng core).op? n = some o) (hi : o.e.ins = .fred op g t4 a off u) (hx : o.grp = some x)
    (hat : o.at_ + 1048576 ≤ s.cyc) (hlen : o.parts.length < x.mem.length) :
    Answers (.fredTimeout core n) s fun t => SameBytes s t ∧ OpEnds s t core n u.aw 0 2 :=
  ⟨_, (fredTimeout_of h hi hx).trans (by rw [if_pos ⟨hat, hlen⟩]), State.finishOp_found h (by simp [Entry.aw, awOf, hi]) ..⟩

theorem fredTimeout_waits (h : (s.eng core).op? n = some o) (hi : o.e.ins = .fred op g t4 a off u) (hx : o.grp = some x)
    (hno : s.cyc < o.at_ + 1048576 ∨ x.mem.length ≤ o.parts.length) : exec (.fredTimeout core n) s = .next s := by
  rw [fredTimeout_of h hi hx, if_neg (by omega)]

/-- A unit of a reduction's value that is written changes the bytes of its place alone. -/
theorem bytes_of_write_unitOf {t : State} {l : Loc} {pos : Nat} {out : List Byte} (h : t.mem = s.mem.write l.key (unitOf pos out)) :
    (∀ i, i < 64 → pos + i < out.length → t.mem.byte (l.key + i) = nthD 0 out (pos + i)) ∧
    ∀ i, i < l.key ∨ l.key + 64 ≤ i → t.mem.byte i = s.mem.byte i := by
  rw [h]
  refine ⟨fun i hi hl => byte_write_unitOf _ _ _ _ hi hl, fun i hi => Mem.byte_write_other _ _ _ _ ?_⟩
  have := unitOf_length_le pos out
  omega

end

/-- Settles O45, event by event: what each one answers stands in the lemmas above. -/
theorem collectivesAndHostCopies : Obligations.CollectivesAndHostCopies := by
  unfold Obligations.CollectivesAndHostCopies
  intro core n gang o m z op aq g t4 a b c off u s kc
  refine ⟨fun h => ⟨fun hi => ⟨remoteLoadTimeout_ends h hi, fun hno => ⟨s, remoteLoadTimeout_waits h hi hno, rfl⟩⟩,
    fun x hi hx => ⟨fredTimeout_ends h hi hx, fun hno => ⟨s, fredTimeout_waits h hi hx hno, rfl⟩,
      fun hlen => ⟨s, fredComplete_early h hi hx hlen, rfl⟩, fun hlen => ?_⟩, fun hr hi _ => ?_⟩,
    fun hm hdue hk h => ⟨fun hs => ⟨s, fredContribution_waits hm hdue hk h hs, rfl⟩, fun hs => ?_⟩,
    fun k hon hk hall => fbarComplete_passes hon hk hall, fun haway => ⟨s, fbarComplete_away haway, rfl⟩,
    fun k hk hall hopen => ⟨s, fbarComplete_waits hk hall hopen, rfl⟩⟩
  · extract_lets elems out loc to_ due at_ l
    have hout : o.reduced x op.toNat t4.toNat = out := by unfold out; rw [← redBytes_toNat]; rfl
    have hl : s.fredPlace core o x out.length = l := rfl
    have hto : (s.fredTargets (coachOf core) x o.e.v0.toNat).length = to_.length := List.length_map ..
    refine ⟨fun hd => ?_, fun hd => ?_, fun hwait => fredComplete_waits h hi hx hlen hout hwait, fun hdue hs => ?_⟩
    · unfold due; rw [State.settleOp_due hd]; omega
    · unfold due; rw [State.settleOp_of_done hd]
    · obtain ⟨t, ht, hmem, hlast, hmore⟩ := fredComplete_writes h hi hx hlen hout hdue hs
      rw [hl] at hmem
      rw [hto] at hlast hmore
      obtain ⟨hin, hother⟩ := bytes_of_write_unitOf hmem
      exact ⟨t, ht, hin, hother, hlast, hmore⟩
  · extract_lets len ten pos dev w starts valid stops moves
    refine ⟨fun hdone hpos hdue hs => ?_, fun hidle => ⟨s, cphGranule_idle h hi hidle, rfl⟩, cphComplete_ends h hi⟩
    have hgo : ¬(o.done = true ∨ o.e.v2.toNat ≤ o.pos ∨ s.cyc < o.due ∨ s.unitServed (coachOf core) o.e (o.e.v0.toNat + o.pos) = false) := by
      have hs' : s.unitServed (coachOf core) o.e (o.e.v0.toNat + o.pos) = true := hs
      simp only [hdone, hs', not_or, Bool.false_eq_true, Bool.true_eq_false, not_false_eq_true, and_true, true_and]
      omega
    exact ⟨fun hstart hbad => ⟨_, cphGranule_revoked h hi hgo hstart hbad, State.setOp_stops h s.noise 1⟩,
      fun hstart hok hbad => ⟨_, cphGranule_unmapped h hi hgo hstart hok hbad, State.setOp_stops h s.noise.tail 7⟩,
      fun hstart hok hgood => cphGranule_begins h hi hgo hstart hok hgood hdone,
      fun hinside => cphGranule_continues h hi hgo hinside hdone⟩
  · have hsize : m.size = nthD 0 m.opnd 1 := by simp [Msg.size, hk]
    have hunit : m.unit = min 64 (nthD 0 m.opnd 1 - m.got.length) := congrArg (fun k => min 64 (k - m.got.length)) hsize
    have hreads := fredContribution_reads hm hdue hk h hs
    rw [hunit, hsize] at hreads
    exact hreads

end Sys2Proof.Machine
end

section
/-! PROOFS of the statements of the family 01_kernel_image, first part: what the other parts rest on. Fields of doublewords bit by bit, numbers
in storage, and folds over parts of the state: what a fold leaves alone, and what it makes of the part that one of its steps names. -/

namespace Sys2Proof.Machine

/-! ## Fields of doublewords -/

theorem fld_eq (x : Word) (lo len : Nat) : fld x lo len = x.toNat / 2 ^ lo % 2 ^ len := by
  rw [fld, Nat.shiftRight_eq_div_pow]

theorem fld_lt (x : Word) (lo len : Nat) : fld x lo len < 2 ^ len := Nat.mod_lt _ (Nat.two_pow_pos len)

theorem testBit_fld (x : Word) (lo len i : Nat) : (fld x lo len).testBit i = (decide (i < len) && x.getLsbD (lo + i)) := by
  simp [fld, Nat.testBit_mod_two_pow, Nat.testBit_shiftRight, BitVec.getLsbD]

theorem getLsbD_mkFld (lo len v i : Nat) :
    (mkFld lo len v).getLsbD i = (decide (i < 64 ∧ lo ≤ i ∧ i < lo + len) && v.testBit (i - lo)) := by
  simp only [mkFld, BitVec.getLsbD_ofNat, Nat.testBit_shiftLeft, Nat.testBit_mod_two_pow]
  by_cases h : lo ≤ i
  · have hlen : i - lo < len ↔ i < lo + len := by omega
    simp [h, hlen, Bool.and_assoc]
  · simp [h]

theorem getLsbD_setFld (x : Word) (lo len v i : Nat) :
    (setFld x lo len v).getLsbD i = if lo ≤ i ∧ i < lo + len then decide (i < 64) && v.testBit (i - lo) else x.getLsbD i := by
  simp only [setFld, BitVec.getLsbD_or, BitVec.getLsbD_and, BitVec.getLsbD_not, getLsbD_mkFld, Nat.testBit_two_pow_sub_one]
  by_cases h : lo ≤ i ∧ i < lo + len
  · have hlen : i - lo < len := by omega
    by_cases h64 : i < 64 <;> simp [h, hlen, h64]
  · by_cases h64 : i < 64
    · simp [h, h64]
    · simp [h, h64, BitVec.getLsbD_of_ge x i (by omega)]

/-- The field just set reads as the number, cut to the field. -/
theorem fld_setFld_self (x : Word) {lo len : Nat} (h : lo + len ≤ 64) (v : Nat) : fld (setFld x lo len v) lo len = v % 2 ^ len := by
  refine Nat.eq_of_testBit_eq fun i => ?_
  rw [testBit_fld, getLsbD_setFld, Nat.testBit_mod_two_pow]
  by_cases hi : i < len
  · have h64 : lo + i < 64 := by omega
    simp [hi, h64]
  · simp [hi]

/-- A field apart from the one that is set reads as before. -/
theorem fld_setFld_other (x : Word) {lo len lo' len' : Nat} (h : lo' + len' ≤ lo ∨ lo + len ≤ lo') (v : Nat) :
    fld (setFld x lo len v) lo' len' = fld x lo' len' := by
  refine Nat.eq_of_testBit_eq fun i => ?_
  rw [testBit_fld, testBit_fld, getLsbD_setFld]
  by_cases hi : i < len'
  · rw [if_neg (by omega)]
  · simp [hi]

theorem fld_or (x y : Word) (lo len : Nat) : fld (x ||| y) lo len = fld x lo len ||| fld y lo len := by
  refine Nat.eq_of_testBit_eq fun i => ?_
  simp only [testBit_fld, BitVec.getLsbD_or, Nat.testBit_or, Bool.and_or_distrib_left]

theorem fld_mkFld_self {lo len : Nat} (h : lo + len ≤ 64) (v : Nat) : fld (mkFld lo len v) lo len = v % 2 ^ len := by
  refine Nat.eq_of_testBit_eq fun i => ?_
  rw [testBit_fld, getLsbD_mkFld, Nat.testBit_mod_two_pow]
  by_cases hi : i < len
  · have h64 : lo + i < 64 := by omega
    simp [hi, h64]
  · simp [hi]

theorem fld_mkFld_other {lo len lo' len' : Nat} (h : lo' + len' ≤ lo ∨ lo + len ≤ lo') (v : Nat) : fld (mkFld lo len v) lo' len' = 0 := by
  refine Nat.eq_of_testBit_eq fun i => ?_
  rw [testBit_fld, getLsbD_mkFld, Nat.zero_testBit]
  by_cases hi : i < len'
  · have hout : ¬(lo' + i < 64 ∧ lo ≤ lo' + i ∧ lo' + i < lo + len) := by omega
    simp [hout]
  · simp [hi]

theorem toNat_mkFld {lo len : Nat} (h : lo + len ≤ 64) (v : Nat) : (mkFld lo len v).toNat = v % 2 ^ len * 2 ^ lo := by
  have hv : v % 2 ^ len < 2 ^ len := Nat.mod_lt _ (Nat.two_pow_pos len)
  have hlt : v % 2 ^ len * 2 ^ lo < 2 ^ 64 :=
    calc v % 2 ^ len * 2 ^ lo < 2 ^ len * 2 ^ lo := Nat.mul_lt_mul_of_pos_right hv (Nat.two_pow_pos lo)
      _ = 2 ^ (lo + len) := by rw [← Nat.pow_add, Nat.add_comm]
      _ ≤ 2 ^ 64 := Nat.pow_le_pow_right (by decide) h
  rw [mkFld, BitVec.toNat_ofNat, Nat.shiftLeft_eq, Nat.mod_eq_of_lt hlt]

/-! ## Numbers in storage -/

@[simp] theorem bytesOf_length (n v : Nat) : (bytesOf n v).length = n := by
  induction n generalizing v with
  | zero => rfl
  | succ n ih => simp [bytesOf, ih]

theorem natOfBytes_bytesOf (n v : Nat) : natOfBytes (bytesOf n v) = v % 256 ^ n := by
  induction n generalizing v with
  | zero => simp [bytesOf, natOfBytes, Nat.mod_one]
  | succ n ih =>
    rw [bytesOf, natOfBytes, ih, BitVec.toNat_ofNat, show 2 ^ 8 = 256 from rfl, Nat.pow_succ', Nat.mod_mul]

theorem bytesOf_natOfBytes (l : List Byte) : bytesOf l.length (natOfBytes l) = l := by
  induction l with
  | nil => rfl
  | cons b l ih =>
    have hb := b.isLt
    have hdiv : (b.toNat + 256 * natOfBytes l) / 256 = natOfBytes l := by omega
    have hmod : BitVec.ofNat 8 (b.toNat + 256 * natOfBytes l) = b := by
      apply BitVec.eq_of_toNat_eq
      rw [BitVec.toNat_ofNat]; omega
    rw [List.length_cons, natOfBytes, bytesOf, hdiv, hmod, ih]

theorem natOfBytes_lt (l : List Byte) : natOfBytes l < 256 ^ l.length := by
  induction l with
  | nil => simp [natOfBytes]
  | cons b l ih =>
    have hb := b.isLt
    rw [natOfBytes, List.length_cons, Nat.pow_succ']
    omega

/-- A read depends on the bytes read alone. -/
theorem Mem.read_congr {m m' : Mem} {k n : Nat} (h : ∀ i, i < n → m.byte (k + i) = m'.byte (k + i)) : m.read k n = m'.read k n := by
  induction n generalizing k with
  | zero => rfl
  | succ n ih =>
    have hhead : m.byte k = m'.byte k := h 0 (by omega)
    rw [Mem.read, Mem.read, hhead, ih fun i hi => ?_]
    rw [Nat.add_assoc, Nat.add_comm 1 i]
    exact h (i + 1) (by omega)

theorem Mem.read_getElem (m : Mem) (k n i : Nat) (h : i < (m.read k n).length) : (m.read k n)[i] = m.byte (k + i) := by
  induction n generalizing k i with
  | zero => simp [Mem.read] at h
  | succ n ih =>
    cases i with
    | zero => rfl
    | succ i => simpa [Mem.read, Nat.add_assoc, Nat.add_comm 1 i] using ih (k + 1) i (by simpa [Mem.read] using h)

/-- What has just been written is read back. -/
theorem Mem.read_write_self (m : Mem) (k : Nat) (bs : List Byte) : (m.write k bs).read k bs.length = bs := by
  refine List.ext_getElem (Mem.read_length ..) fun i h h' => ?_
  rw [Mem.read_getElem, Mem.byte_write]

/-- A read apart from the bytes of a write reads as before. -/
theorem Mem.num_write_other (m : Mem) (l : Loc) (n k : Nat) (bs : List Byte) (h : l.key + n ≤ k ∨ k + bs.length ≤ l.key) :
    (m.write k bs).num l n = m.num l n := by
  rw [Mem.num, Mem.num, Mem.read_congr fun i hi => Mem.byte_write_other bs m k (l.key + i) (by omega)]

@[simp] theorem Mem.num_setNum_self (m : Mem) (l : Loc) (n v : Nat) : (m.setNum l n v).num l n = v % 256 ^ n := by
  have hread := m.read_write_self l.key (bytesOf n v)
  rw [bytesOf_length] at hread
  rw [Mem.num, Mem.setNum, hread, natOfBytes_bytesOf]

theorem Mem.num_setNum_other (m : Mem) (l l' : Loc) (n n' v : Nat) (h : l'.key + n' ≤ l.key ∨ l.key + n ≤ l'.key) :
    (m.setNum l n v).num l' n' = m.num l' n' := m.num_write_other l' n' l.key _ (by rwa [bytesOf_length])

theorem Mem.byte_setNum_other (m : Mem) (l : Loc) (n v k : Nat) (h : k < l.key ∨ l.key + n ≤ k) : (m.setNum l n v).byte k = m.byte k :=
  Mem.byte_write_other _ m l.key k (by rwa [bytesOf_length])

/-- A number written over itself changes no byte. -/
theorem Mem.byte_setNum_num (m : Mem) (l : Loc) (n k : Nat) : (m.setNum l n (m.num l n)).byte k = m.byte k := by
  by_cases h : k < l.key ∨ l.key + n ≤ k
  · exact m.byte_setNum_other l n _ k h
  · obtain ⟨i, rfl⟩ := Nat.exists_eq_add_of_le (show l.key ≤ k by omega)
    have hlen := m.read_length l.key n
    have hback : bytesOf n (natOfBytes (m.read l.key n)) = m.read l.key n := by
      have := bytesOf_natOfBytes (m.read l.key n)
      rwa [hlen] at this
    rw [Mem.setNum, Mem.num, hback, Mem.byte_write _ _ _ _ (by omega), Mem.read_getElem]

/-- Device memory of a die runs on from one offset to the next. -/
theorem Loc.dev_key (die a b : Nat) : (Loc.dev die (a + b)).key = (Loc.dev die a).key + b := (Nat.add_assoc ..).symm

/-! ## Folds over parts of the state -/

section
variable {ι β : Type} {f : State → ι → State}

/-- What no step of a fold changes is as before. -/
theorem foldl_frame (p : State → β) {l : List ι} (h : ∀ s, ∀ i ∈ l, p (f s i) = p s) (s : State) : p (l.foldl f s) = p s := by
  induction l generalizing s with
  | nil => rfl
  | cons i l ih =>
    rw [List.foldl_cons, ih fun s j hj => h s j (List.mem_cons_of_mem i hj), h s i List.mem_cons_self]

/-- A fold keeps what each of its steps keeps. -/
theorem foldl_inv {I : State → Prop} {l : List ι} (h : ∀ s, ∀ i ∈ l, I s → I (f s i)) {s : State} (hs : I s) : I (l.foldl f s) := by
  induction l generalizing s with
  | nil => exact hs
  | cons i l ih => exact ih (fun s j hj => h s j (List.mem_cons_of_mem i hj)) (h s i List.mem_cons_self hs)

/-- What one step of a fold brings about, and every step keeps, holds after the fold. -/
theorem foldl_reaches {I Q : State → Prop} {i : ι} {l : List ι} (hi : i ∈ l) (hI : ∀ s, ∀ j ∈ l, I s → I (f s j))
    (hQ : ∀ s, I s → Q (f s i)) (hkeep : ∀ s, ∀ j ∈ l, Q s → Q (f s j)) {s : State} (hs : I s) : Q (l.foldl f s) := by
  induction l generalizing s with
  | nil => cases hi
  | cons j l ih =>
    have hkeep' : ∀ s, ∀ k ∈ l, Q s → Q (f s k) := fun s k hk => hkeep s k (List.mem_cons_of_mem j hk)
    rcases List.mem_cons.1 hi with rfl | hi
    · exact foldl_inv hkeep' (hQ s hs)
    · exact ih hi (fun s k hk => hI s k (List.mem_cons_of_mem j hk)) hkeep' (hI s j List.mem_cons_self hs)

/-- In a list without a repetition the step of one element finds its part as it was before the fold, and the later steps leave it. -/
theorem foldl_nodup {get : State → β} {I : State → Prop} {R : β → β → Prop} {i : ι} {l : List ι} (hl : l.Nodup) (hi : i ∈ l)
    (hI : ∀ s, ∀ j ∈ l, I s → I (f s j)) (hother : ∀ s, ∀ j ∈ l, I s → j ≠ i → get (f s j) = get s)
    (hself : ∀ s, I s → R (get s) (get (f s i))) {s : State} (hs : I s) : R (get s) (get (l.foldl f s)) := by
  induction l generalizing s with
  | nil => cases hi
  | cons j l ih =>
    obtain ⟨hj, hl⟩ := List.nodup_cons.1 hl
    have hI' : ∀ s, ∀ k ∈ l, I s → I (f s k) := fun s k hk => hI s k (List.mem_cons_of_mem j hk)
    have hother' : ∀ s, ∀ k ∈ l, I s → k ≠ i → get (f s k) = get s := fun s k hk => hother s k (List.mem_cons_of_mem j hk)
    rcases List.mem_cons.1 hi with rfl | hi
    · have hrest : get (l.foldl f (f s i)) = get (f s i) ∧ I (l.foldl f (f s i)) :=
        foldl_inv (I := fun t => get t = get (f s i) ∧ I t)
          (fun t k hk ⟨ht, htI⟩ => ⟨(hother' t k hk htI (fun e => hj (e ▸ hk))).trans ht, hI' t k hk htI⟩)
          ⟨rfl, hI s i List.mem_cons_self hs⟩
      rw [List.foldl_cons, hrest.1]
      exact hself s hs
    · have hne : j ≠ i := fun e => hj (e ▸ hi)
      rw [List.foldl_cons, ← hother s j List.mem_cons_self hs hne]
      exact ih hl hi hI' hother' (hI s j List.mem_cons_self hs)

end

/-! ## Parts of a state -/

theorem State.core_congr {s t : State} (h : t.cores = s.cores) (c : Nat) : t.core c = s.core c := congrArg (lookupD Core.reset · c) h
theorem State.coach_congr {s t : State} (h : t.coaches = s.coaches) (c : Nat) : t.coach c = s.coach c := congrArg (lookupD Coach.reset · c) h
theorem State.gang_congr {s t : State} (h : t.gangs = s.gangs) (g : Nat) : t.gang g = s.gang g := congrArg (lookupD Gang.reset · g) h
theorem State.die_congr {s t : State} (h : t.dies = s.dies) (d : Nat) : t.die d = s.die d := congrArg (lookupD Die.reset · d) h

theorem mem_span {a n i : Nat} : i ∈ span a n ↔ a ≤ i ∧ i < a + n := by
  simp only [span, List.mem_map, List.mem_range]
  exact ⟨fun ⟨j, hj, h⟩ => by omega, fun h => ⟨i - a, by omega, by omega⟩⟩

theorem nodup_span (a n : Nat) : (span a n).Nodup := List.nodup_range.map fun _ _ h => Nat.add_left_cancel h

/-- The cores of a coach are those whose coach it is. -/
theorem mem_coresOf {coach c : Nat} : c ∈ coresOf coach ↔ coachOf c = coach := by
  rw [coresOf, mem_span, coachOf]
  omega

theorem Gang.mem_cores {g : Gang} {c : Nat} : c ∈ g.cores ↔ coachOf c ∈ g.coaches := by
  simp [Gang.cores, List.mem_flatMap, mem_coresOf]

theorem Gang.nodup_cores {g : Gang} (h : g.coaches.Nodup) : g.cores.Nodup := by
  refine List.nodup_flatMap.2 ⟨fun c _ => nodup_span _ _, h.imp fun hne => ?_⟩
  rw [Function.onFun, List.disjoint_left]
  intro i hi hj
  exact hne ((mem_coresOf.1 hi).symm.trans (mem_coresOf.1 hj))

end Sys2Proof.Machine
end

section
/-! PROOFS of the statements of the family 01_kernel_image, second part: step transactions (R371, R372). How a step opens, how its cores go
on, and how it is decided. -/

namespace Sys2Proof.Machine

/-! ## Durations -/

@[simp] theorem State.delay_cores (s : State) (n : Nat) : (s.delay n).2.cores = s.cores := by rw [State.delay_eq]
@[simp] theorem State.delay_coaches (s : State) (n : Nat) : (s.delay n).2.coaches = s.coaches := by rw [State.delay_eq]
@[simp] theorem State.delay_gangs (s : State) (n : Nat) : (s.delay n).2.gangs = s.gangs := by rw [State.delay_eq]
@[simp] theorem State.delay_dies (s : State) (n : Nat) : (s.delay n).2.dies = s.dies := by rw [State.delay_eq]
@[simp] theorem State.delay_present (s : State) (n : Nat) : (s.delay n).2.present = s.present := by rw [State.delay_eq]
@[simp] theorem State.delay_coach (s : State) (n c : Nat) : (s.delay n).2.coach c = s.coach c := by rw [State.delay_eq]; rfl
@[simp] theorem State.delay_gang (s : State) (n g : Nat) : (s.delay n).2.gang g = s.gang g := by rw [State.delay_eq]; rfl

/-! ## Conditions of the two events -/

theorem State.coachesRun_iff {s : State} {l : List Nat} : s.coachesRun l = true ↔ ∀ c ∈ l, (s.coach c).stand = .running := by
  simp [State.coachesRun]

theorem Ctl.hasExited_iff {c : Ctl} : c.hasExited = true ↔ c.stand = .exited := by simp [Ctl.hasExited]

theorem State.atStepBegin_iff {s : State} {c : Nat} :
    s.atStepBegin c = true ↔ (s.ctl c).stand = .exited ∨ .stepBegin ∈ (s.ctl c).blocks := by
  simp [State.atStepBegin, Ctl.hasExited_iff]

theorem State.atStepCommit_iff {s : State} {c : Nat} :
    s.atStepCommit c = true ↔ (s.ctl c).stand = .exited ∨ ∃ id r, (s.ctl c).commitWait = some (id, r) ∧ s.relDone c r = true := by
  rw [State.atStepCommit, Bool.or_eq_true, Ctl.hasExited_iff]
  cases (s.ctl c).commitWait with
  | none => simp
  | some p => obtain ⟨id, r⟩ := p; simp

/-! ## The opening of a step -/

section
variable {gi : Nat} {s : State}

theorem stepBeginRelease_stopped (h : ¬∀ c ∈ (s.gang gi).coaches, (s.coach c).stand = .running) :
    exec (.stepBeginRelease gi) s = .next s := by
  have hrun : s.coachesRun (s.gang gi).coaches = false := Bool.eq_false_iff.2 fun e => h (State.coachesRun_iff.1 e)
  exact if_pos hrun

theorem stepCommitDecision_stopped (h : ¬∀ c ∈ (s.gang gi).coaches, (s.coach c).stand = .running) :
    exec (.stepCommitDecision gi) s = .next s := by
  have hrun : s.coachesRun (s.gang gi).coaches = false := Bool.eq_false_iff.2 fun e => h (State.coachesRun_iff.1 e)
  exact if_neg (by simp [hrun])

/-- A coach opens a step: its copy is under way, OPEN is 1, and NF, AB and REISS are 0 (R371). -/
def Coach.OpensStep (x y : Coach) : Prop :=
  y.ph.stepping = true ∧ ∀ i, i < 64 → y.stepf.getLsbD i =
    if i = 2 then true else if i < 2 ∨ (12 ≤ i ∧ i < 16) then false else x.stepf.getLsbD i

theorem Coach.OpensStep.trans {x y z : Coach} (h : x.OpensStep y) (k : y.OpensStep z) : x.OpensStep z := by
  refine ⟨k.1, fun i hi => (k.2 i hi).trans ?_⟩
  rw [h.2 i hi]
  split
  · rfl
  · split <;> rfl

@[simp] theorem State.openStep_cores (s : State) (c : Nat) : (s.openStep c).cores = s.cores := by simp [State.openStep]
@[simp] theorem State.openStep_gangs (s : State) (c : Nat) : (s.openStep c).gangs = s.gangs := by simp [State.openStep]

theorem State.openStep_other (s : State) {c i : Nat} (h : c ≠ i) : (s.openStep c).coach i = s.coach i := by
  simp [State.openStep, State.coach_setCoach_other _ _ _ _ h.symm]

theorem State.openStep_opens (s : State) (c : Nat) : (s.coach c).OpensStep ((s.openStep c).coach c) := by
  refine ⟨by simp [State.openStep], fun i hi => ?_⟩
  simp only [State.openStep, State.coach_setCoach_self, getLsbD_setFld]
  by_cases h2 : i = 2
  · subst h2; simp
  · rw [if_neg (by omega), if_neg h2]
    by_cases hR : 12 ≤ i ∧ i < 16
    · rw [if_pos (by omega), if_pos (Or.inr hR)]; simp
    · rw [if_neg (by omega)]
      by_cases hF : i < 2
      · rw [if_pos (by omega), if_pos (Or.inl hF)]; simp
      · rw [if_neg (by omega), if_neg (by omega)]

/-- After the steps of a list that name parts, a part that is named stands to what it was as one step leaves it; repetitions do no more. -/
theorem foldl_repeats {β : Type} {f : State → Nat → State} {get : State → β} {R : β → β → Prop} {i : Nat} {l : List Nat} (hi : i ∈ l)
    (hother : ∀ s j, j ≠ i → get (f s j) = get s) (hself : ∀ s, R (get s) (get (f s i)))
    (htrans : ∀ x y z, R x y → R y z → R x z) (s : State) : R (get s) (get (l.foldl f s)) := by
  refine foldl_reaches (I := fun t => get t = get s ∨ R (get s) (get t)) (Q := fun t => R (get s) (get t)) hi (fun t j _ ht => ?_)
    (fun t ht => ?_) (fun t j _ ht => ?_) (Or.inl rfl)
  · by_cases hj : j = i
    · subst hj
      exact ht.elim (fun e => Or.inr (e ▸ hself t)) fun h => Or.inr (htrans _ _ _ h (hself t))
    · rwa [hother t j hj]
  · exact ht.elim (fun e => e ▸ hself t) fun h => htrans _ _ _ h (hself t)
  · by_cases hj : j = i
    · subst hj; exact htrans _ _ _ ht (hself t)
    · rwa [hother t j hj]

theorem lookupD_map_mem {α : Type} (d : α) (f : Nat → α) {l : List Nat} {c : Nat} (h : c ∈ l) :
    lookupD d (l.map fun i => (i, f i)) c = f c := by
  induction l with
  | nil => cases h
  | cons j l ih =>
    rw [List.map_cons, lookupD]
    split
    next e => rw [e]
    next e => exact ih ((List.mem_cons.1 h).resolve_left fun e' => e e'.symm)

theorem stepBeginRelease_opens (hrun : ∀ c ∈ (s.gang gi).coaches, (s.coach c).stand = .running) (hopen : (s.gang gi).open_ = false)
    (hall : ∀ c ∈ (s.gang gi).cores, (s.ctl c).stand = .exited ∨ .stepBegin ∈ (s.ctl c).blocks)
    (hsome : ∃ c ∈ (s.gang gi).cores, .stepBegin ∈ (s.ctl c).blocks) :
    Answers (.stepBeginRelease gi) s fun t =>
      t.gang gi = { s.gang gi with open_ := true, stepPh := (t.gang gi).stepPh } ∧ t.cores = s.cores ∧ SameBytes s t ∧
      (∀ c, c ∉ (s.gang gi).coaches → t.coach c = s.coach c) ∧
      ∀ c ∈ (s.gang gi).coaches, (s.coach c).OpensStep (t.coach c) ∧ lookupD 99 (t.gang gi).stepPh c = (s.coach c).ph.pht := by
  let phs := (s.gang gi).coaches.map fun c => (c, (s.coach c).ph.pht)
  let s1 := s.setGang gi { s.gang gi with open_ := true, stepPh := phs }
  have hgo : (((s.gang gi).cores.all s.atStepBegin) && (s.gang gi).cores.any fun c => (s.ctl c).blocks.contains .stepBegin) = true := by
    simpa [State.atStepBegin_iff] using And.intro hall hsome
  have hgang : ((s.gang gi).coaches.foldl (fun s c => s.openStep c) s1).gang gi = { s.gang gi with open_ := true, stepPh := phs } := by
    rw [foldl_frame (fun t : State => t.gang gi) (fun t c _ => by simp [State.gang])]
    exact State.gang_setGang_self ..
  refine ⟨(s.gang gi).coaches.foldl (fun s c => s.openStep c) s1, ?_, ?_, ?_, ?_, fun c hc => ?_, fun c hc => ⟨?_, ?_⟩⟩
  · rw [exec, execStepBeginRelease, if_neg (by simp [State.coachesRun_iff.2 hrun]), if_pos hopen, if_pos hgo]
  · rw [hgang]
  · exact foldl_frame (·.cores) (fun t c _ => t.openStep_cores c) s1
  · exact (State.foldl_same State.openStep_same _ s1).sameBytes
  · exact foldl_frame (·.coach c) (fun t j hj => t.openStep_other fun e => hc (e ▸ hj)) s1
  · exact foldl_repeats (get := (·.coach c)) hc (fun t j hj => t.openStep_other hj) (fun t => t.openStep_opens c)
      (fun _ _ _ => Coach.OpensStep.trans) s1
  · rw [hgang]
    exact lookupD_map_mem 99 (fun c => (s.coach c).ph.pht) hc

/-! ## The cores go on after their step.begin -/

/-- The copies of a coach are done (R371). -/
def Coach.endCopies (k : Coach) : Coach := { k with ph := { k.ph with stepping := false } }

/-- The copies of a list of coaches are done (R371). -/
def State.endCopies (s : State) (c : Nat) : State := s.setCoach c (s.coach c).endCopies

/-- A core that waits in its step.begin goes on, inside the step; any other is as it was (R371). -/
def Core.LeavesStepBegin (x y : Core) : Prop :=
  (.stepBegin ∉ x.ctl.blocks → y = x) ∧
  (.stepBegin ∈ x.ctl.blocks → y = { x with ctl := { x.ctl with
    blocks := x.ctl.blocks.filter fun b => b != .stepBegin, hblocks := x.ctl.hblocks.filter fun b => b != .stepBegin, inStep := true } })

theorem Core.LeavesStepBegin.trans {x y z : Core} (h : x.LeavesStepBegin y) (k : y.LeavesStepBegin z) : x.LeavesStepBegin z := by
  by_cases hx : .stepBegin ∈ x.ctl.blocks
  · have hy := h.2 hx
    have hgone : .stepBegin ∉ y.ctl.blocks := by rw [hy]; simp
    rw [k.1 hgone]; exact h
  · rw [h.1 hx] at k; exact k

theorem State.leaveStepBegin_leaves (s : State) (c : Nat) : (s.core c).LeavesStepBegin ((s.leaveStepBegin c).core c) := by
  refine ⟨fun h => ?_, fun h => ?_⟩
  · have hc : (s.ctl c).blocks.contains .stepBegin = false := by simpa [State.ctl] using h
    simp only [State.leaveStepBegin, hc, Bool.false_eq_true, if_false]
  · have hc : (s.ctl c).blocks.contains .stepBegin = true := by simpa [State.ctl] using h
    simp only [State.leaveStepBegin, hc, if_true, State.core_setCtl_self]
    rfl

theorem State.leaveStepBegin_other (s : State) {c i : Nat} (h : c ≠ i) : (s.leaveStepBegin c).core i = s.core i := by
  simp only [State.leaveStepBegin]
  split
  · exact s.core_setCtl_other c i _ h.symm
  · rfl

@[simp] theorem State.leaveStepBegin_coaches (s : State) (c : Nat) : (s.leaveStepBegin c).coaches = s.coaches := by
  simp only [State.leaveStepBegin]; split <;> rfl

theorem stepBeginRelease_goesOn (hrun : ∀ c ∈ (s.gang gi).coaches, (s.coach c).stand = .running) (hopen : (s.gang gi).open_ = true)
    (hdone : ∀ c ∈ (s.gang gi).coaches, (s.coach c).ph.stepping = true ∧ (s.coach c).ph.stepWork = [] ∧ (s.coach c).ph.prep = false) :
    Answers (.stepBeginRelease gi) s fun t => SameBytes s t ∧ (∀ c, c ∉ (s.gang gi).cores → t.core c = s.core c) ∧
      (∀ c ∈ (s.gang gi).coaches, t.coach c = (s.coach c).endCopies) ∧
      ∀ c ∈ (s.gang gi).cores, (s.core c).LeavesStepBegin (t.core c) := by
  let s1 := (s.gang gi).coaches.foldl State.endCopies s
  have hgo : ((s.gang gi).coaches.all fun c =>
      (s.coach c).ph.stepping && (s.coach c).ph.stepWork.isEmpty && !(s.coach c).ph.prep) = true := by
    simpa [and_assoc] using hdone
  have hcores : s1.cores = s.cores := foldl_frame (f := State.endCopies) (·.cores) (fun t c _ => rfl) s
  have hcore : ∀ c, s1.core c = s.core c := fun c => by rw [State.core, hcores]; rfl
  refine ⟨(s.gang gi).cores.foldl (fun s c => s.leaveStepBegin c) s1, ?_, ?_, fun c hc => ?_, fun c hc => ?_, fun c hc => ?_⟩
  · rw [exec, execStepBeginRelease, if_neg (by simp [State.coachesRun_iff.2 hrun]), if_neg (by simp [hopen]), if_pos hgo]
    rfl
  · exact ((State.foldl_same (fun t c => t.setCoach_same c _) _ s).trans
      (State.foldl_same State.leaveStepBegin_same _ s1)).sameBytes
  · rw [← hcore c]
    exact foldl_frame (·.core c) (fun t j hj => t.leaveStepBegin_other fun e => hc (e ▸ hj)) s1
  · have hcoach : ((s.gang gi).cores.foldl (fun s c => s.leaveStepBegin c) s1).coach c = s1.coach c :=
      foldl_frame (·.coach c) (fun t j _ => by simp [State.coach]) s1
    rw [hcoach]
    exact foldl_repeats (f := State.endCopies) (get := (·.coach c)) (R := fun x y => y = x.endCopies) hc
      (fun t j hj => t.coach_setCoach_other j c _ hj.symm)
      (fun t => t.coach_setCoach_self c _) (fun x y z h k => by rw [k, h]; rfl) s
  · rw [← hcore c]
    exact foldl_repeats (get := (·.core c)) hc (fun t j hj => t.leaveStepBegin_other hj) (fun t => t.leaveStepBegin_leaves c)
      (fun _ _ _ => Core.LeavesStepBegin.trans) s1

/-! ## The decision -/

theorem testBit_foldl_or {ι : Type} (g : ι → Nat) (i : Nat) (l : List ι) (a : Nat) :
    (l.foldl (fun f c => f ||| g c) a).testBit i = true ↔ a.testBit i = true ∨ ∃ c ∈ l, (g c).testBit i = true := by
  induction l generalizing a with
  | nil => simp
  | cons c l ih => simp [ih, or_assoc]

/-- NF and AB of a gang's coaches taken together (R372). -/
def State.decision (s : State) (g : Gang) : Nat := g.coaches.foldl (fun f c => f ||| s.stepFlags c) 0

/-- Whether a coach counts in a decision: some core of it has not exited (R372, R377). -/
def State.counts (s : State) (c : Nat) : Prop := ∃ x, coachOf x = c ∧ (s.ctl x).stand ≠ .exited

theorem State.testBit_stepFlags {s : State} {c i : Nat} :
    (s.stepFlags c).testBit i = true ↔ s.counts c ∧ i < 2 ∧ (s.coach c).stepf.getLsbD i = true := by
  have hcounts : ((coresOf c).all fun x => (s.ctl x).hasExited) = true ↔ ¬s.counts c := by
    simp [State.counts, mem_coresOf, Ctl.hasExited]
  rw [State.stepFlags]
  split
  next h => simp [hcounts.1 h]
  next h =>
    have hc : s.counts c := not_not.1 (mt hcounts.2 h)
    simp [hc, testBit_fld]

theorem State.testBit_decision {s : State} {g : Gang} {i : Nat} :
    (s.decision g).testBit i = true ↔ i < 2 ∧ ∃ c ∈ g.coaches, s.counts c ∧ (s.coach c).stepf.getLsbD i = true := by
  simp only [State.decision, testBit_foldl_or, State.testBit_stepFlags, Nat.zero_testBit, Bool.false_eq_true, false_or]
  exact ⟨fun ⟨c, hc, h1, h2, h3⟩ => ⟨h2, c, hc, h1, h3⟩, fun ⟨h2, c, hc, h1, h3⟩ => ⟨c, hc, h1, h2, h3⟩⟩

theorem State.decision_lt (s : State) (g : Gang) : s.decision g < 4 := by
  show s.decision g < 2 ^ 2
  refine Nat.lt_pow_two_of_testBit _ fun i hi => Bool.eq_false_iff.2 fun h => ?_
  exact Nat.lt_irrefl 2 (Nat.lt_of_le_of_lt hi (State.testBit_decision.1 h).1)

/-- A step is committed when no coach that counts has NF or AB (R372). -/
theorem State.decision_eq_zero {s : State} {g : Gang} :
    s.decision g = 0 ↔ (s.decision g).testBit 0 = false ∧ (s.decision g).testBit 1 = false := by
  have hlt := s.decision_lt g
  generalize s.decision g = f at hlt
  interval_cases f <;> decide

theorem getLsbD_closeStep_open (f : Word) (b : Bool) : (closeStep f b).getLsbD 2 = false := by
  have h1 (n : Nat) : (setFld (setFld f 2 1 0) 16 32 n).getLsbD 2 = false := by
    rw [getLsbD_setFld, if_neg (by decide), getLsbD_setFld, if_pos (by decide)]; rfl
  cases b
  · exact h1 _
  · simp only [closeStep, if_true]
    rw [getLsbD_setFld, if_neg (by decide), h1]

theorem getLsbD_closeStep_cv (f : Word) (b : Bool) : (closeStep f b).getLsbD 3 = (f.getLsbD 3 != b) := by
  cases b with
  | false =>
    simp only [closeStep, Bool.false_eq_true, if_false]
    rw [getLsbD_setFld, if_neg (by decide), getLsbD_setFld, if_neg (by decide), Bool.bne_false]
  | true =>
    have hcv : fld (setFld (setFld f 2 1 0) 16 32 (fld f 16 32 + 1)) 3 1 = b2n (f.getLsbD 3) := by
      rw [fld_setFld_other _ (by decide), fld_setFld_other _ (by decide)]
      refine Nat.eq_of_testBit_eq fun i => ?_
      rw [testBit_fld]
      rcases i with _ | i
      · cases f.getLsbD 3 <;> rfl
      · cases f.getLsbD 3 <;> simp [b2n, Nat.testBit_succ]
    simp only [closeStep, if_true, hcv]
    rw [getLsbD_setFld, if_pos (by decide)]
    cases f.getLsbD 3 <;> rfl

theorem closeStep_number (f : Word) (b : Bool) : (closeStep f b).toNat / 2 ^ 16 % 2 ^ 32 = (f.toNat / 2 ^ 16 + 1) % 2 ^ 32 := by
  have h : fld (closeStep f b) 16 32 = (fld f 16 32 + 1) % 2 ^ 32 := by
    cases b
    · simp only [closeStep, Bool.false_eq_true, if_false]
      rw [fld_setFld_self _ (by decide)]
    · simp only [closeStep, if_true]
      rw [fld_setFld_other _ (by decide), fld_setFld_self _ (by decide)]
  rw [fld_eq, fld_eq] at h
  omega

/-- A control side once the decision of its step.commit has come (R372). -/
def Ctl.leaveCommit (c : Ctl) (v : Word) : Ctl :=
  match c.commitWait with
  | some (id, r) => { (c.supply id v).unblock (fun b => b == .stepCommit id r) with inStep := false }
  | none => { c with inStep := false }

/-- Two control sides differ in state registers at most, and in what is kept for arrival words. -/
def Ctl.SameButWords (x y : Ctl) : Prop := y = { x with sr := y.sr, awFirst := y.awFirst }

theorem Ctl.SameButWords.trans {x y z : Ctl} (h : x.SameButWords y) (k : y.SameButWords z) : x.SameButWords z := by
  unfold Ctl.SameButWords at *
  rw [k, h]

theorem State.awDone_sameButWords (s : State) (core k val stat start : Nat) :
    (s.ctl core).SameButWords ((s.awDone core k val stat start).ctl core) := by
  unfold State.awDone
  rw [State.ctl_setCtl_self]
  rfl

theorem doneSigs_sameButWords (core : Nat) (l : List Sig) (s : State) : (s.ctl core).SameButWords ((doneSigs core l s).ctl core) := by
  induction l generalizing s with
  | nil => rfl
  | cons g rest ih => exact (s.awDone_sameButWords core g.aw 0 0 0).trans (ih _)

/-- The settling of signals completes arrival words, and leaves the rest of a control side (R118). -/
theorem State.settleSigs_sameButWords (s : State) (core : Nat) : (s.ctl core).SameButWords ((s.settleSigs core).ctl core) := by
  unfold State.settleSigs
  extract_lets x ready e s1
  have h1 : s1.ctl core = s.ctl core := State.ctl_setEng ..
  rw [← h1]
  exact doneSigs_sameButWords core ready s1

theorem State.leaveStepCommit_ctl (s : State) (c : Nat) (v : Word) :
    ((s.ctl c).leaveCommit v).SameButWords ((s.leaveStepCommit c v).ctl c) := by
  cases hx : (s.ctl c).commitWait with
  | none =>
    simp only [State.leaveStepCommit, Ctl.leaveCommit, hx, State.ctl_setCtl_self]
    rfl
  | some p =>
    have h := (s.setCtl c ((s.ctl c).leaveCommit v)).settleSigs_sameButWords c
    rw [State.ctl_setCtl_self] at h
    simpa only [State.leaveStepCommit, Ctl.leaveCommit, hx] using h

theorem State.leaveStepCommit_other (s : State) {c i : Nat} (v : Word) (h : c ≠ i) : (s.leaveStepCommit c v).core i = s.core i := by
  unfold State.leaveStepCommit
  extract_lets x
  split
  · rw [State.settleSigs_core_other _ h.symm, State.core_setCtl_other _ _ _ _ h.symm]
  · exact s.core_setCtl_other c i _ h.symm

theorem State.leaveStepCommit_cores (s : State) (c : Nat) (v : Word) :
    s.leaveStepCommit c v = { s with cores := (s.leaveStepCommit c v).cores } := by
  unfold State.leaveStepCommit
  extract_lets x
  split
  · rw [State.settleSigs_cores]; rfl
  · rfl

theorem Ctl.leaveCommit_inStep (c : Ctl) (v : Word) : (c.leaveCommit v).inStep = false := by
  unfold Ctl.leaveCommit; split <;> rfl

/-- The wait in step.commit has ended (R372). -/
theorem Ctl.leaveCommit_blocks {c : Ctl} {id : Nat} {r : RelSet} (h : c.commitWait = some (id, r)) (v : Word) :
    .stepCommit id r ∉ (c.leaveCommit v).blocks := by
  simp [Ctl.leaveCommit, h, Ctl.unblock]

/-- The register of a step.commit, where no other result is pending, takes the decision (R87, R372). -/
theorem Ctl.leaveCommit_result {c : Ctl} {id : Nat} {r : RelSet} {p : Pend} (h : c.commitWait = some (id, r)) (hp : c.pend = [p])
    (hw : p.wait = some id) (hl : p.left = 0) (hh : c.inHandler = false) (v : Word) :
    (c.leaveCommit v).regs.get (regKey p.sh p.reg) = v := by
  have hsupply : (c.supply id v).regs.get (regKey p.sh p.reg) = v := by
    unfold Ctl.supply Ctl.settle
    simp only [hp, List.map_cons, List.map_nil, hw, beq_self_eq_true, if_true]
    exact settleFrom_last { p with val := v, wait := none } [] _ []
      ((Ctl.landsNow_iff _ _).2 ⟨hl, rfl, Or.inr hh⟩)
  simp only [Ctl.leaveCommit, h]
  exact hsupply

/-- The coaches of a list close their step, by a commit or not (R372). -/
def State.closeStepAt (commit : Bool) (s : State) (c : Nat) : State :=
  s.setCoach c { s.coach c with stepf := closeStep (s.coach c).stepf commit }

/-- A gang once its step has been decided (R372). -/
def Gang.closeStep (g : Gang) (commit : Bool) : Gang :=
  { g with open_ := false, stepn := (g.stepn + 1) % 2 ^ 32, cv := g.cv != commit, restarts := [] }

theorem closeSteps_coach (commit : Bool) {c : Nat} {l : List Nat} (hl : l.Nodup) (hc : c ∈ l) (s : State) :
    ((l.foldl (State.closeStepAt commit) s).coach c).stepf = Machine.closeStep (s.coach c).stepf commit :=
  foldl_nodup (get := (·.coach c)) (I := fun _ => True) (R := fun x y => y.stepf = Machine.closeStep x.stepf commit) hl hc
    (fun _ _ _ _ => trivial) (fun t j _ _ hj => t.coach_setCoach_other j c _ hj.symm)
    (fun t _ => congrArg Coach.stepf (t.coach_setCoach_self c _)) trivial

theorem closeSteps_frame (commit : Bool) (l : List Nat) (s : State) :
    (l.foldl (State.closeStepAt commit) s).cores = s.cores ∧ (l.foldl (State.closeStepAt commit) s).gangs = s.gangs :=
  ⟨foldl_frame (f := State.closeStepAt commit) State.cores (fun _ _ _ => rfl) s,
     foldl_frame (f := State.closeStepAt commit) State.gangs (fun _ _ _ => rfl) s⟩

theorem leaveStepCommits_ctl (v : Word) {c : Nat} {l : List Nat} (hl : l.Nodup) (hc : c ∈ l) (s : State) :
    ((s.ctl c).leaveCommit v).SameButWords ((l.foldl (fun t c => t.leaveStepCommit c v) s).ctl c) :=
  foldl_nodup (get := (·.ctl c)) (I := fun _ => True) (R := fun x y => (x.leaveCommit v).SameButWords y) hl hc
    (fun _ _ _ _ => trivial) (fun t _ _ _ hj => congrArg Core.ctl (t.leaveStepCommit_other v hj)) (fun t _ => t.leaveStepCommit_ctl c v)
    trivial

theorem leaveStepCommits_frame (v : Word) (l : List Nat) (s : State) :
    (l.foldl (fun t c => t.leaveStepCommit c v) s).coaches = s.coaches ∧ (l.foldl (fun t c => t.leaveStepCommit c v) s).gangs = s.gangs :=
  ⟨foldl_frame State.coaches (fun t c _ => by rw [State.leaveStepCommit_cores]) s,
    foldl_frame State.gangs (fun t c _ => by rw [State.leaveStepCommit_cores]) s⟩

theorem stepCommitDecision_of (hrun : ∀ c ∈ (s.gang gi).coaches, (s.coach c).stand = .running) (hopen : (s.gang gi).open_ = true)
    (hall : ∀ c ∈ (s.gang gi).cores, (s.ctl c).stand = .exited ∨ ∃ id r, (s.ctl c).commitWait = some (id, r) ∧ s.relDone c r = true)
    (hsome : ∃ c ∈ (s.gang gi).cores, ∃ id r, (s.ctl c).commitWait = some (id, r)) :
    exec (.stepCommitDecision gi) s = .next ((s.gang gi).cores.foldl
      (fun t c => t.leaveStepCommit c (BitVec.ofNat 64 (s.decision (s.gang gi))))
      ((s.gang gi).coaches.foldl (State.closeStepAt (s.decision (s.gang gi) == 0))
        (s.setGang gi ((s.gang gi).closeStep (s.decision (s.gang gi) == 0))))) := by
  have hany : ((s.gang gi).cores.any fun c => (s.ctl c).commitWait.isSome) = true := by
    obtain ⟨c, hc, id, r, h⟩ := hsome
    exact List.any_eq_true.2 ⟨c, hc, by simp [h]⟩
  have hev : (s.gang gi).cores.all s.atStepCommit = true := List.all_eq_true.2 fun c hc => State.atStepCommit_iff.2 (hall c hc)
  rw [exec, execStepCommitDecision, if_pos (by simp [hopen, State.coachesRun_iff.2 hrun, hev, hany])]
  rfl

theorem stepCommitDecision_decides (hrun : ∀ c ∈ (s.gang gi).coaches, (s.coach c).stand = .running) (hopen : (s.gang gi).open_ = true)
    (hnd : (s.gang gi).coaches.Nodup)
    (hall : ∀ c ∈ (s.gang gi).cores, (s.ctl c).stand = .exited ∨ ∃ id r, (s.ctl c).commitWait = some (id, r) ∧ s.relDone c r = true)
    (hsome : ∃ c ∈ (s.gang gi).cores, ∃ id r, (s.ctl c).commitWait = some (id, r)) :
    Answers (.stepCommitDecision gi) s fun t =>
      let f := s.decision (s.gang gi)
      SameBytes s t ∧ t.gang gi = (s.gang gi).closeStep (f == 0) ∧
      (∀ c ∈ (s.gang gi).coaches, (t.coach c).stepf = closeStep (s.coach c).stepf (f == 0)) ∧
      ∀ c ∈ (s.gang gi).cores, ((s.ctl c).leaveCommit (BitVec.ofNat 64 f)).SameButWords (t.ctl c) := by
  refine ⟨_, stepCommitDecision_of hrun hopen hall hsome, ?_⟩
  generalize s.decision (s.gang gi) = f
  let s1 := s.setGang gi ((s.gang gi).closeStep (f == 0))
  let s2 := (s.gang gi).coaches.foldl (State.closeStepAt (f == 0)) s1
  obtain ⟨hcores, hgangs⟩ := closeSteps_frame (f == 0) (s.gang gi).coaches s1
  obtain ⟨hcoaches, hgangs'⟩ := leaveStepCommits_frame (BitVec.ofNat 64 f) (s.gang gi).cores s2
  refine ⟨?_, ?_, fun c hc => ?_, fun c hc => ?_⟩
  · exact (((s.setGang_same gi _).trans (State.foldl_same (fun t c => t.setCoach_same c _) _ s1)).trans
      (State.foldl_same (fun t c => t.leaveStepCommit_same c _) _ s2)).sameBytes
  · rw [State.gang, hgangs', hgangs]
    exact s.gang_setGang_self gi _
  · rw [State.coach, hcoaches]
    exact closeSteps_coach (f == 0) hnd hc s1
  · have hcore : s2.ctl c = s.ctl c := by rw [State.ctl, State.core, hcores]; rfl
    rw [← hcore]
    exact leaveStepCommits_ctl (BitVec.ofNat 64 f) (Gang.nodup_cores hnd) hc s2

end

end Sys2Proof.Machine
end

section
/-! PROOFS of the statements of the family 01_kernel_image, third part: the end of a gang (R22) and the re-issue of its step (R374). -/

namespace Sys2Proof.Machine

/-! ## Discarded contexts -/

theorem State.releaseWalk_dies (s : State) (core : Nat) (o : Op) : s.releaseWalk core o = { s with dies := (s.releaseWalk core o).dies } := by
  simp only [State.releaseWalk]
  split
  · split <;> rfl
  · rfl

/-- A fold whose steps change the dies alone changes the dies alone. -/
theorem foldl_dies {ι : Type} {f : State → ι → State} (h : ∀ s i, f s i = { s with dies := (f s i).dies }) (l : List ι) (s : State) :
    l.foldl f s = { s with dies := (l.foldl f s).dies } :=
  foldl_inv (I := fun t : State => t = { s with dies := t.dies }) (fun t i _ ht => by rw [h, ht]) rfl

/-- Cores that are all replaced by one core. -/
theorem setCores_core (x : Core) (i : Nat) (l : List Nat) (s : State) :
    (l.foldl (fun s c => s.setCore c x) s).core i = if i ∈ l then x else s.core i := by
  induction l generalizing s with
  | nil => simp
  | cons c l ih =>
    rw [List.foldl_cons, ih, State.core_setCore]
    by_cases h : i = c <;> simp [h]

/-- What the walks that are under way in a coach hold is released (R300). -/
def State.releaseWalks (s : State) (coach : Nat) : State :=
  (coresOf coach).foldl (fun s c => (s.eng c).ops.foldl (fun s o => s.releaseWalk c o) s) s

theorem State.releaseWalks_dies (s : State) (coach : Nat) : s.releaseWalks coach = { s with dies := (s.releaseWalks coach).dies } :=
  foldl_dies (fun t c => foldl_dies (fun u o => u.releaseWalk_dies c o) _ t) _ s

theorem State.freeCoach_eq (s : State) (c : Nat) :
    s.freeCoach c = (coresOf c).foldl (fun s i => s.setCore i Core.reset) ((s.releaseWalks c).setCoach c Coach.reset) := rfl

@[simp] theorem State.freeCoach_gangs (s : State) (c : Nat) : (s.freeCoach c).gangs = s.gangs := by
  have h : (s.releaseWalks c).gangs = s.gangs := by rw [State.releaseWalks_dies]
  rw [State.freeCoach_eq, foldl_frame (f := fun (s : State) i => s.setCore i Core.reset) State.gangs fun _ _ _ => rfl,
    State.setCoach_gangs, h]

theorem State.freeCoach_coach (s : State) (c i : Nat) : (s.freeCoach c).coach i = if i = c then Coach.reset else s.coach i := by
  have h : (s.releaseWalks c).coaches = s.coaches := by rw [State.releaseWalks_dies]
  rw [State.freeCoach_eq, foldl_frame (f := fun (s : State) i => s.setCore i Core.reset) (fun s : State => s.coach i) fun _ _ _ => rfl,
    State.coach_setCoach, State.coach, h]
  rfl

theorem State.freeCoach_core (s : State) (c i : Nat) : (s.freeCoach c).core i = if coachOf i = c then Core.reset else s.core i := by
  have h : (s.releaseWalks c).cores = s.cores := by rw [State.releaseWalks_dies]
  rw [State.freeCoach_eq, setCores_core, State.core_setCoach, State.core, h]
  simp only [mem_coresOf]
  rfl

/-- The contexts of a list of coaches are discarded: these coaches and their cores are as at reset, and any other is as it was. -/
theorem freeCoaches_parts (l : List Nat) (s : State) :
    (l.foldl (fun s c => s.freeCoach c) s).gangs = s.gangs ∧
    (∀ i, (l.foldl (fun s c => s.freeCoach c) s).coach i = if i ∈ l then Coach.reset else s.coach i) ∧
    ∀ i, (l.foldl (fun s c => s.freeCoach c) s).core i = if coachOf i ∈ l then Core.reset else s.core i := by
  induction l generalizing s with
  | nil => simp
  | cons c l ih =>
    obtain ⟨hg, hk, hc⟩ := ih (s.freeCoach c)
    rw [List.foldl_cons]
    refine ⟨hg.trans (s.freeCoach_gangs c), fun i => (hk i).trans ?_, fun i => (hc i).trans ?_⟩
    · rw [s.freeCoach_coach c i]
      by_cases h : i = c <;> simp [h]
    · rw [s.freeCoach_core c i]
      by_cases h : coachOf i = c <;> simp [h]

/-! ## The end of a gang -/

@[simp] theorem State.setRecord_gangs (s : State) (g code st : Nat) : (s.setRecord g code st).gangs = s.gangs := by
  unfold State.setRecord; split <;> rfl
@[simp] theorem State.setRecord_gang (s : State) (g code st i : Nat) : (s.setRecord g code st).gang i = s.gang i :=
  congrArg (lookupD _ · i) (s.setRecord_gangs g code st)

/-- Writing the record of a gang changes storage alone (R21). -/
theorem State.setRecord_eq (s : State) (g code st : Nat) : s.setRecord g code st = { s with mem := (s.setRecord g code st).mem } := by
  unfold State.setRecord; split <;> rfl

theorem State.setCounts_eq (s : State) (g : Nat) : s.setCounts g = { s with mem := (s.setCounts g).mem } := by
  unfold State.setCounts
  extract_lets x
  split <;> rfl

/-- A launch record once its gang has ended: the counts are written, then CODE and STATE (R21, R22). -/
def State.recordEnded (s : State) (gi code st : Nat) : State := (s.setCounts gi).setRecord gi code st

theorem State.recordEnded_eq (s : State) (gi code st : Nat) : s.recordEnded gi code st = { s with mem := (s.recordEnded gi code st).mem } := by
  rw [State.recordEnded, State.setRecord_eq, State.setCounts_eq]

theorem State.recordEnded_none {s : State} {gi : Nat} (h : (s.gang gi).recAt = none) (code st : Nat) :
    (s.recordEnded gi code st).mem = s.mem := by
  have hc : s.setCounts gi = s := by simp only [State.setCounts, h]
  rw [State.recordEnded, hc]
  simp only [State.setRecord, h]

theorem State.recordEnded_some {s : State} {gi a : Nat} (h : (s.gang gi).recAt = some a) (code st : Nat) :
    ∃ n, (s.recordEnded gi code st).mem = ((s.mem.setNum (.dev (gi / 64) (a + 104)) 8 ((s.gang gi).bused % 2 ^ 48)).setNum
      (.dev (gi / 64) (a + 112)) 8 n).setNum (.dev (gi / 64) (a + 96)) 8 (code * 256 + st) := by
  refine ⟨s.tclkUsed gi % 2 ^ 48, ?_⟩
  have hg : ((s.setCounts gi).gang gi).recAt = some a := by rw [State.setCounts_eq]; exact h
  simp only [State.recordEnded, State.setRecord, hg]
  simp only [State.setCounts, h]

/-- The coaches of a gang on which its contexts stand. -/
def State.standing (s : State) (gi : Nat) : List Nat := (s.gang gi).coaches.filter fun c => (s.coach c).gang == some gi

theorem State.mem_standing {s : State} {gi c : Nat} : c ∈ s.standing gi ↔ c ∈ (s.gang gi).coaches ∧ (s.coach c).gang = some gi := by
  simp [State.standing]

theorem State.endGang_eq (s : State) (gi code st : Nat) (stand : GStand) :
    s.endGang gi code st stand = (((s.standing gi).foldl (fun s c => s.freeCoach c) (s.recordEnded gi code st)).clearStreams
      (s.standing gi)).setGang gi { s.gang gi with stand := stand, saved := [] } := rfl

/-- What the end of a gang makes of gangs, storage, coaches and cores (R22). -/
theorem State.endGang_parts (s : State) (gi code st : Nat) (stand : GStand) :
    let t := s.endGang gi code st stand
    t.gangs = putKey s.gangs gi { s.gang gi with stand := stand, saved := [] } ∧ t.mem = (s.recordEnded gi code st).mem ∧
    (∀ i, t.coach i = if i ∈ s.standing gi then Coach.reset else s.coach i) ∧
    ∀ i, t.core i = if coachOf i ∈ s.standing gi then Core.reset else s.core i := by
  obtain ⟨hg, hk, hc⟩ := freeCoaches_parts (s.standing gi) (s.recordEnded gi code st)
  have hm := (State.foldl_same State.freeCoach_same (s.standing gi) (s.recordEnded gi code st)).2
  rw [State.endGang_eq]
  rw [s.recordEnded_eq gi code st] at hg hk hc
  refine ⟨congrArg (putKey · gi _) (Eq.trans ?_ hg), hm, fun i => Eq.trans ?_ (hk i), fun i => Eq.trans ?_ (hc i)⟩ <;>
    rw [← s.recordEnded_eq gi code st] <;> rfl

/-- Ending a gang does what R21 and R22 say of it. -/
theorem State.endGang_ends (s : State) (gi : Nat) {code st : Nat} (h : code * 256 + st < 2 ^ 64) (stand : GStand) :
    GangEnds s (s.endGang gi code st stand) gi code st stand := by
  obtain ⟨hg, hm, hk, hc⟩ := s.endGang_parts gi code st stand
  generalize s.endGang gi code st stand = t at hg hm hk hc
  have hgang : ∀ i, t.gang i = if i = gi then { s.gang gi with stand := stand, saved := [] } else s.gang i := fun i => by
    rw [State.gang, hg]; exact lookupD_putKey ..
  refine ⟨by simp [hgang], fun c hin hown => ⟨?_, fun i hi => ?_⟩, fun i hi => ?_, fun i hi => by simp [hgang, hi], fun hr k => ?_,
    fun a ha => ?_⟩
  · rw [hk, if_pos (State.mem_standing.2 ⟨hin, hown⟩)]
  · rw [hc, if_pos (State.mem_standing.2 (hi ▸ ⟨hin, hown⟩))]
  · rw [hc, if_neg fun h => hi (State.mem_standing.1 h).1]
  · rw [hm, State.recordEnded_none hr]
  · obtain ⟨n, hn⟩ := s.recordEnded_some ha code st
    have h8 : 256 ^ 8 = 2 ^ 64 := rfl
    have hb : (s.gang gi).bused % 2 ^ 48 < 256 ^ 8 := Nat.lt_of_lt_of_le (Nat.mod_lt _ (by decide)) (by decide)
    rw [hm, hn]
    simp only [Loc.dev_key]
    refine ⟨?_, ?_, fun k hkey => ?_⟩
    · rw [Mem.num_setNum_self, h8, Nat.mod_eq_of_lt h]
    · rw [Mem.num_setNum_other _ _ _ _ _ _ (by simp only [Loc.dev_key]; omega),
        Mem.num_setNum_other _ _ _ _ _ _ (by simp only [Loc.dev_key]; omega), Mem.num_setNum_self, Nat.mod_eq_of_lt hb]
    · rw [Mem.byte_setNum_other _ _ _ _ _ (by simp only [Loc.dev_key]; omega),
        Mem.byte_setNum_other _ _ _ _ _ (by simp only [Loc.dev_key]; omega),
        Mem.byte_setNum_other _ _ _ _ _ (by simp only [Loc.dev_key]; omega)]

theorem Gang.code_lt (g : Gang) : g.code < 256 := by
  unfold Gang.code
  split
  · exact fld_lt _ _ _
  · decide

/-- A gang that ends FAULTED ends with the code of its first fault (R21). -/
theorem State.endFaulted_ends (s : State) (gi : Nat) : GangEnds s (s.endFaulted gi) gi (s.gang gi).code 4 .faulted :=
  s.endGang_ends gi (by have := (s.gang gi).code_lt; omega) .faulted

/-- The first fault of a gang has no part in how it ends but for the code. -/
theorem GangEnds.of_setFault {s t : State} {gi code st : Nat} {stand : GStand} {w : Option Word}
    (h : GangEnds (s.setGang gi { s.gang gi with fault := w }) t gi code st stand) : GangEnds s t gi code st stand := by
  unfold GangEnds at h ⊢
  rw [State.gang_setGang_self] at h
  obtain ⟨hstand, hcoaches, hcores, hgangs, hnone, hrec⟩ := h
  exact ⟨hstand, hcoaches, hcores, fun i hi => (hgangs i hi).trans (s.gang_setGang_other gi i _ hi), hnone, hrec⟩

/-! ## The end of a gang whose step was spoiled -/

/-- The save areas of a list of coaches say that the contexts are lost: reason 2 (R366). -/
def saveAreasLost (l : List Nat) (m : Mem) : Mem := l.foldl (fun m c => m.write (saveLoc c 4).key [2]) m

theorem saveAreasLost_byte (l : List Nat) (m : Mem) (k : Nat) :
    (saveAreasLost l m).byte k = if ∃ c ∈ l, k = (saveLoc c 4).key then 2 else m.byte k := by
  induction l generalizing m with
  | nil => simp [saveAreasLost]
  | cons c l ih =>
    have hone : (m.write (saveLoc c 4).key [2]).byte k = if k = (saveLoc c 4).key then 2 else m.byte k :=
      m.byte_setByte (saveLoc c 4).key k 2
    rw [saveAreasLost, List.foldl_cons, ← saveAreasLost, ih, hone]
    by_cases h : k = (saveLoc c 4).key <;> simp [h]

section
variable {gi : Nat} {s : State}

theorem stepReissue_of (hst : (s.gang gi).stand = .stopping) (hsp : s.spoiled (s.gang gi) = true)
    (hall : ((s.gang gi).surviving.all fun c => (s.coach c).stand == .saved) = true) :
    exec (.stepReissue gi) s = .next (if s.recordState gi = 1 then s.setRecord gi 0 2
      else if (s.gang gi).open_ = false ∨ s.overdue (s.gang gi) = true then s.endSpoiled gi
      else match s.sparePlan gi with
        | some plan => s.reissue gi plan
        | none => (s.setGang gi { s.gang gi with fault := some (mkFld 0 8 0x91) }).endSpoiled gi) := by
  have hgo : (s.gang gi).stand = .stopping ∧ s.spoiled (s.gang gi) = true ∧
      ((s.gang gi).surviving.all fun c => (s.coach c).stand == .saved) = true := ⟨hst, hsp, hall⟩
  rw [exec, execStepReissue]
  simp only [hgo, and_self, if_true]
  split
  · rfl
  · split
    · rfl
    · cases s.sparePlan gi <;> rfl

theorem stepReissue_running {a : Nat} (hst : (s.gang gi).stand = .stopping) (hsp : s.spoiled (s.gang gi) = true)
    (hall : ((s.gang gi).surviving.all fun c => (s.coach c).stand == .saved) = true) (hrec : s.recordState gi = 1)
    (ha : (s.gang gi).recAt = some a) :
    exec (.stepReissue gi) s = .next { s with mem := s.mem.setNum (.dev (gi / 64) (a + 96)) 8 2 } := by
  rw [stepReissue_of hst hsp hall, if_pos hrec]
  simp only [State.setRecord, ha]

/-- How a gang ends whose step is not issued again: its save areas say so, and its record has the code (R360, R374). -/
def EndsSpoiled (s : State) (gi code : Nat) (t : State) : Prop :=
  ∃ x : State, x = { s with mem := x.mem } ∧ (∀ c ∈ (s.gang gi).surviving, x.mem.byte (saveLoc c 4).key = 2) ∧
    (∀ k, (∀ c ∈ (s.gang gi).surviving, k ≠ (saveLoc c 4).key) → x.mem.byte k = s.mem.byte k) ∧ GangEnds x t gi code 4 .faulted

theorem EndsSpoiled.of_ends {code : Nat} {t : State}
    (h : GangEnds { s with mem := saveAreasLost (s.gang gi).surviving s.mem } t gi code 4 .faulted) : EndsSpoiled s gi code t := by
  refine ⟨{ s with mem := saveAreasLost (s.gang gi).surviving s.mem }, rfl, fun c hc => ?_, fun k hk => ?_, h⟩
  · rw [saveAreasLost_byte, if_pos ⟨c, hc, rfl⟩]
  · rw [saveAreasLost_byte, if_neg (by simpa using hk)]

theorem State.endSpoiled_ends (s : State) (gi : Nat) : EndsSpoiled s gi (s.gang gi).code (s.endSpoiled gi) :=
  .of_ends (({ s with mem := saveAreasLost (s.gang gi).surviving s.mem } : State).endFaulted_ends gi)

/-- A loss that cannot be replaced ends the gang with 0x91 (R374). -/
theorem State.endSpoiled_lost (s : State) (gi : Nat) :
    EndsSpoiled s gi 0x91 ((s.setGang gi { s.gang gi with fault := some (mkFld 0 8 0x91) }).endSpoiled gi) := by
  let s1 := s.setGang gi { s.gang gi with fault := some (mkFld 0 8 0x91) }
  let x : State := { s with mem := saveAreasLost (s.gang gi).surviving s.mem }
  have hg : s1.gang gi = { s.gang gi with fault := some (mkFld 0 8 0x91) } := s.gang_setGang_self gi _
  have hcode : (s1.gang gi).code = 0x91 := by rw [hg]; rfl
  have hsurv : (s1.gang gi).surviving = (s.gang gi).surviving := by rw [hg]; rfl
  have hx : ({ s1 with mem := saveAreasLost (s1.gang gi).surviving s1.mem } : State) =
      x.setGang gi { x.gang gi with fault := some (mkFld 0 8 0x91) } := by rw [hsurv]; rfl
  have hends := ({ s1 with mem := saveAreasLost (s1.gang gi).surviving s1.mem } : State).endFaulted_ends gi
  have hcode' : (({ s1 with mem := saveAreasLost (s1.gang gi).surviving s1.mem } : State).gang gi).code = 0x91 := hcode
  rw [hcode', hx] at hends
  refine EndsSpoiled.of_ends (GangEnds.of_setFault (w := some (mkFld 0 8 0x91)) ?_)
  have ht : s1.endSpoiled gi = (x.setGang gi { x.gang gi with fault := some (mkFld 0 8 0x91) }).endFaulted gi := congrArg (State.endFaulted · gi) hx
  rw [ht]
  exact hends

end

/-! ## The re-issue of a step -/

/-- Noting writes into pages changes the dies alone (R189). -/
theorem State.notePages_dies (l : List Nat) (s : State) : s.notePages l = { s with dies := (s.notePages l).dies } := by
  induction l generalizing s with
  | nil => rfl
  | cons g l ih =>
    unfold State.notePages
    extract_lets coach slot d
    split
    · rw [ih]; rfl
    · exact ih s

/-- Only storage, its slots and the marks of the dies differ. -/
def OnlyStorage (s t : State) : Prop := t = { s with mem := t.mem, slots := t.slots, dies := t.dies }

theorem OnlyStorage.refl (s : State) : OnlyStorage s s := rfl

theorem OnlyStorage.trans {s t u : State} (h : OnlyStorage s t) (k : OnlyStorage t u) : OnlyStorage s u := by
  unfold OnlyStorage at *
  rw [k, h]

theorem foldl_onlyStorage {ι : Type} {f : State → ι → State} (h : ∀ s i, OnlyStorage s (f s i)) (l : List ι) (s : State) :
    OnlyStorage s (l.foldl f s) :=
  foldl_inv (I := OnlyStorage s) (fun t i _ ht => ht.trans (h t i)) (.refl s)

theorem State.takeSlot_onlyStorage (s : State) (dyn : Bool) (l : Loc) (n : Nat) : OnlyStorage s (s.takeSlot dyn l n) := by
  rw [State.takeSlot_eq]; rfl

theorem State.notePages_onlyStorage (s : State) (l : List Nat) : OnlyStorage s (s.notePages l) := by
  rw [State.notePages_dies]; rfl

theorem State.onlyStorage_mem (s : State) (m : Mem) : OnlyStorage s { s with mem := m } := rfl

/-- A granule write changes storage, its slots and the marks of pages (R129, R146). -/
theorem State.doWrite_onlyStorage (s : State) (m : Mem) (coach : Nat) (w : ShiftWrite) : OnlyStorage s (s.doWrite m coach w) := by
  simp only [State.doWrite]
  cases w.src with
  | none =>
    exact ((s.onlyStorage_mem _).trans (State.takeSlot_onlyStorage ..)).trans (State.notePages_onlyStorage ..)
  | some l =>
    exact (((s.onlyStorage_mem _).trans (State.takeSlot_onlyStorage ..)).trans (State.notePages_onlyStorage ..)).trans
      (State.takeSlot_onlyStorage ..)

/-! ### The cores -/

/-- Where a core goes on when its step is issued again: at its recorded line, inside the step (R371, R374). -/
def Ctl.RestartsAt (c : Ctl) (line : Nat) : Prop := c.pc = line ∧ c.inStep = true

theorem Core.restarted_restartsAt (x : Core) (g : Gang) (dict : Bits 35) (line map : Nat) :
    (x.restarted g dict line map).ctl.RestartsAt line := ⟨rfl, rfl⟩

/-- One core of a coach is reset for a re-issue (R374). -/
def State.restartCore (gi coach map : Nat) (g : Gang) (dict : Bits 35) (s : State) (c : Nat) : State :=
  match lookup? g.restarts ((s.coach coach).lco * 16 + coreIx c) with
  | some l => (s.setCore c ((s.core c).restarted g dict l map)).loadControl (gi / 64) g.image c
  | none =>
    let eng : Eng := { (s.core c).eng.discard with run := [], sigs := [], ops := [], shr := [] }
    s.setCore c { s.core c with eng := eng, ctl := { (s.core c).ctl with acc := [], own := false } }

theorem State.restartCores_eq (s : State) (gi coach map : Nat) :
    s.restartCores gi coach map = (coresOf coach).foldl
      (State.restartCore gi coach map (s.gang gi) (parseDict (s.sectionBytes (gi / 64) (s.gang gi).image 2))) s := rfl

theorem State.restartCore_frame (gi coach map : Nat) (g : Gang) (dict : Bits 35) (s : State) (c : Nat) :
    (s.restartCore gi coach map g dict c).coaches = s.coaches ∧ (s.restartCore gi coach map g dict c).gangs = s.gangs ∧
    ∀ i, i ≠ c → (s.restartCore gi coach map g dict c).core i = s.core i := by
  unfold State.restartCore
  split <;> exact ⟨rfl, rfl, fun i hi => s.core_setCore_other c i _ hi⟩

theorem State.restartCore_restarts {gi coach : Nat} {g : Gang} {s : State} {c l : Nat}
    (h : lookup? g.restarts ((s.coach coach).lco * 16 + coreIx c) = some l) (map : Nat) (dict : Bits 35) :
    ((s.restartCore gi coach map g dict c).ctl c).RestartsAt l := by
  simp only [State.restartCore, h]
  show ((s.setCore c ((s.core c).restarted g dict l map)).core c).ctl.RestartsAt l
  rw [State.core_setCore_self]
  exact Core.restarted_restartsAt ..

/-- The re-issue resets the cores of one coach: gangs and coaches are as they were, and so is every core elsewhere. -/
theorem State.restartCores_frame (s : State) (gi coach map : Nat) :
    (s.restartCores gi coach map).coaches = s.coaches ∧ (s.restartCores gi coach map).gangs = s.gangs ∧
    ∀ i, coachOf i ≠ coach → (s.restartCores gi coach map).core i = s.core i := by
  rw [State.restartCores_eq]
  exact ⟨foldl_frame State.coaches (fun t c _ => (t.restartCore_frame ..).1) s,
    foldl_frame State.gangs (fun t c _ => (t.restartCore_frame ..).2.1) s,
    fun i hi => foldl_frame (·.core i) (fun t c hc => (t.restartCore_frame ..).2.2 i fun e => hi (e ▸ mem_coresOf.1 hc)) s⟩

/-- A core with a recorded line restarts there when its coach is reset (R371, R374). -/
theorem State.restartCores_restarts {s : State} {gi c l : Nat}
    (h : lookup? (s.gang gi).restarts ((s.coach (coachOf c)).lco * 16 + coreIx c) = some l) (map : Nat) :
    ((s.restartCores gi (coachOf c) map).ctl c).RestartsAt l := by
  have hkey (t : State) (ht : t.coaches = s.coaches) :
      lookup? (s.gang gi).restarts ((t.coach (coachOf c)).lco * 16 + coreIx c) = some l := by
    rw [State.coach_congr ht]; exact h
  rw [State.restartCores_eq]
  generalize parseDict _ = dict
  have hall := foldl_reaches (f := State.restartCore gi (coachOf c) map (s.gang gi) dict) (I := fun t => t.coaches = s.coaches)
    (Q := fun t => t.coaches = s.coaches ∧ (t.ctl c).RestartsAt l) (s := s) (mem_coresOf.2 rfl)
    (fun t j _ ht => (t.restartCore_frame ..).1.trans ht)
    (fun t ht => ⟨(t.restartCore_frame ..).1.trans ht, State.restartCore_restarts (hkey t ht) map dict⟩)
    (fun t j _ ht => ⟨(t.restartCore_frame ..).1.trans ht.1, ?_⟩) rfl
  · exact hall.2
  · by_cases hj : j = c
    · subst hj; exact State.restartCore_restarts (hkey t ht.1) map dict
    · rw [State.ctl, (t.restartCore_frame ..).2.2 c (Ne.symm hj)]; exact ht.2

/-- A core with a recorded line restarts there when the coaches of its gang are reset. -/
theorem restartAll_restarts {s : State} {gi c l : Nat} {maps : Nat → Nat} {coaches : List Nat} (hc : coachOf c ∈ coaches)
    (h : lookup? (s.gang gi).restarts ((s.coach (coachOf c)).lco * 16 + coreIx c) = some l) :
    ((coaches.foldl (fun t k => t.restartCores gi k (maps k)) s).ctl c).RestartsAt l := by
  have hkey (t : State) (ht : t.coaches = s.coaches ∧ t.gangs = s.gangs) :
      lookup? (t.gang gi).restarts ((t.coach (coachOf c)).lco * 16 + coreIx c) = some l := by
    rw [State.coach_congr ht.1, State.gang_congr ht.2]; exact h
  have hframe (t : State) (k : Nat) (ht : t.coaches = s.coaches ∧ t.gangs = s.gangs) :
      (t.restartCores gi k (maps k)).coaches = s.coaches ∧ (t.restartCores gi k (maps k)).gangs = s.gangs := by
    obtain ⟨hk, hg, -⟩ := t.restartCores_frame gi k (maps k)
    exact ⟨hk.trans ht.1, hg.trans ht.2⟩
  refine (foldl_reaches (I := fun t : State => t.coaches = s.coaches ∧ t.gangs = s.gangs)
    (Q := fun t : State => (t.coaches = s.coaches ∧ t.gangs = s.gangs) ∧ (t.ctl c).RestartsAt l) hc (fun t k _ ht => hframe t k ht)
    (fun t ht => ⟨hframe t _ ht, State.restartCores_restarts (hkey t ht) _⟩) (fun t k _ ht => ⟨hframe t k ht.1, ?_⟩) ⟨rfl, rfl⟩).2
  by_cases hk : coachOf c = k
  · subst hk; exact State.restartCores_restarts (hkey t ht.1) _
  · rw [State.ctl, (t.restartCores_frame gi k (maps k)).2.2 c hk]; exact ht.2

theorem restartAll_frame (gi : Nat) (maps : Nat → Nat) (coaches : List Nat) (s : State) :
    (coaches.foldl (fun t k => t.restartCores gi k (maps k)) s).gangs = s.gangs :=
  foldl_frame State.gangs (fun t _ _ => (t.restartCores_frame ..).2.1) s

/-! ### The coaches -/

theorem OnlyStorage.parts {s t : State} (h : OnlyStorage s t) : t.cores = s.cores ∧ t.coaches = s.coaches ∧ t.gangs = s.gangs := by
  rw [h]; exact ⟨rfl, rfl, rfl⟩

theorem State.resetCoach_frame (s : State) (gi coach : Nat) :
    (s.resetCoach gi coach).cores = s.cores ∧ (s.resetCoach gi coach).gangs = s.gangs := by
  unfold State.resetCoach
  extract_lets g k map now f shifted x y z k1 s1
  have h1 : OnlyStorage s shifted := by
    unfold shifted
    split
    · exact .refl s
    · exact foldl_onlyStorage (fun t w => t.doWrite_onlyStorage _ coach w) _ s
  have h2 := (foldl_onlyStorage (fun t w => t.doWrite_onlyStorage t.mem coach w) (s1.stepCopies coach) s1).parts
  exact ⟨h2.1.trans h1.parts.1, h2.2.2.trans h1.parts.2.2⟩

theorem resetAll_frame (gi : Nat) (coaches : List Nat) (s : State) :
    (coaches.foldl (fun t k => t.resetCoach gi k) s).cores = s.cores ∧ (coaches.foldl (fun t k => t.resetCoach gi k) s).gangs = s.gangs :=
  ⟨foldl_frame State.cores (fun t k _ => (t.resetCoach_frame gi k).1) s, foldl_frame State.gangs (fun t k _ => (t.resetCoach_frame gi k).2) s⟩

/-! ### The start ticks -/

/-- A start tick is on its way to a coach (R35). -/
def State.sendTick (t : Nat) (resume : Bool) (s : State) (c : Nat) : State :=
  let st : CStand := .ready t (s.cyc + 1 + (s.delay 0xFFFFFFFF).1) resume
  (s.delay 0xFFFFFFFF).2.setCoach c { (s.delay 0xFFFFFFFF).2.coach c with stand := st }

/-- A coach waits for a start tick; all else of it is as it was. -/
def Coach.AwaitsTick (t : Nat) (resume : Bool) (x y : Coach) : Prop := ∃ rx, y = { x with stand := .ready t rx resume }

theorem Coach.AwaitsTick.trans {t : Nat} {resume : Bool} {x y z : Coach} (h : x.AwaitsTick t resume y) (k : y.AwaitsTick t resume z) :
    x.AwaitsTick t resume z := by
  obtain ⟨_, rfl⟩ := h
  obtain ⟨rx, rfl⟩ := k
  exact ⟨rx, rfl⟩

theorem State.sendTicks_gangs (s : State) (gi t : Nat) (resume : Bool) :
    (s.sendTicks gi t resume).gangs = putKey s.gangs gi { s.gang gi with stand := .starting, tick := t } :=
  foldl_frame (f := State.sendTick t resume) State.gangs (fun u _ _ => u.delay_gangs _) _

theorem State.sendTicks_gang (s : State) (gi t : Nat) (resume : Bool) :
    (s.sendTicks gi t resume).gang gi = { s.gang gi with stand := .starting, tick := t } := by
  rw [State.gang, State.sendTicks_gangs]
  exact lookupD_putKey_self ..

theorem State.sendTicks_cores (s : State) (gi t : Nat) (resume : Bool) : (s.sendTicks gi t resume).cores = s.cores :=
  foldl_frame (f := State.sendTick t resume) State.cores (fun u _ _ => u.delay_cores _) _

theorem State.sendTicks_coach {s : State} {gi c : Nat} (hc : c ∈ (s.gang gi).coaches) (t : Nat) (resume : Bool) :
    (s.coach c).AwaitsTick t resume ((s.sendTicks gi t resume).coach c) :=
  foldl_repeats (f := State.sendTick t resume) (get := (·.coach c)) (R := Coach.AwaitsTick t resume) hc
    (fun u j hj => (State.coach_setCoach_other _ j c _ hj.symm).trans (u.delay_coach _ c))
    (fun u => ⟨_, (State.coach_setCoach_self _ c _).trans (by rw [u.delay_coach])⟩) (fun _ _ _ => Coach.AwaitsTick.trans) _

/-! ### The whole of a re-issue without a lost die -/

theorem State.reissue_restarts (s : State) (gi : Nat) :
    let t := s.reissue gi []
    ((t.gang gi).stand = .starting ∧ (t.gang gi).tick = startTick s.cyc ∧ (t.gang gi).lost = [] ∧ (t.gang gi).fault = none) ∧
    (∀ c ∈ (s.gang gi).coaches, ∃ rx, (t.coach c).stand = .ready (startTick s.cyc) rx false) ∧
    ∀ c ∈ (s.gang gi).cores, ∀ l, lookup? (s.gang gi).restarts ((s.coach (coachOf c)).lco * 16 + c % 16) = some l →
      (t.ctl c).RestartsAt l := by
  let g := s.gang gi
  let maps := g.coaches.map fun c => (c, lookupD (lookupD 0 g.stepPh (g.surviving.headD 0)) g.stepPh c)
  let s2 := (s.clearStreams g.coaches).setGang gi { g with lost := [], lostTclk := 0, fault := none, stepPh := maps }
  let s3 := g.coaches.foldl (fun t k => t.restartCores gi k (lookupD 0 maps k)) s2
  let s4 := g.coaches.foldl (fun t k => t.resetCoach gi k) s3
  have ht : s.reissue gi [] = s4.sendTicks gi (startTick s.cyc) false := rfl
  have hg : s4.gang gi = { g with lost := [], lostTclk := 0, fault := none, stepPh := maps } := by
    rw [State.gang, (resetAll_frame gi g.coaches s3).2, restartAll_frame gi (lookupD 0 maps) g.coaches s2]
    exact State.gang_setGang_self ..
  rw [ht]
  refine ⟨?_, fun c hc => ?_, fun c hc l hl => ?_⟩
  · rw [State.sendTicks_gang, hg]
    exact ⟨rfl, rfl, rfl, rfl⟩
  · obtain ⟨rx, h⟩ := State.sendTicks_coach (s := s4) (gi := gi) (c := c) (by rw [hg]; exact hc) (startTick s.cyc) false
    exact ⟨rx, congrArg Coach.stand h⟩
  · rw [State.ctl, State.core, State.sendTicks_cores, (resetAll_frame gi g.coaches s3).1]
    have hl2 : lookup? (s2.gang gi).restarts ((s2.coach (coachOf c)).lco * 16 + coreIx c) = some l := by
      rw [show s2.gang gi = _ from State.gang_setGang_self ..]; exact hl
    exact restartAll_restarts (maps := lookupD 0 maps) (Gang.mem_cores.1 hc) hl2

/-! ## The statement -/

/-- Settles O46, event by event: what each of the three does stands in the lemmas above. -/
theorem stepTransactionEvents : Obligations.StepTransactionEvents := by
  unfold Obligations.StepTransactionEvents
  intro gi s g runs endsAs
  refine ⟨fun h => ⟨⟨s, stepBeginRelease_stopped h, rfl⟩, ⟨s, stepCommitDecision_stopped h, rfl⟩⟩, fun hrun hopen hall hsome => ?_,
    fun hrun hopen hdone => stepBeginRelease_goesOn hrun hopen hdone, fun hrun hopen hnd hall hsome => ?_, fun hst hsp hall => ?_⟩
  · obtain ⟨t, ht, hgang, hcores, hmem, hother, hcoach⟩ := stepBeginRelease_opens hrun hopen hall hsome
    exact ⟨t, ht, hgang, hcores, hmem, hother, fun c hc => ⟨(hcoach c hc).1.1, (hcoach c hc).2, (hcoach c hc).1.2⟩⟩
  · obtain ⟨t, ht, hmem, hgang, hcoach, hctl⟩ := stepCommitDecision_decides hrun hopen hnd hall hsome
    refine ⟨t, ht, ?_⟩
    extract_lets counts nf ab
    let f := s.decision g
    have hnf : f.testBit 0 = true ↔ nf := State.testBit_decision.trans (and_iff_right (by decide))
    have hab : f.testBit 1 = true ↔ ab := State.testBit_decision.trans (and_iff_right (by decide))
    have hcommit : ¬nf ∧ ¬ab → (f == 0) = true := fun ⟨h0, h1⟩ =>
      beq_iff_eq.2 (State.decision_eq_zero.2 ⟨Bool.eq_false_iff.2 (mt hnf.1 h0), Bool.eq_false_iff.2 (mt hab.1 h1)⟩)
    have hkeep : nf ∨ ab → (f == 0) = false := fun h => beq_eq_false_iff_ne.2 fun hf => by
      obtain ⟨h0, h1⟩ := State.decision_eq_zero.1 hf
      exact h.elim (fun h => Bool.false_ne_true (h0.symm.trans (hnf.2 h))) fun h => Bool.false_ne_true (h1.symm.trans (hab.2 h))
    have hlt : f < 4 := s.decision_lt g
    refine ⟨hmem, ?_, ?_, ?_, fun h => ?_, fun h => ?_, fun c hc => ⟨?_, ?_, fun h => ?_, fun h => ?_⟩, fun c hc => ⟨?_, fun id r hw => ⟨?_,
      fun p hp hpw hpl hh => ⟨BitVec.ofNat 64 f, ?_, ?_, ?_, ?_⟩⟩⟩⟩
    · rw [hgang]; rfl
    · rw [hgang]; rfl
    · rw [hgang]; rfl
    · rw [hgang, hcommit h]; exact Bool.bne_true _
    · rw [hgang, hkeep h]; exact Bool.bne_false _
    · rw [hcoach c hc]; exact getLsbD_closeStep_open ..
    · rw [hcoach c hc]; exact closeStep_number ..
    · rw [hcoach c hc, getLsbD_closeStep_cv, hcommit h]; exact Bool.bne_true _
    · rw [hcoach c hc, getLsbD_closeStep_cv, hkeep h]; exact Bool.bne_false _
    · rw [hctl c hc]; exact Ctl.leaveCommit_inStep ..
    · rw [hctl c hc]; exact Ctl.leaveCommit_blocks hw _
    · rw [hctl c hc]; exact Ctl.leaveCommit_result hw hp hpw hpl hh _
    · rw [BitVec.toNat_ofNat]; omega
    · rw [BitVec.getLsbD_ofNat, ← hnf]; simp
    · rw [BitVec.getLsbD_ofNat, ← hab]; simp
  · have hof := stepReissue_of hst hsp hall
    refine ⟨fun a hrec ha => ⟨_, stepReissue_running hst hsp hall hrec ha, rfl, ?_, fun k hk => ?_⟩, fun hrec hend => ?_,
      fun hrec hopen hdue hplan => ?_, fun hrec hopen hdue hplan => ?_⟩
    · exact Mem.num_setNum_self ..
    · exact Mem.byte_setNum_other _ _ _ _ _ hk
    · rw [if_neg hrec, if_pos hend] at hof
      exact ⟨_, hof, s.endSpoiled_ends gi⟩
    · have hgo : ¬(g.open_ = false ∨ s.overdue g = true) := by simp [hopen, hdue]
      rw [if_neg hrec, if_neg hgo, hplan] at hof
      exact ⟨_, hof, s.endSpoiled_lost gi⟩
    · have hgo : ¬(g.open_ = false ∨ s.overdue g = true) := by simp [hopen, hdue]
      rw [if_neg hrec, if_neg hgo, hplan] at hof
      obtain ⟨⟨h1, h2, h3, h4⟩, hcoach, hcore⟩ := s.reissue_restarts gi
      exact ⟨_, hof, h1, h2, h3, h4, hcoach, hcore⟩

end Sys2Proof.Machine
end

section
/-! PROOFS of the statements of the family 01_kernel_image, fourth part: what host accesses, samples and errors do to the registers and queues
of a die (R24, R30, R142, R187, R191, R285, R341, R364, R388, R389, R391, R393). -/

namespace Sys2Proof.Machine

/-! ## Registers -/

theorem Die.vfUp_iff (d : Die) : d.vfUp = true ↔ d.mgmt.boot = 1 ∧ 2 ≤ d.mgmt.stage ∧ d.lost = false := by
  simp [Die.vfUp, and_assoc]

theorem Die.firmware_iff (d : Die) : d.firmware = true ↔ d.mgmt.boot = 1 ∧ d.mgmt.stage = 3 ∧ d.lost = false := by
  simp [Die.firmware, Die.unitOn, and_assoc]

theorem Die.get_putReg (d : Die) (fn off r : Nat) (v : Word) :
    (d.putReg fn off v).regs.get r = if r = fn * 65536 + off then v else d.regs.get r := Bits.get_put ..

@[simp] theorem Die.get_putReg_self (d : Die) (fn off : Nat) (v : Word) : (d.putReg fn off v).regs.get (fn * 65536 + off) = v :=
  Bits.get_put_self ..

/-- A register of the physical function stands at its offset. -/
@[simp] theorem Die.get_putReg_pf (d : Die) (off : Nat) (v : Word) : (d.putReg 0 off v).regs.get off = v := by
  rw [Die.get_putReg, if_pos (by omega)]

theorem Die.get_putReg_other (d : Die) {fn off r : Nat} (v : Word) (h : r ≠ fn * 65536 + off) : (d.putReg fn off v).regs.get r = d.regs.get r := by
  rw [Die.get_putReg, if_neg h]

theorem Die.reg_pf (d : Die) (off : Nat) : d.reg 0 off = d.regs.get off := congrArg d.regs.get (by omega)

/-- Only one die differs. -/
def OnlyDie (s t : State) (die : Nat) : Prop := t = s.setDie die (t.die die)

theorem State.onlyDie_setDie (s : State) (die : Nat) (x : Die) : OnlyDie s (s.setDie die x) die :=
  congrArg (s.setDie die) (s.die_setDie_self die x).symm

/-- An event that replaces one die answers what holds with the new die. -/
theorem answers_setDie {i : Instr} {s : State} {die : Nat} {x : Die} {p : State → Prop} (h : exec i s = .next (s.setDie die x))
    (hp : p (s.setDie die x)) : Answers i s fun t => t = s.setDie die (t.die die) ∧ p t :=
  ⟨_, h, s.onlyDie_setDie die x, hp⟩

theorem toNat_and_mask (v : Word) {n : Nat} (h : n < 64) : (v &&& BitVec.ofNat 64 (2 ^ n - 1)).toNat = v.toNat % 2 ^ n := by
  have hlt : 2 ^ n - 1 < 2 ^ 64 := Nat.lt_of_le_of_lt (Nat.sub_le _ _) (Nat.pow_lt_pow_right (by decide) h)
  rw [BitVec.toNat_and, BitVec.toNat_ofNat, Nat.mod_eq_of_lt hlt, Nat.and_two_pow_sub_one_eq_mod]

section
variable {s : State} {die vf : Nat}

/-! ## The registers of a virtual function -/

theorem hrevWrite_of (h : (s.die die).vfUp = true) (v : Word) :
    exec (.hrevWrite die vf v) s = .next (s.setDie die ((s.die die).putReg vf 0x118 (v &&& 0xFFFF))) := if_pos h

theorem hrevWrite_absent (h : (s.die die).vfUp = false) (v : Word) : exec (.hrevWrite die vf v) s = .next s :=
  if_neg (by simp [h])

theorem evqaRead_absent (h : (s.die die).vfUp = false) : exec (.evqaRead die vf) s = .next s := by
  simp only [exec, execEvqaRead, h]

theorem evqaRead_empty (h : (s.die die).vfUp = true) (hq : (s.die die).events vf = []) :
    exec (.evqaRead die vf) s = .next (s.setDie die ((s.die die).putReg vf 0x140 0)) := by
  simp only [exec, execEvqaRead, h, hq]

/-- A die whose event queue of a function has given an entry to the host (R364). -/
def Die.popEvent (d : Die) (fn : Nat) (a b : Word) (rest : List (Word × Word)) : Die :=
  { d with evq := putKey d.evq fn rest, evqb := putKey d.evqb fn b }.putReg fn 0x140 a

theorem evqaRead_pops {a b : Word} {rest : List (Word × Word)} (h : (s.die die).vfUp = true) (hq : (s.die die).events vf = (a, b) :: rest) :
    exec (.evqaRead die vf) s = .next (s.setDie die ((s.die die).popEvent vf a b rest)) := by
  simp only [exec, execEvqaRead, h, hq]
  rfl

theorem Die.popEvent_events (d : Die) (fn : Nat) (a b : Word) (rest : List (Word × Word)) : (d.popEvent fn a b rest).events fn = rest :=
  lookupD_putKey_self ..

/-- EVQB gives the VALUE of the entry that was popped (R364). -/
theorem State.regRead_evqb {d : Die} (hd : s.die die = d) (h : 0 < vf) : s.regRead die vf 0x148 = lookupD 0 d.evqb vf := by
  have h0 : vf ≠ 0 := Nat.pos_iff_ne_zero.1 h
  simp [State.regRead, hd, h0]

/-! ### KV pools -/

theorem kvpbWrite_absent (h : (s.die die).vfUp = false) (pool : Nat) (v : Word) : exec (.kvpbWrite die vf pool v) s = .next s := by
  simp only [exec, execKvpbWrite, h, if_true]

theorem getLsbD_kvpbStored (v : Word) : (kvpbStored v).getLsbD 63 = v.getLsbD 63 := by
  simp only [kvpbStored, BitVec.getLsbD_or, BitVec.getLsbD_and, getLsbD_mkFld]
  simp

/-- The granules that a pool of a KVPB value takes up to, counted from the start of the allocation (R285). -/
def Die.poolEnd (d : Die) (vf pool : Nat) (b : Word) : Nat := d.kvBase vf pool + b.toNat % 2 ^ 28 * kvGroupGranules b

theorem kvpbWrite_starts {pool : Nat} {v : Word} (h : (s.die die).vfUp = true) (hold : flag ((s.die die).kvpb vf pool) 63 = false)
    (hv : v.getLsbD 63 = true) :
    exec (.kvpbWrite die vf pool v) s = .next (if (s.die die).capSize vf < (s.die die).poolEnd vf pool (kvpbStored v) then s
      else s.setDie die { s.die die with
        regs := (s.die die).regs.put (vf * 65536 + 0x208 + 16 * pool) (kvpbStored v)
        pools := putKey (s.die die).pools (poolKey vf pool)
          (if ((s.die die).pool (poolKey vf pool)).closing && s.poolBusy die vf pool then (s.die die).pool (poolKey vf pool)
           else startPool (kvpbStored v)) }) := by
  have hnew : flag (kvpbStored v) 63 = true := (getLsbD_kvpbStored v).trans hv
  have hend : (s.die die).kvBase vf pool + fld (kvpbStored v) 0 28 * kvGroupGranules (kvpbStored v) =
      (s.die die).poolEnd vf pool (kvpbStored v) := by rw [fld_zero]; rfl
  simp only [exec, execKvpbWrite, h, hold, hnew, hend, Bool.true_eq_false, Bool.false_eq_true, Bool.not_true, if_false]
  split <;> rfl

/-! ### The handle table -/

/-- The doubleword of a slot of a handle table that holds its generation (R142). -/
def handleAt (die base slot : Nat) : Loc := .dev die (base + slot * 32 + 8)

/-- What a reset of a virtual function makes of a slot: one that is retired starts again at generation 1 (R18; log 22). -/
def resetHandle (w : Word) : Word := if fld w 32 16 = 0xFFFF ∧ w.getLsbD 63 = false then setFld w 32 16 1 else w

/-- Storage with one slot of a handle table reset. -/
def Mem.resetSlot (die base : Nat) (m : Mem) (slot : Nat) : Mem :=
  let w := m.dword (handleAt die base slot)
  if fld w 32 16 = 0xFFFF ∧ flag w 63 = false then m.setNum (handleAt die base slot) 8 (setFld w 32 16 1).toNat else m

theorem virtualFunctionReset_absent (h : (s.die die).vfUp = false) : exec (.virtualFunctionReset die vf) s = .next s := if_pos h

theorem virtualFunctionReset_of (h : (s.die die).vfUp = true) :
    exec (.virtualFunctionReset die vf) s = .next { s with
      mem := (List.range 65536).foldl (Mem.resetSlot die (fld ((s.die die).regs.get (vf * 65536 + 0x110)) 12 36 * 4096)) s.mem } :=
  if_neg (by simp [h])

theorem Mem.dword_setNum_self (m : Mem) (l : Loc) (w : Word) : (m.setNum l 8 w.toNat).dword l = w := by
  have hw : w.toNat < 256 ^ 8 := w.isLt
  rw [Mem.dword, Mem.num_setNum_self, Nat.mod_eq_of_lt hw, BitVec.ofNat_toNat, BitVec.setWidth_eq]

theorem Mem.dword_setNum_other (m : Mem) (l l' : Loc) (v : Nat) (h : l'.key + 8 ≤ l.key ∨ l.key + 8 ≤ l'.key) :
    (m.setNum l 8 v).dword l' = m.dword l' := congrArg (BitVec.ofNat 64) (m.num_setNum_other l l' 8 8 v h)

theorem Mem.dword_resetSlot (die base : Nat) (m : Mem) (slot i : Nat) :
    (m.resetSlot die base slot).dword (handleAt die base i) =
      if i = slot then resetHandle (m.dword (handleAt die base i)) else m.dword (handleAt die base i) := by
  have hkeys (h : i ≠ slot) : (handleAt die base i).key + 8 ≤ (handleAt die base slot).key ∨
      (handleAt die base slot).key + 8 ≤ (handleAt die base i).key := by
    simp only [handleAt, Loc.dev_key]; omega
  by_cases hr : fld (m.dword (handleAt die base slot)) 32 16 = 0xFFFF ∧ (m.dword (handleAt die base slot)).getLsbD 63 = false
  · have hset : m.resetSlot die base slot = m.setNum (handleAt die base slot) 8 (resetHandle (m.dword (handleAt die base slot))).toNat := by
      rw [resetHandle, if_pos hr]
      exact if_pos hr
    rw [hset]
    split
    next hi => subst hi; exact Mem.dword_setNum_self ..
    next hi => exact Mem.dword_setNum_other _ _ _ _ (hkeys hi)
  · have hset : m.resetSlot die base slot = m := if_neg hr
    rw [hset]
    split
    next hi => subst hi; exact (if_neg hr).symm
    next => rfl

/-- The slots below a number are reset, each as it stood before, and those from it on are as they were. -/
theorem Mem.dword_resetSlots (die base n : Nat) (m : Mem) (i : Nat) :
    ((List.range n).foldl (Mem.resetSlot die base) m).dword (handleAt die base i) =
      if i < n then resetHandle (m.dword (handleAt die base i)) else m.dword (handleAt die base i) := by
  induction n with
  | zero => rfl
  | succ n ih =>
    rw [List.range_succ, List.foldl_append, List.foldl_cons, List.foldl_nil, Mem.dword_resetSlot, ih]
    by_cases hi : i = n
    · subst hi; simp
    · have hlt : i < n + 1 ↔ i < n := by omega
      simp only [hi, hlt, if_false]

/-! ## The registers of the physical function -/

theorem hfaqRead_empty (h : (s.die die).hfaq = []) : exec (.hfaqRead die) s = .next (s.setDie die ((s.die die).putReg 0 0x4000 0)) := by
  simp only [exec, execHfaqRead, h]

theorem hfaqRead_pops {a : Word} {rest : List Word} (h : (s.die die).hfaq = a :: rest) :
    exec (.hfaqRead die) s = .next (s.setDie die ({ s.die die with hfaq := rest }.putReg 0 0x4000 a)) := by
  simp only [exec, execHfaqRead, h]

/-! ### The allocation of a tenant -/

theorem tcapWrite_used {tenant : Nat} (h : s.capInUse die tenant = true) (size : Bool) (v : Word) :
    exec (.tcapWrite die tenant size v) s = .next s := by
  simp only [exec, execTcapWrite, State.writeTcap, h, true_or, if_true]

theorem tcapWrite_size {tenant : Nat} {v : Word} (h : s.capInUse die tenant = false)
    (hfit : s.capBase die tenant + v.toNat % 2 ^ 31 ≤ (s.die die).mgmt.capGran) :
    exec (.tcapWrite die tenant true v) s =
      .next (s.setDie die ((s.die die).putReg 0 (0x2308 + 16 * tenant) (mkFld 0 31 (v.toNat % 2 ^ 31)))) := by
  have hno : ¬((s.capInUse die tenant = true) ∨ (s.die die).mgmt.capGran < s.capBase die tenant + v.toNat % 2 ^ 31) := by
    simp [h]; omega
  simp only [exec, execTcapWrite, State.writeTcap, if_true, fld_zero, if_neg hno]

/-! ### Plain writes -/

theorem registerWrite_absent (h : (s.die die).vfUp = false) (hvf : 1 ≤ vf) (off : Nat) (v : Word) :
    exec (.registerWrite die vf off v) s = .next s := by
  have h0 : vf ≠ 0 := by omega
  simp only [exec, execRegisterWrite, State.writeRegister, h0, h, or_true, if_false, if_true]

/-- A write to a register of the physical function that is no command, no mailbox byte and no allocation is a plain one. -/
theorem registerWrite_plain {off : Nat} (h1 : off ≠ 0x7000) (h2 : off < 0x8000) (h3 : off < 0x2310 ∨ 0x2410 ≤ off) (v : Word) :
    exec (.registerWrite die 0 off v) s = .next (s.writePf die off v) := by
  have h3' : ¬(0x2310 ≤ off ∧ off < 0x2410 ∧ off % 8 = 0) := by omega
  have h2' : ¬(0x8000 ≤ off ∧ off < 0x9000) := by omega
  simp only [exec, execRegisterWrite, State.writeRegister, if_true, if_neg h1, if_neg h2', if_neg h3']

theorem registerWrite_tq (h1 : 1 ≤ vf) (h16 : vf ≤ 16) (v : Word) :
    exec (.registerWrite die 0 (0x2000 + 8 * vf) v) s = .next (s.setDie die ((s.die die).putReg 0 (0x2000 + 8 * vf) (tqStored v))) := by
  rw [registerWrite_plain (by omega) (by omega) (by omega), State.writePf]
  have hp : poolTenant (0x2000 + 8 * vf) = none := if_neg (by omega)
  simp only [hp]
  rw [Die.writePf, if_neg (by omega), if_pos (by omega)]

theorem registerWrite_pcap (v : Word) :
    exec (.registerWrite die 0 0x6000 v) s = .next (s.setDie die ((s.die die).putReg 0 0x6000 (pcapStored ((s.die die).reg 0 0x6000) v))) := by
  rw [registerWrite_plain (by decide) (by decide) (by decide)]
  rfl

theorem registerWrite_command (v : Word) : exec (.registerWrite die 0 0x7000 v) s = .next (s.setDie die ((s.die die).command v)) := rfl

theorem Die.command_pending (d : Die) (v : Word) :
    (d.command v).mgmt.pending = if d.firmware = true ∧ d.mgmt.pending = 0 then v.toNat + 1 else d.mgmt.pending := by
  unfold Die.command
  by_cases h : d.firmware = true ∧ d.mgmt.pending = 0
  · simp [h]
  · rw [if_neg h, if_neg (by simpa using h)]

/-- What TQ takes of a write: EN, and the two bounds, each at most its limit (R30). -/
theorem tqStored_fields (v : Word) : (tqStored v).getLsbD 0 = v.getLsbD 0 ∧ fld (tqStored v) 40 8 = min 64 (fld v 40 8) ∧
    fld (tqStored v) 16 12 = min 3072 (fld v 16 12) := by
  have hbit : (fld v 0 1).testBit 0 = v.getLsbD 0 := by rw [testBit_fld]; rfl
  refine ⟨?_, ?_, ?_⟩
  · simp only [tqStored, BitVec.getLsbD_or, getLsbD_mkFld, Nat.sub_self, hbit]
    simp
  · rw [tqStored, fld_or, fld_or, fld_mkFld_self (by decide), fld_mkFld_other (by decide), fld_mkFld_other (by decide)]
    exact (Nat.or_zero _).trans ((Nat.or_zero _).trans (Nat.mod_eq_of_lt (Nat.lt_of_le_of_lt (Nat.min_le_left ..) (by decide))))
  · rw [tqStored, fld_or, fld_or, fld_mkFld_self (by decide), fld_mkFld_other (by decide), fld_mkFld_other (by decide)]
    exact (Nat.or_zero _).trans ((Nat.zero_or _).trans (Nat.mod_eq_of_lt (Nat.lt_of_le_of_lt (Nat.min_le_left ..) (by decide))))

/-- What PCAP takes of a write: LIMIT within its bounds and EN; PACE stays (R389). -/
theorem pcapStored_fields (old v : Word) : fld (pcapStored old v) 0 16 = min 3200 (max 1600 (fld v 0 16)) ∧
    (pcapStored old v).getLsbD 16 = v.getLsbD 16 ∧ fld (pcapStored old v) 32 6 = fld old 32 6 := by
  have hbit : (fld v 16 1).testBit 0 = v.getLsbD 16 := by rw [testBit_fld]; rfl
  refine ⟨?_, ?_, ?_⟩
  · rw [pcapStored, fld_or, fld_or, fld_mkFld_self (by decide), fld_mkFld_other (by decide), fld_mkFld_other (by decide)]
    exact (Nat.zero_or _).trans (Nat.mod_eq_of_lt (Nat.lt_of_le_of_lt (Nat.min_le_left ..) (by decide)))
  · simp only [pcapStored, BitVec.getLsbD_or, getLsbD_mkFld, Nat.sub_self, hbit]
    simp
  · rw [pcapStored, fld_or, fld_or, fld_mkFld_self (by decide), fld_mkFld_other (by decide), fld_mkFld_other (by decide)]
    exact (Nat.or_zero _).trans ((Nat.or_zero _).trans (Nat.mod_eq_of_lt (fld_lt old 32 6)))

end

end Sys2Proof.Machine
end

section
/-! PROOFS of the statements of the family 01_kernel_image, fifth part: tables written twice, pages that leave their fast
pool, and a write of POOL that lays the pools out anew (R187, R189, R190). -/

namespace Sys2Proof.Machine

/-! ## A table written twice -/

theorem dropKey_insertKey {α : Type} (i : Nat) (x : α) (l : List (Nat × α)) : dropKey (insertKey i x l) i = dropKey l i := by
  induction l with
  | nil => simp [insertKey, dropKey]
  | cons p l ih =>
    obtain ⟨j, y⟩ := p
    by_cases hj : i < j
    · simp [insertKey, hj, dropKey]
    · by_cases hji : j = i <;> simp [insertKey, hj, dropKey, hji, ih]

theorem dropKey_of_lookup?_none {α : Type} (i : Nat) (l : List (Nat × α)) (h : lookup? l i = none) : dropKey l i = l := by
  induction l with
  | nil => rfl
  | cons p l ih =>
    obtain ⟨j, y⟩ := p
    by_cases hji : j = i
    · simp [lookup?, hji] at h
    · simp only [lookup?, hji, if_false] at h
      simp [dropKey, hji, ih h]

/-- Of two writes of one key the second stands. -/
theorem putKey_putKey {α : Type} (l : List (Nat × α)) (i : Nat) (x y : α) : putKey (putKey l i x) i y = putKey l i y := by
  rw [putKey, putKey, putKey, dropKey_insertKey, dropKey_of_lookup?_none i _ (lookup?_dropKey_self i l)]

theorem lookupD_eq_getD {α : Type} (d : α) (l : List (Nat × α)) (i : Nat) : lookupD d l i = (lookup? l i).getD d := by
  induction l with
  | nil => rfl
  | cons p l ih =>
    obtain ⟨j, y⟩ := p
    by_cases h : j = i <;> simp [lookupD, lookup?, h, ih]

theorem mem_of_lookup? {α : Type} {l : List (Nat × α)} {i : Nat} {x : α} (h : lookup? l i = some x) : (i, x) ∈ l := by
  induction l with
  | nil => cases h
  | cons p l ih =>
    obtain ⟨j, y⟩ := p
    by_cases hj : j = i
    · simp only [lookup?, hj, if_true, Option.some.injEq] at h
      subst h; subst hj; exact List.mem_cons_self
    · simp only [lookup?, hj, if_false] at h
      exact List.mem_cons_of_mem _ (ih h)

theorem State.setDie_setDie (s : State) (d : Nat) (x y : Die) : (s.setDie d x).setDie d y = s.setDie d y := by
  simp only [State.setDie, putKey_putKey]

/-! ## Pages that leave their pool -/

/-- A die on which a page has left its pool: the page is clean and stands nowhere fast (R189). -/
def Die.leave (d : Die) (key : Nat) : Die :=
  { d with pages := putKey d.pages key { lookupD Page.reset d.pages key with coach := none, dirty := false } }

/-- Only one die differs, and on it the pages alone; and storage. -/
def OnlyPages (s : State) (die : Nat) (d : Die) (t : State) : Prop :=
  t = { s.setDie die (t.die die) with mem := t.mem } ∧ t.die die = { d with pages := (t.die die).pages }

section
variable {s : State} {die : Nat}

theorem State.leavePool_away {tenant page : Nat} (h : (lookupD Page.reset (s.die die).pages (pageKey tenant page)).coach = none) :
    s.leavePool die tenant page = s := by
  simp only [State.leavePool, h]

/-- A page that is resident leaves its pool, and what was written is written back (R189, R190). -/
theorem State.leavePool_resident {tenant page k : Nat} (h : (lookupD Page.reset (s.die die).pages (pageKey tenant page)).coach = some k) :
    s.leavePool die tenant page = { s.setDie die ((s.die die).leave (pageKey tenant page)) with mem := (s.leavePool die tenant page).mem } := by
  simp only [State.leavePool, h]
  rfl

theorem State.leavePool_die {tenant page k : Nat} (h : (lookupD Page.reset (s.die die).pages (pageKey tenant page)).coach = some k) :
    (s.leavePool die tenant page).die die = (s.die die).leave (pageKey tenant page) := by
  rw [State.leavePool_resident h]
  exact s.die_setDie_self die _

theorem State.leavePool_clean {tenant page : Nat} (h : (lookupD Page.reset (s.die die).pages (pageKey tenant page)).dirty = false) :
    (s.leavePool die tenant page).mem = s.mem := by
  simp only [State.leavePool]
  split
  · rfl
  · simp only [h, Bool.false_and, Bool.false_eq_true, if_false]

theorem OnlyPages.leavePool {d : Die} {t : State} (h : OnlyPages s die d t) (tenant page : Nat) :
    OnlyPages s die d (t.leavePool die tenant page) := by
  cases hp : (lookupD Page.reset (t.die die).pages (pageKey tenant page)).coach with
  | none => rwa [State.leavePool_away hp]
  | some k =>
    obtain ⟨h1, h2⟩ := h
    have ht := State.leavePool_resident hp
    have hd := State.leavePool_die hp
    refine ⟨?_, by rw [hd, Die.leave, h2]⟩
    rw [hd]
    generalize (t.die die).leave (pageKey tenant page) = x at ht
    generalize t.leavePool die tenant page = u at ht
    rw [ht, h1]
    simp only [State.setDie, putKey_putKey]

/-- A page that is resident after another has left was so before, and is not the one that left. -/
theorem State.leavePool_keeps_resident {tenant page key k : Nat} {p : Page}
    (h : lookup? ((s.leavePool die tenant page).die die).pages key = some p) (hk : p.coach = some k) :
    key ≠ pageKey tenant page ∧ lookup? (s.die die).pages key = some p := by
  cases hp : (lookupD Page.reset (s.die die).pages (pageKey tenant page)).coach with
  | none =>
    rw [State.leavePool_away hp] at h
    refine ⟨fun e => ?_, h⟩
    rw [lookupD_eq_getD, ← e, h, Option.getD_some, hk] at hp
    cases hp
  | some k' =>
    rw [State.leavePool_die hp, Die.leave, lookup?_putKey] at h
    by_cases e : key = pageKey tenant page
    · rw [if_pos e] at h
      rw [← Option.some.inj h] at hk
      cases hk
    · rw [if_neg e] at h
      exact ⟨e, h⟩

/-- Pages none of which was written stay so when one leaves. -/
theorem State.leavePool_all_clean {tenant page : Nat} (h : ∀ p ∈ (s.die die).pages, p.2.dirty = false) :
    (∀ p ∈ ((s.leavePool die tenant page).die die).pages, p.2.dirty = false) ∧ (s.leavePool die tenant page).mem = s.mem := by
  have hpage : (lookupD Page.reset (s.die die).pages (pageKey tenant page)).dirty = false := by
    rw [lookupD_eq_getD]
    cases hl : lookup? (s.die die).pages (pageKey tenant page) with
    | none => rfl
    | some p => exact h _ (mem_of_lookup? hl)
  refine ⟨?_, State.leavePool_clean hpage⟩
  cases hp : (lookupD Page.reset (s.die die).pages (pageKey tenant page)).coach with
  | none => rwa [State.leavePool_away hp]
  | some k =>
    rw [State.leavePool_die hp]
    intro q hq
    rcases mem_insertKey _ _ q _ hq with rfl | hq
    · rfl
    · exact h q (mem_dropKey _ q _ hq).1

/-! ### Pools that are laid out anew -/

/-- The pages of a tenant that stand outside its pools (R187, R387). -/
def State.strayPages (s : State) (die tenant : Nat) : List (Nat × Page) :=
  (s.die die).pages.filter fun p => p.1 / 2 ^ 32 == tenant && (match p.2.coach with
    | some k => !s.inPool die tenant k p.2.slot
    | none => false)

/-- A die whose moves into granules outside the pools of a tenant go on no more. -/
def State.dropMoves (s : State) (die tenant : Nat) : State :=
  s.setDie die { s.die die with moves := (s.die die).moves.filter fun m => !(m.tenant == tenant && !s.inPool die tenant m.coach m.slot) }

theorem State.layPools_eq (s : State) (die tenant : Nat) :
    s.layPools die tenant = (s.strayPages die tenant).foldl (fun s p => s.leavePool die tenant (p.1 % 2 ^ 32)) (s.dropMoves die tenant) := rfl

theorem State.dropMoves_die (s : State) (die tenant : Nat) : ((s.dropMoves die tenant).die die).pages = (s.die die).pages ∧
    ((s.dropMoves die tenant).die die).regs = (s.die die).regs ∧ ((s.dropMoves die tenant).die die).laid = (s.die die).laid := by
  rw [State.dropMoves, State.die_setDie_self]
  exact ⟨rfl, rfl, rfl⟩

theorem State.layPools_onlyPages (s : State) (die tenant : Nat) :
    OnlyPages (s.dropMoves die tenant) die ((s.dropMoves die tenant).die die) (s.layPools die tenant) := by
  rw [State.layPools_eq]
  refine foldl_inv (f := fun (t : State) (p : Nat × Page) => t.leavePool die tenant (p.1 % 2 ^ 32))
    (I := OnlyPages (s.dropMoves die tenant) die ((s.dropMoves die tenant).die die)) (fun t p _ h => h.leavePool tenant _) ⟨?_, rfl⟩
  simp only [State.dropMoves, State.die_setDie_self, State.setDie_setDie]

/-- A page of the tenant that is resident after the pools are laid out anew stands in one of them. -/
theorem State.layPools_inPool {tenant page k : Nat} {p : Page} (hlt : page < 2 ^ 32)
    (h : lookup? ((s.layPools die tenant).die die).pages (pageKey tenant page) = some p) (hk : p.coach = some k) :
    s.inPool die tenant k p.slot = true := by
  have hkept : ∀ (l : List (Nat × Page)) (t : State),
      lookup? ((l.foldl (fun s q => s.leavePool die tenant (q.1 % 2 ^ 32)) t).die die).pages (pageKey tenant page) = some p →
      (∀ q ∈ l, pageKey tenant page ≠ pageKey tenant (q.1 % 2 ^ 32)) ∧ lookup? (t.die die).pages (pageKey tenant page) = some p := by
    intro l
    induction l with
    | nil => exact fun t ht => ⟨fun q hq => absurd hq List.not_mem_nil, ht⟩
    | cons q l ih =>
      intro t ht
      obtain ⟨hl, hq⟩ := ih _ ht
      obtain ⟨hne, hbefore⟩ := State.leavePool_keeps_resident hq hk
      exact ⟨fun r hr => (List.mem_cons.1 hr).elim (fun e => e ▸ hne) (hl r), hbefore⟩
  rw [State.layPools_eq] at h
  obtain ⟨hstays, hbefore⟩ := hkept _ _ h
  rw [(s.dropMoves_die die tenant).1] at hbefore
  by_contra hout
  refine hstays (pageKey tenant page, p) (List.mem_filter.2 ⟨mem_of_lookup? hbefore, ?_⟩) ?_
  · have hten : pageKey tenant page / 2 ^ 32 = tenant := by unfold pageKey; omega
    simp only [hten, hk, beq_self_eq_true, Bool.true_and, Bool.not_eq_true']
    exact Bool.eq_false_iff.2 hout
  · have hpage : pageKey tenant page % 2 ^ 32 = page := by unfold pageKey; omega
    rw [hpage]

theorem State.layPools_clean {tenant : Nat} (h : ∀ p ∈ (s.die die).pages, p.2.dirty = false) : (s.layPools die tenant).mem = s.mem := by
  rw [State.layPools_eq]
  exact (foldl_inv (f := fun (t : State) (p : Nat × Page) => t.leavePool die tenant (p.1 % 2 ^ 32))
    (I := fun t => (∀ p ∈ (t.die die).pages, p.2.dirty = false) ∧ t.mem = s.mem) (s := s.dropMoves die tenant)
    (fun t p _ ⟨ht, hm⟩ => ⟨(State.leavePool_all_clean ht).1, (State.leavePool_all_clean ht).2.trans hm⟩)
    ⟨by rw [(s.dropMoves_die die tenant).1]; exact h, rfl⟩).2

/-- Whether a granule belongs to a pool depends on the registers of the die and the layout alone. -/
theorem State.inPool_congr {t : State} {tenant : Nat} (hr : (t.die die).regs = (s.die die).regs)
    (hl : (t.die die).laid = (s.die die).laid) (k slot : Nat) : t.inPool die tenant k slot = s.inPool die tenant k slot := by
  rw [State.inPool, State.inPool, State.poolSize, State.poolSize, hr, hl]

/-! ### A write of POOL -/

/-- A die whose register POOL of a tenant has been written, with the retired list of that moment (R187, R387). -/
def Die.writePool (d : Die) (vf : Nat) (v : Word) : Die :=
  { d.putReg 0 (0x2100 + 8 * vf) (v &&& 0x1FFFFFF) with laid := putKey d.laid vf d.mgmt.bad }

theorem registerWrite_pool {vf : Nat} (h1 : 1 ≤ vf) (h16 : vf ≤ 16) (v : Word) :
    exec (.registerWrite die 0 (0x2100 + 8 * vf) v) s = .next ((s.setDie die ((s.die die).writePool vf v)).layPools die vf) := by
  rw [registerWrite_plain (by omega) (by omega) (by omega), State.writePf]
  have ht : (0x2100 + 8 * vf - 0x2100) / 8 = vf := by omega
  have hp : poolTenant (0x2100 + 8 * vf) = some vf := (if_pos (by omega)).trans (congrArg some ht)
  have hd : (s.die die).writePf (0x2100 + 8 * vf) v = (s.die die).writePool vf v := by
    rw [Die.writePf, if_neg (by omega), if_neg (by omega), if_pos (by omega), ht]
    rfl
  simp only [hp, hd]

theorem registerWrite_pool_lays {vf : Nat} (h1 : 1 ≤ vf) (h16 : vf ≤ 16) (v : Word) :
    Answers (.registerWrite die 0 (0x2100 + 8 * vf) v) s fun t => t = { s.setDie die (t.die die) with mem := t.mem } ∧
      ((t.die die).regs.get (0x2100 + 8 * vf)).toNat = v.toNat % 2 ^ 25 ∧ lookup? (t.die die).laid vf = some (s.die die).mgmt.bad ∧
      ((∀ p ∈ (s.die die).pages, p.2.dirty = false) → t.mem = s.mem) ∧
      ∀ page p k, lookup? (t.die die).pages (pageKey vf page) = some p → page < 2 ^ 32 → p.coach = some k →
        t.inPool die vf k p.slot = true := by
  let s1 := s.setDie die ((s.die die).writePool vf v)
  have hs1 : s1.die die = (s.die die).writePool vf v := s.die_setDie_self die _
  obtain ⟨hpages, hregs, hlaid⟩ := s1.dropMoves_die die vf
  obtain ⟨ht, hd⟩ := s1.layPools_onlyPages die vf
  have hregs' : ((s1.layPools die vf).die die).regs = (s1.die die).regs := by rw [hd]; exact hregs
  have hlaid' : ((s1.layPools die vf).die die).laid = (s1.die die).laid := by rw [hd]; exact hlaid
  refine ⟨s1.layPools die vf, registerWrite_pool h1 h16 v, ?_, ?_, ?_, fun hclean => ?_, fun page p k hp hlt hk => ?_⟩
  · generalize (s1.layPools die vf).die die = x at ht
    rw [ht]
    simp only [s1, State.dropMoves, State.setDie_setDie]
  · rw [hregs', hs1, Die.writePool, Die.get_putReg_pf]
    exact toNat_and_mask v (n := 25) (by decide)
  · rw [hlaid', hs1]
    exact (lookup?_putKey ..).trans (if_pos rfl)
  · exact State.layPools_clean (s := s1) (by rw [hs1]; exact hclean)
  · rw [State.inPool_congr hregs' hlaid']
    exact State.layPools_inPool hlt hp hk

end

end Sys2Proof.Machine
end

section
/-! PROOFS of the statements of the family 01_kernel_image, sixth part: telemetry and power (R388, R389, R391), errors of storage (R191), and the
statement about host accesses, samples and errors. -/

namespace Sys2Proof.Machine

section
variable {s : State} {die : Nat}

/-! ## Telemetry -/

/-- The temperature words of a sample, each with the number of its coach (R388). -/
def Die.putTemps (d : Die) (l : List (Nat × Nat)) : Die := l.foldl (fun d p => d.putReg 0 (0x6010 + 8 * p.1) (mkFld 0 32 p.2)) d

theorem Die.putTemps_other (l : List (Nat × Nat)) (d : Die) {r : Nat} (h : ∀ p ∈ l, r ≠ 0x6010 + 8 * p.1) :
    (d.putTemps l).regs.get r = d.regs.get r := by
  induction l generalizing d with
  | nil => rfl
  | cons p l ih =>
    rw [Die.putTemps, List.foldl_cons, ← Die.putTemps, ih _ fun q hq => h q (List.mem_cons_of_mem p hq)]
    exact Die.get_putReg_other d _ (by have := h p List.mem_cons_self; omega)

theorem Die.putTemps_mem (l : List (Nat × Nat)) (d : Die) (hl : (l.map Prod.fst).Nodup) {p : Nat × Nat} (h : p ∈ l) :
    (d.putTemps l).regs.get (0x6010 + 8 * p.1) = mkFld 0 32 p.2 := by
  induction l generalizing d with
  | nil => cases h
  | cons q l ih =>
    obtain ⟨hq, hl⟩ := List.nodup_cons.1 hl
    rw [Die.putTemps, List.foldl_cons, ← Die.putTemps]
    rcases List.mem_cons.1 h with rfl | h
    · rw [Die.putTemps_other l _ fun r hr e => hq (List.mem_map.2 ⟨r, hr, by omega⟩)]
      exact Die.get_putReg_pf ..
    · exact ih _ hl h

theorem telemetrySample_of (h : (s.die die).firmware = true) (watts : Nat) (temps : List Nat) :
    exec (.telemetrySample die watts temps) s =
      .next (s.setDie die (((s.die die).putReg 0 0x6008 (mkFld 0 16 watts)).putTemps ((List.range 8).zip temps))) := if_pos h

theorem telemetrySample_off (h : (s.die die).firmware = false) (watts : Nat) (temps : List Nat) :
    exec (.telemetrySample die watts temps) s = .next s := if_neg (Bool.eq_false_iff.1 h)

/-- A sample puts the power and the eight temperature words at their places (R388). -/
theorem Die.sample_regs (d : Die) {watts : Nat} {temps : List Nat} (hw : watts < 65536) (ht : temps.length = 8) :
    let x := (d.putReg 0 0x6008 (mkFld 0 16 watts)).putTemps ((List.range 8).zip temps)
    x.regs.get 0x6008 = BitVec.ofNat 64 watts ∧ ∀ i, i < 8 → (x.regs.get (0x6010 + 8 * i)).toNat = nthD 0 temps i % 2 ^ 32 := by
  refine ⟨?_, fun i hi => ?_⟩
  · rw [Die.putTemps_other _ _ fun p _ => by omega, Die.get_putReg_pf]
    apply BitVec.eq_of_toNat_eq
    rw [toNat_mkFld (by decide), BitVec.toNat_ofNat]
    omega
  · have hfst : (((List.range 8).zip temps).map Prod.fst).Nodup := by
      rw [List.map_fst_zip (by simp [ht])]
      exact List.nodup_range
    have hmem : (i, nthD 0 temps i) ∈ (List.range 8).zip temps := by
      refine List.mem_iff_getElem.2 ⟨i, by simp [ht, hi], ?_⟩
      rw [List.getElem_zip, List.getElem_range, nthD_eq_getD, List.getD_eq_getElem _ _ (ht ▸ hi)]
    rw [Die.putTemps_mem _ _ hfst hmem, toNat_mkFld (by decide)]
    exact Nat.mul_one _

/-! ## Power -/

theorem Die.setPace_paceNow (d : Die) {n : Nat} (h : n < 64) : (d.setPace n).paceNow = n := by
  rw [Die.paceNow, Die.setPace, Die.reg_pf, Die.get_putReg_pf, fld_setFld_self _ (by decide)]
  exact Nat.mod_eq_of_lt h

theorem Die.setPace_other (d : Die) (n : Nat) {r : Nat} (h : r ≠ 0x6000) : (d.setPace n).regs.get r = d.regs.get r :=
  d.get_putReg_other _ (by omega)

/-- The PACE that the cluster comes to in a step towards a goal (R389). -/
def Die.nextPace (d : Die) (pace : Nat) : Nat :=
  min (d.paceNow + 8) (max (d.paceNow - 8) (if (d.regs.get 0x6000).getLsbD 16 then min 48 pace else 0))

theorem paceUpdate_idle {pace : Nat} (h : (s.die die).firmware = false ∨ s.cyc < (s.die die).paceAt ∨ (s.die die).hot 840 = true) :
    exec (.paceUpdate die pace) s = .next s := if_pos h

theorem paceUpdate_steps {pace : Nat} (h : (s.die die).firmware = true) (hat : (s.die die).paceAt ≤ s.cyc) (hhot : (s.die die).hot 840 = false) :
    exec (.paceUpdate die pace) s =
      .next (s.setDie die { (s.die die).setPace ((s.die die).nextPace pace) with paceAt := s.cyc + 3000000 }) := by
  have hno : ¬((s.die die).firmware = false ∨ s.cyc < (s.die die).paceAt ∨ (s.die die).hot 840 = true) := by
    simp [h, hhot]; omega
  refine (if_neg hno).trans ?_
  rw [Die.nextPace, ← Die.reg_pf]
  rfl

theorem paceWindow_of (h : s.cyc % 64 = 0) :
    exec (.paceWindow die) s = .next (s.setDie die { s.die die with pace := (s.die die).paceNow }) :=
  congrArg Host.Outcome.next (if_pos h)

theorem thermalLimit_off (h : (s.die die).firmware = false) : exec (.thermalLimit die) s = .next s := if_pos h

theorem thermalLimit_paces (h : (s.die die).firmware = true) (h1 : (s.die die).hot 840 = true) (h2 : (s.die die).hot 920 = false) :
    exec (.thermalLimit die) s = .next (s.setDie die ((s.die die).setPace 48)) := by
  simp only [exec, execThermalLimit, h, h1, h2, Bool.true_eq_false, Bool.false_eq_true, if_false, if_true]

theorem thermalLimit_stops (h : (s.die die).firmware = true) (h2 : (s.die die).hot 920 = true) :
    exec (.thermalLimit die) s = execDieLost die s := by
  simp only [exec, execThermalLimit, h, h2, Bool.true_eq_false, if_false, if_true]

/-! ### The loss of a die in a domain without gangs -/

/-- Gangs, packages and lost dies are the same. -/
def SameDomain (s t : State) : Prop := t.gangs = s.gangs ∧ t.present = s.present ∧ ∀ d, (t.die d).lost = (s.die d).lost

theorem SameDomain.trans {s t u : State} (h : SameDomain s t) (k : SameDomain t u) : SameDomain s u :=
  ⟨k.1.trans h.1, k.2.1.trans h.2.1, fun d => (k.2.2 d).trans (h.2.2 d)⟩

theorem SameDomain.refl (s : State) : SameDomain s s := ⟨rfl, rfl, fun _ => rfl⟩

theorem foldl_sameDomain {ι : Type} {f : State → ι → State} (h : ∀ s i, SameDomain s (f s i)) (l : List ι) (s : State) :
    SameDomain s (l.foldl f s) :=
  foldl_inv (I := SameDomain s) (fun t i _ ht => ht.trans (h t i)) (.refl s)

/-- Only messages, links, durations and the identities used differ. -/
def OnlyMessages (s t : State) : Prop := t = { s with net := t.net, links := t.links, delays := t.delays, uid := t.uid }

theorem OnlyMessages.trans {s t u : State} (h : OnlyMessages s t) (k : OnlyMessages t u) : OnlyMessages s u := by
  unfold OnlyMessages at *
  rw [k, h]

theorem OnlyMessages.refl (s : State) : OnlyMessages s s := rfl

theorem OnlyMessages.sameDomain {s t : State} (h : OnlyMessages s t) : SameDomain s t := by
  rw [h]; exact ⟨rfl, rfl, fun _ => rfl⟩

theorem State.arrive_onlyMessages (s : State) (m : Msg) : OnlyMessages s (s.arrive m) := by
  unfold State.arrive
  split
  · exact .refl s
  · dsimp only
    rw [State.delay_eq]
    rfl

theorem State.hop_onlyMessages {s t : State} {die : Nat} {m : Msg} (h : s.hop die m = some t) : OnlyMessages s t := by
  simp only [State.hop] at h
  split at h
  · cases h; exact s.arrive_onlyMessages m
  split at h
  · cases h
  split at h
  · cases h
  · cases h; rfl

theorem State.send_onlyMessages (s : State) (m : Msg) : OnlyMessages s (s.send m) := by
  simp only [State.send]
  split
  · exact .refl s
  split
  · exact s.arrive_onlyMessages m
  split
  · exact .refl s
  split
  next h => exact State.hop_onlyMessages h
  next => exact .refl s

theorem State.lose_onlyMessages (s : State) (m : Msg) : OnlyMessages s (s.lose m) := by
  unfold State.lose
  split
  · exact .refl s
  · exact .refl s
  · exact s.send_onlyMessages m

theorem SameDomain.learnDown {s t : State} (h : SameDomain s t) (d l : Nat) : SameDomain s (t.setDie d ((s.die d).learnDown l)) := by
  refine ⟨h.1, h.2.1, fun i => ?_⟩
  rw [State.die_setDie]
  split
  next hi => rw [hi]; rfl
  next => exact h.2.2 i

theorem State.linkDown_sameDomain (s : State) (l : Nat) : SameDomain s (s.linkDown l) := by
  unfold State.linkDown
  extract_lets a b back x y dead lost s1 s2 tell s3
  have ht : ∀ t d, SameDomain t (tell t d) := fun t d => foldl_sameDomain (fun u e => (u.arrive_onlyMessages _).sameDomain) _ t
  have h1 : SameDomain s s1 := .refl s
  have h2 : SameDomain s s2 := h1.trans (((SameDomain.refl s1).learnDown a l).learnDown b l)
  exact (h2.trans ((ht _ _).trans (ht _ _))).trans (foldl_sameDomain (fun u m => (u.lose_onlyMessages m).sameDomain) _ _)

theorem State.loseAll_alone {t : State} (h : t.gangs = []) : t.loseAll die = t := by
  rw [State.loseAll, h]
  rfl

/-- The links of a lost die go down one by one. -/
def State.linksDown (s : State) (die : Nat) : State := (span (die * 6) 6).foldl (fun s l => s.linkDown l) s

theorem State.linksDown_sameDomain (s : State) (die : Nat) : SameDomain s (s.linksDown die) :=
  foldl_sameDomain State.linkDown_sameDomain _ s

/-- A domain that a die has left, before its links go down. -/
def State.without (s : State) (die : Nat) : State :=
  { s.setDie die { s.die die with lost := true, holds := [], asked := none } with
    present := s.present.filter fun x => x != die, net := s.net.filter fun p => p.2.dst != die }

theorem dieLost_of (h : (s.die die).lost = false) : execDieLost die s = .next (((s.without die).linksDown die).loseAll die) :=
  if_neg (Bool.eq_false_iff.1 h)

theorem dieLost_alone (h : (s.die die).lost = false) (hg : s.gangs = []) :
    ∃ t, execDieLost die s = .next t ∧ (t.die die).lost = true ∧ die ∉ t.present := by
  have hw : ((s.without die).die die).lost = true := congrArg Die.lost (s.die_setDie_self die _)
  have hp : die ∉ (s.without die).present := by simp [State.without]
  have hwg : (s.without die).gangs = [] := hg
  obtain ⟨hgangs, hpresent, hlost⟩ := (s.without die).linksDown_sameDomain die
  refine ⟨_, dieLost_of h, ?_⟩
  rw [State.loseAll_alone (hgangs.trans hwg), hlost, hpresent]
  exact ⟨hw, hp⟩

/-! ## Errors of storage -/

theorem correctableError_of (kc : Nat) (info : Word) :
    let die := dieOf kc
    let d := s.die die
    let w := errorPlace kc (fld info 0 48)
    let d1 := { d with corr := putKey d.corr (fld w 32 30) (lookupD 0 d.corr (fld w 32 30) + 1) }
    exec (.correctableError kc info) s = .next (s.setDie die (if lookupD 0 d.corr (fld w 32 30) + 1 = 4 then d1.pushError w else d1)) := rfl

theorem Die.pushError_corr (d : Die) (w : Word) : (d.pushError w).corr = d.corr := by
  unfold Die.pushError; split <;> rfl

/-- A queue that is not full, and that has lost no entry, takes the entry at its end (R191). -/
theorem Die.pushError_hfaq {d : Die} (w : Word) (h : d.hfaq.length < 256) : ∃ x, (d.pushError w).hfaq = d.hfaq ++ [x] :=
  ⟨_, congrArg Die.hfaq (if_pos h)⟩

/-- What the other coaches of a gang are told leaves every core and die as it is (R361). -/
theorem stopOthers_frame (now self : Nat) (l : List Nat) (s : State) :
    (stopOthers now self s l).cores = s.cores ∧ (stopOthers now self s l).dies = s.dies := by
  induction l generalizing s with
  | nil => exact ⟨rfl, rfl⟩
  | cons k l ih =>
    simp only [stopOthers]
    split
    · obtain ⟨hc, hd⟩ := ih ((s.delay 0xFFFFFFFF).2.setCoach k { s.coach k with stopDue := some (now + 1 + (s.delay 0xFFFFFFFF).1) })
      exact ⟨hc.trans (s.delay_cores _), hd.trans (s.delay_dies _)⟩
    · exact ih s

theorem State.saveAnew_frame (s : State) (l : List Nat) : (s.saveAnew l).cores = s.cores ∧ (s.saveAnew l).dies = s.dies := by
  unfold State.saveAnew
  refine foldl_inv (I := fun t : State => t.cores = s.cores ∧ t.dies = s.dies) (fun t c _ ht => ?_) ⟨rfl, rfl⟩
  dsimp only
  split <;> exact ht

/-- The control side of a core that has raised a fault: its record, and OWN (R361, R362). -/
def Ctl.faulted (c : Ctl) (w faddr : Word) : Ctl := { (c.setSr 0x040 w).setSr 0x041 faddr with own := true }

/-- A core that raises a fault records it, and of cores and dies nothing else changes (R361, R362). -/
theorem State.raise_frame {c : Nat} (h : (s.ctl c).own = false) (code : Nat) (faddr : Word) :
    (s.raise c code faddr).cores =
      (s.setCtl c ((s.ctl c).faulted (fcodeWord true (coreIx c) (s.coach (coachOf c)).lco code) faddr)).cores ∧
    (s.raise c code faddr).dies = s.dies := by
  simp only [State.raise, h, Bool.false_eq_true, if_false]
  split
  · exact ⟨rfl, rfl⟩
  · refine ⟨(stopOthers_frame ..).1.trans ?_, (stopOthers_frame ..).2.trans ?_⟩
    · split
      · exact (State.saveAnew_frame ..).1
      · rfl
    · split
      · exact (State.saveAnew_frame ..).2
      · rfl

theorem State.raise_owned {c : Nat} (h : (s.ctl c).own = true) (code : Nat) (faddr : Word) : s.raise c code faddr = s := if_pos h

theorem State.raise_dies (s : State) (c code : Nat) (faddr : Word) : (s.raise c code faddr).dies = s.dies := by
  cases h : (s.ctl c).own with
  | true => rw [State.raise_owned h]
  | false => exact (State.raise_frame h code faddr).2

theorem State.raise_records {c : Nat} (h : (s.ctl c).own = false) (code : Nat) (faddr : Word) :
    ((s.raise c code faddr).ctl c).sr.get 0x040 = fcodeWord true (coreIx c) (s.coach (coachOf c)).lco code ∧
    ((s.raise c code faddr).ctl c).sr.get 0x041 = faddr := by
  rw [State.ctl, State.core_congr (State.raise_frame h code faddr).1, State.core_setCtl_self]
  exact ⟨(Bits.get_put_other _ _ _ _ (by decide)).trans (Bits.get_put_self ..), Bits.get_put_self ..⟩

/-- The code of a fault stands in the lowest byte of FCODE (R362). -/
theorem fcodeWord_code (own : Bool) (ocore ocoach : Nat) {code : Nat} (h : code < 256) : (fcodeWord own ocore ocoach code).toNat % 256 = code := by
  have hf : fld (fcodeWord own ocore ocoach code) 0 8 = code := by
    rw [fcodeWord, fld_or, fld_or, fld_or, fld_mkFld_other (by decide), fld_mkFld_other (by decide), fld_mkFld_other (by decide),
      fld_mkFld_self (by decide)]
    exact (Nat.zero_or _).trans (Nat.mod_eq_of_lt h)
  rwa [fld_zero] at hf

theorem toNat_two_fields (a : Nat) {b : Nat} (ha : a < 2 ^ 4) (hb : b < 2 ^ 48) : (mkFld 60 4 a ||| mkFld 0 48 b).toNat = a * 2 ^ 60 + b := by
  rw [BitVec.toNat_or, toNat_mkFld (by decide), toNat_mkFld (by decide), Nat.mod_eq_of_lt ha, Nat.mod_eq_of_lt hb, Nat.pow_zero, Nat.mul_one,
    Nat.mul_comm, ← Nat.two_pow_add_eq_or_of_lt (Nat.lt_of_lt_of_le hb (by decide))]

/-- A die once an uncorrectable error has come: one of a read of the stack is queued (R191). -/
def Die.noteUncorrectable (d : Die) (kc : Nat) (info : Word) : Die :=
  if fld info 60 4 = 1 then d.pushError (errorPlace kc (fld info 0 48) ||| mkFld 62 1 1) else d

theorem uncorrectableError_of {kc : Nat} {info : Word} (h : (s.coach kc).gang ≠ none) :
    exec (.uncorrectableError kc info) s = .next ((s.setDie (dieOf kc) ((s.die (dieOf kc)).noteUncorrectable kc info)).raise
      (kc * 16 + (fld info 55 5 - 1) % 16) 0x90 (mkFld 60 4 (fld info 60 4) ||| mkFld 0 48 (fld info 0 48))) := by
  obtain ⟨g, hg⟩ := Option.ne_none_iff_exists'.1 h
  have hg' : ((s.setDie (dieOf kc) ((s.die (dieOf kc)).noteUncorrectable kc info)).coach kc).gang = some g := hg
  simp only [Die.noteUncorrectable] at hg' ⊢
  simp only [exec, execUncorrectableError, hg']

theorem uncorrectableError_raises {kc : Nat} {info : Word} (hcore : fld info 55 5 < 17) (h : (s.coach kc).gang ≠ none) :
    Answers (.uncorrectableError kc info) s fun t => SameBytes s t ∧
      ((s.ctl (kc * 16 + (fld info 55 5 - 1))).own = false →
        ((t.ctl (kc * 16 + (fld info 55 5 - 1))).sr.get 0x040).toNat % 256 = 0x90 ∧
        ((t.ctl (kc * 16 + (fld info 55 5 - 1))).sr.get 0x041).toNat = fld info 60 4 * 2 ^ 60 + fld info 0 48) ∧
      (fld info 60 4 ≠ 1 → (t.die (dieOf kc)).hfaq = (s.die (dieOf kc)).hfaq) := by
  have hix : (fld info 55 5 - 1) % 16 = fld info 55 5 - 1 := Nat.mod_eq_of_lt (by omega)
  have hof := uncorrectableError_of (info := info) h
  rw [hix] at hof
  generalize kc * 16 + (fld info 55 5 - 1) = core at hof
  let s1 := s.setDie (dieOf kc) ((s.die (dieOf kc)).noteUncorrectable kc info)
  refine ⟨_, hof, ((s.setDie_same _ _).trans (State.raise_same ..)).sameBytes, fun hown => ?_, fun hsrc => ?_⟩
  · obtain ⟨h40, h41⟩ := State.raise_records (s := s1) (c := core) hown 0x90 (mkFld 60 4 (fld info 60 4) ||| mkFld 0 48 (fld info 0 48))
    rw [h40, h41]
    exact ⟨fcodeWord_code _ _ _ (by decide), toNat_two_fields _ (fld_lt info 60 4) (fld_lt info 0 48)⟩
  · rw [State.die_congr (State.raise_dies ..), State.die_setDie_self, Die.noteUncorrectable, if_neg hsrc]

end

/-! ## The statement -/

section
variable {s : State} {die vf : Nat}

theorem evqaRead_pops_answers {a b : Word} {rest : List (Word × Word)} (h : (s.die die).vfUp = true) (hq : (s.die die).events vf = (a, b) :: rest) :
    Answers (.evqaRead die vf) s fun t => OnlyDie s t die ∧ (t.die die).events vf = rest ∧
      (t.die die).regs.get (vf * 65536 + 0x140) = a ∧ (0 < vf → t.regRead die vf 0x148 = b) := by
  refine answers_setDie (evqaRead_pops h hq) ⟨?_, ?_, fun hvf => ?_⟩
  · rw [State.die_setDie_self, Die.popEvent_events]
  · rw [State.die_setDie_self]
    exact Die.get_putReg_self ..
  · rw [State.regRead_evqb rfl hvf, State.die_setDie_self]
    exact lookupD_putKey_self ..

/-- A KVPB whose pool fits in the allocation is taken, and its pool starts with every group free, or waits for the old one (R285). -/
theorem kvpbWrite_takes {pool : Nat} {v : Word} (h : (s.die die).vfUp = true) (hold : flag ((s.die die).kvpb vf pool) 63 = false)
    (hv : v.getLsbD 63 = true) (hfit : (s.die die).poolEnd vf pool (kvpbStored v) ≤ (s.die die).capSize vf) :
    Answers (.kvpbWrite die vf pool v) s fun t => OnlyDie s t die ∧ (t.die die).kvpb vf pool = kvpbStored v ∧
      (((s.die die).pool (poolKey vf pool)).closing = false ∨ s.poolBusy die vf pool = false →
        (t.die die).pool (poolKey vf pool) = { Pool.reset with free := List.range ((kvpbStored v).toNat % 2 ^ 28) }) ∧
      (((s.die die).pool (poolKey vf pool)).closing = true → s.poolBusy die vf pool = true →
        (t.die die).pool (poolKey vf pool) = (s.die die).pool (poolKey vf pool)) ∧
      ∀ p, p ≠ poolKey vf pool → (t.die die).pool p = (s.die die).pool p := by
  have hrun := kvpbWrite_starts h hold hv
  rw [if_neg (Nat.not_lt.2 hfit)] at hrun
  have hstart : startPool (kvpbStored v) = { Pool.reset with free := List.range ((kvpbStored v).toNat % 2 ^ 28) } := by
    rw [startPool, fld_zero]
  refine answers_setDie hrun ⟨?_, fun hfree => ?_, fun hc hb => ?_, fun p hp => ?_⟩
  · rw [State.die_setDie_self]
    exact Bits.get_put_self ..
  · rw [State.die_setDie_self, ← hstart]
    have hno : ¬((((s.die die).pool (poolKey vf pool)).closing && s.poolBusy die vf pool) = true) := by
      rcases hfree with hf | hf <;> simp [hf]
    exact (lookupD_putKey_self ..).trans (if_neg hno)
  · rw [State.die_setDie_self]
    exact (lookupD_putKey_self ..).trans (if_pos (by rw [hc, hb]; rfl))
  · rw [State.die_setDie_self]
    exact lookupD_putKey_other _ _ _ _ _ hp

/-- A KVPB whose pool does not fit in the allocation is not taken (R285). -/
theorem kvpbWrite_over {pool : Nat} {v : Word} (h : (s.die die).vfUp = true) (hold : flag ((s.die die).kvpb vf pool) 63 = false)
    (hv : v.getLsbD 63 = true) (hover : (s.die die).capSize vf < (s.die die).poolEnd vf pool (kvpbStored v)) :
    exec (.kvpbWrite die vf pool v) s = .next s := by
  rw [kvpbWrite_starts h hold hv, if_pos hover]

theorem tcapWrite_takes {tenant : Nat} {v : Word} (h : s.capInUse die tenant = false)
    (hfit : s.capBase die tenant + v.toNat % 2 ^ 31 ≤ (s.die die).mgmt.capGran) :
    Answers (.tcapWrite die tenant true v) s fun t => OnlyDie s t die ∧ (t.die die).capSize tenant = v.toNat % 2 ^ 31 ∧
      t.capBase die tenant = s.capBase die tenant := by
  refine answers_setDie (tcapWrite_size h hfit) ⟨?_, ?_⟩
  · rw [State.die_setDie_self, Die.capSize, Die.get_putReg_pf, fld_mkFld_self (by decide), Nat.mod_mod]
  · rw [State.capBase, State.capBase, State.die_setDie_self, Die.get_putReg_other _ _ (by omega)]

theorem registerWrite_pcap_answers (v : Word) :
    Answers (.registerWrite die 0 0x6000 v) s fun t => OnlyDie s t die ∧
      fld ((t.die die).regs.get 0x6000) 0 16 = min 3200 (max 1600 (fld v 0 16)) ∧
      ((t.die die).regs.get 0x6000).getLsbD 16 = v.getLsbD 16 ∧ (t.die die).paceNow = (s.die die).paceNow := by
  refine answers_setDie (registerWrite_pcap v) ?_
  obtain ⟨hlimit, hen, hpace⟩ := pcapStored_fields ((s.die die).reg 0 0x6000) v
  rw [State.die_setDie_self, Die.get_putReg_pf]
  refine ⟨hlimit, hen, ?_⟩
  rw [Die.paceNow, Die.reg_pf, Die.get_putReg_pf, hpace]
  rfl

theorem Die.nextPace_lt (d : Die) (pace : Nat) (h : d.paceNow ≤ 48) : d.nextPace pace < 64 := by
  rw [Die.nextPace]
  omega

theorem paceUpdate_answers {pace : Nat} (h : (s.die die).firmware = true) (hat : (s.die die).paceAt ≤ s.cyc)
    (hhot : (s.die die).hot 840 = false) :
    Answers (.paceUpdate die pace) s fun t => OnlyDie s t die ∧ (t.die die).paceAt = s.cyc + 3000000 ∧
      ((s.die die).paceNow ≤ 48 → (t.die die).paceNow = (s.die die).nextPace pace) ∧
      ∀ r, r ≠ 0x6000 → (t.die die).regs.get r = (s.die die).regs.get r := by
  refine answers_setDie (paceUpdate_steps h hat hhot) ⟨?_, fun h48 => ?_, fun r hr => ?_⟩
  · rw [State.die_setDie_self]
  · rw [State.die_setDie_self]
    exact Die.setPace_paceNow _ (Die.nextPace_lt _ pace h48)
  · rw [State.die_setDie_self]
    exact Die.setPace_other _ _ hr

theorem correctableError_answers (kc : Nat) (info : Word) :
    let w := errorPlace kc (fld info 0 48)
    let c := lookupD 0 (s.die (dieOf kc)).corr (fld w 32 30)
    Answers (.correctableError kc info) s fun t => OnlyDie s t (dieOf kc) ∧
      lookupD 0 (t.die (dieOf kc)).corr (fld w 32 30) = c + 1 ∧ (c ≠ 3 → (t.die (dieOf kc)).hfaq = (s.die (dieOf kc)).hfaq) ∧
      (c = 3 → (s.die (dieOf kc)).hfaq.length < 256 → (s.die (dieOf kc)).hfOvf = false →
        ∃ x, (t.die (dieOf kc)).hfaq = (s.die (dieOf kc)).hfaq ++ [x]) := by
  intro w c
  refine answers_setDie (correctableError_of kc info) ?_
  rw [State.die_setDie_self]
  by_cases hc : c + 1 = 4
  · rw [if_pos hc]
    refine ⟨?_, fun h3 => absurd hc (by omega), fun _ hlen _ => Die.pushError_hfaq w hlen⟩
    rw [Die.pushError_corr]
    exact lookupD_putKey_self ..
  · rw [if_neg hc]
    exact ⟨lookupD_putKey_self .., fun _ => rfl, fun h3 => absurd h3 (by omega)⟩

theorem virtualFunctionReset_answers (h : (s.die die).vfUp = true) :
    Answers (.virtualFunctionReset die vf) s fun t => t = { s with mem := t.mem } ∧ ∀ slot, slot < 65536 →
      t.mem.dword (handleAt die (fld ((s.die die).regs.get (vf * 65536 + 0x110)) 12 36 * 4096) slot) =
        resetHandle (s.mem.dword (handleAt die (fld ((s.die die).regs.get (vf * 65536 + 0x110)) 12 36 * 4096) slot)) := by
  have hslots := fun slot => Mem.dword_resetSlots die (fld ((s.die die).regs.get (vf * 65536 + 0x110)) 12 36 * 4096) 65536 s.mem slot
  have hrun := virtualFunctionReset_of (vf := vf) h
  generalize (List.range 65536).foldl _ s.mem = m at hslots hrun
  exact ⟨_, hrun, rfl, fun slot hslot => (hslots slot).trans (if_pos hslot)⟩

end

/-- Settles O49, event by event: what each one answers stands in the lemmas above. -/
theorem hostRegistersAndErrors : Obligations.HostRegistersAndErrors := by
  unfold Obligations.HostRegistersAndErrors
  intro die vf kc off pace watts temps v info s d only
  refine ⟨d.vfUp_iff, d.firmware_iff, fun h => ⟨⟨s, hrevWrite_absent h v, rfl⟩, ⟨s, evqaRead_absent h, rfl⟩,
      ⟨s, kvpbWrite_absent h off v, rfl⟩,
      ⟨s, virtualFunctionReset_absent h, rfl⟩, fun hvf => ⟨s, registerWrite_absent h hvf off v, rfl⟩⟩,
    fun h => answers_setDie (hrevWrite_of h v) ?_, fun a b rest h hq => evqaRead_pops_answers h hq, fun h hq =>
      answers_setDie (evqaRead_empty h hq) ?_, fun a rest hq => answers_setDie (hfaqRead_pops hq) ?_,
    fun hq => answers_setDie (hfaqRead_empty hq) ?_,
    fun pool h _ hold hv => ⟨fun hover => ⟨s, kvpbWrite_over h hold hv hover, rfl⟩, kvpbWrite_takes h hold hv⟩,
    fun size tenant h => ⟨s, tcapWrite_used h size v, rfl⟩,
    fun tenant h hfit => tcapWrite_takes h hfit,
    fun h1 h16 => ⟨answers_setDie (registerWrite_tq h1 h16 v) ?_, registerWrite_pcap_answers v, registerWrite_pool_lays h1 h16 v⟩,
    answers_setDie (registerWrite_command v) ?_,
    fun h => ⟨⟨s, telemetrySample_off h watts temps, rfl⟩, ⟨s, paceUpdate_idle (.inl h), rfl⟩, ⟨s, thermalLimit_off h, rfl⟩⟩,
    fun h hw ht => answers_setDie (telemetrySample_of h watts temps) ?_, fun h => ⟨s, paceUpdate_idle (.inr (.inl h)), rfl⟩,
    fun h hat hhot => paceUpdate_answers h hat hhot, fun h => ⟨_, paceWindow_of h, rfl⟩,
    fun h h1 h2 => answers_setDie (thermalLimit_paces h h1 h2) ?_, fun h h2 hg => ?_, correctableError_answers kc info,
    uncorrectableError_raises, virtualFunctionReset_answers⟩
  · rw [State.die_setDie_self, Die.get_putReg_self]
    exact ⟨toNat_and_mask v (n := 16) (by decide), fun r hr => Die.get_putReg_other _ _ hr⟩
  · rw [State.die_setDie_self]
    exact ⟨hq, Die.get_putReg_self ..⟩
  · rw [State.die_setDie_self]
    exact ⟨rfl, Die.get_putReg_pf ..⟩
  · rw [State.die_setDie_self]
    exact Die.get_putReg_pf ..
  · rw [State.die_setDie_self, Die.tq, Die.get_putReg_pf]
    exact tqStored_fields v
  · rw [State.die_setDie_self]
    exact d.command_pending v
  · rw [State.die_setDie_self]
    exact d.sample_regs hw ht
  · rw [State.die_setDie_self]
    exact d.setPace_paceNow (by decide)
  · obtain ⟨t, hrun, hlost, hpresent⟩ := dieLost_alone (d.firmware_iff.1 h).2.2 hg
    exact ⟨t, (thermalLimit_stops h h2).trans hrun, hlost, hpresent⟩

end Sys2Proof.Machine
end

section
/-! PROOFS of the statements of the family 01_kernel_image, seventh part: the job log (R24 to R26), contexts at entry and their load (R28, R35,
R124), pre-emption requests (R38) and the end of a child (R40, R42). -/

namespace Sys2Proof.Machine

section
variable {s : State} {die vf base log2n : Nat}

/-! ## The scan of a job log -/

/-- The address of a job log (R24). -/
def State.logBase (s : State) (die vf : Nat) : Nat := fld ((s.die die).regs.get (vf * 65536 + 0x100)) 12 36 * 4096

/-- LOG2N of a job log (R24). -/
def State.logSize (s : State) (die vf : Nat) : Nat := fld ((s.die die).regs.get (vf * 65536 + 0x108)) 0 4

/-- The number of records of a job log that have not been read (R25, R26). -/
def State.logCount (s : State) (die base : Nat) : Nat :=
  (s.mem.num (.dev die base) 4 + 2 ^ 32 - s.mem.num (.dev die (base + 8)) 4) % 2 ^ 32

/-- A scan takes place: it is due, the log is enabled, and the launch unit works (R26). -/
def State.Scans (s : State) (die vf : Nat) : Prop :=
  s.cyc % 4096 = 0 ∧ flag ((s.die die).regs.get (vf * 65536 + 0x100)) 0 = true ∧ (s.die die).unitOn = true

theorem jobLogScan_waits
    (h : s.cyc % 4096 ≠ 0 ∨ flag ((s.die die).regs.get (vf * 65536 + 0x100)) 0 = false ∨ (s.die die).unitOn = false) :
    exec (.jobLogScan die vf) s = .next s := if_pos h

/-- A log that has overrun is closed, and says so in its status byte (R26). -/
def State.closeLog (s : State) (die vf base : Nat) : State :=
  { s.setDie die { s.die die with
      regs := (s.die die).regs.put (vf * 65536 + 0x100) (setFld ((s.die die).regs.get (vf * 65536 + 0x100)) 0 1 0) } with
    mem := s.mem.setNum (.dev die (base + 16)) 1 (s.mem.num (.dev die (base + 16)) 1 ||| 1) }

/-- A record that is taken: it is refused with its code, or accepted into a slot (R22, R23, R26). -/
def State.takeRecord (s : State) (die tenant slot a : Nat) (words : List Word) : State :=
  match s.rejectCode die tenant words with
  | some code => { s with mem := s.mem.setNum (.dev die (a + 96)) 8 (code * 256 + 5) }
  | none => (s.accept slot tenant words (some a) none).setRecord slot 0 1

theorem State.takeRecords_full {tenant n i : Nat} (h : s.freeSlot die tenant = none) :
    s.takeRecords die tenant base log2n (n + 1) i = (s, i) := by
  simp only [State.takeRecords, h]

theorem State.takeRecords_slot {tenant n i slot : Nat} (h : s.freeSlot die tenant = some slot) :
    s.takeRecords die tenant base log2n (n + 1) i =
      (s.takeRecord die tenant slot (logRecord base log2n i)
        ((List.range 12).map fun k => s.mem.dword (.dev die (logRecord base log2n i + 8 * k)))).takeRecords die tenant base log2n n
        ((i + 1) % 2 ^ 32) := by
  cases hcode : s.rejectCode die tenant ((List.range 12).map fun k => s.mem.dword (.dev die (logRecord base log2n i + 8 * k))) with
  | none => simp only [State.takeRecords, State.takeRecord, h, hcode]
  | some code => simp only [State.takeRecords, State.takeRecord, h, hcode]

/-- The read index of a log is written. -/
def State.setLogRead (s : State) (die base rd : Nat) : State := { s with mem := s.mem.setNum (.dev die (base + 8)) 4 rd }

section
variable (hb : s.logBase die vf = base) (hl : s.logSize die vf = log2n) (hscan : s.Scans die vf)
include hb hl hscan

theorem jobLogScan_overrun (h : 2 ^ (log2n + 4) < s.logCount die base) : exec (.jobLogScan die vf) s = .next (s.closeLog die vf base) := by
  obtain ⟨hcyc, hen, hon⟩ := hscan
  subst hb hl
  exact (if_neg (by simp [hcyc, hen, hon])).trans (if_pos h)

theorem jobLogScan_stopped (h : s.logCount die base ≤ 2 ^ (log2n + 4)) (htq : flag ((s.die die).tq vf) 0 = false) :
    exec (.jobLogScan die vf) s = .next s := by
  obtain ⟨hcyc, hen, hon⟩ := hscan
  subst hb hl
  exact (if_neg (by simp [hcyc, hen, hon])).trans ((if_neg (Nat.not_lt.2 h)).trans (if_pos htq))

/-- The scan of one new record: it is taken when a slot is free (R26, R30). -/
theorem jobLogScan_one (h1 : s.logCount die base = 1) (htq : flag ((s.die die).tq vf) 0 = true) :
    exec (.jobLogScan die vf) s =
      let rd := s.mem.num (.dev die (base + 8)) 4
      let a := logRecord base log2n rd
      .next (match s.freeSlot die vf with
        | none => s.setLogRead die base rd
        | some slot => (s.takeRecord die vf slot a ((List.range 12).map fun i => s.mem.dword (.dev die (a + 8 * i)))).setLogRead die base
            ((rd + 1) % 2 ^ 32)) := by
  obtain ⟨hcyc, hen, hon⟩ := hscan
  have hfew : ¬2 ^ (log2n + 4) < 1 := Nat.not_lt.2 (Nat.two_pow_pos _)
  subst hb hl
  rw [State.logCount] at h1
  simp only [exec, execJobLogScan, ← State.logBase.eq_1 s die vf, ← State.logSize.eq_1 s die vf, hcyc, hen, hon, h1, hfew, htq, ne_eq,
    not_true, Bool.true_eq_false, or_self, if_false]
  cases hslot : s.freeSlot die vf with
  | none => rw [State.takeRecords_full hslot]; rfl
  | some slot => rw [State.takeRecords_slot hslot]; rfl

end

/-- The read index of a log stands apart from its records. -/
theorem State.num_setLogRead_record (s : State) (die base log2n i rd : Nat) :
    (s.setLogRead die base rd).mem.num (.dev die (logRecord base log2n i + 96)) 8 = s.mem.num (.dev die (logRecord base log2n i + 96)) 8 := by
  refine Mem.num_setNum_other _ _ _ _ _ _ (Or.inr ?_)
  rw [logRecord, Nat.add_assoc, Nat.add_assoc, Loc.dev_key, Loc.dev_key]
  omega

theorem State.num_setLogRead_self (s : State) (die base rd : Nat) :
    (s.setLogRead die base rd).mem.num (.dev die (base + 8)) 4 = rd % 2 ^ 32 := Mem.num_setNum_self ..

theorem ite_some_le {p : Prop} [Decidable p] {a b : Nat} {o : Option Nat} (ha : a ≤ b) (ho : ∀ x, o = some x → x ≤ b) :
    ∀ x, (if p then some a else o) = some x → x ≤ b := by
  intro x hx
  split at hx
  · cases hx; exact ha
  · exact ho x hx

/-- The reject codes of R23 run up to 0x0A. -/
theorem State.rejectCode_le {tenant code : Nat} {words : List Word} (h : s.rejectCode die tenant words = some code) : code ≤ 0x0A := by
  unfold State.rejectCode at h
  extract_lets at h
  refine ite_some_le ?_ (ite_some_le ?_ (ite_some_le ?_ (ite_some_le ?_ (ite_some_le ?_ (ite_some_le ?_ (ite_some_le ?_ (ite_some_le ?_
    (ite_some_le ?_ (ite_some_le ?_ fun x hx => absurd hx (Option.not_mem_none x)))))))))) code h
  all_goals decide

/-- A record that is refused has its code and the state REJECTED written in it (R23). -/
theorem State.takeRecord_rejects {tenant code : Nat} {words : List Word} (h : s.rejectCode die tenant words = some code) (slot a : Nat) :
    (s.takeRecord die tenant slot a words).gangs = s.gangs ∧
    (s.takeRecord die tenant slot a words).mem.num (.dev die (a + 96)) 8 = code * 256 + 5 := by
  have hcode := State.rejectCode_le h
  simp only [State.takeRecord, h, true_and, Mem.num_setNum_self]
  exact Nat.mod_eq_of_lt (by omega)

/-- A record that is accepted fills its slot, and has the state ACCEPTED written in it (R21, R22). -/
theorem State.takeRecord_accepts {tenant slot : Nat} {words : List Word} (h : s.rejectCode (slot / 64) tenant words = none) (a : Nat) :
    let t := s.takeRecord (slot / 64) tenant slot a words
    (t.gang slot).stand = .waiting ∧ (t.gang slot).tenant = tenant ∧ (t.gang slot).words = words ∧ (t.gang slot).recAt = some a ∧
    (t.gang slot).parent = none ∧ (∀ i, i ≠ slot → t.gang i = s.gang i) ∧ t.mem.num (.dev (slot / 64) (a + 96)) 8 = 1 := by
  have hgang (i : Nat) : ((s.takeRecord (slot / 64) tenant slot a words).gang i) = (s.accept slot tenant words (some a) none).gang i := by
    simp only [State.takeRecord, h, State.setRecord_gang]
  have hrec : (s.accept slot tenant words (some a) none).setRecord slot 0 1 = { s.accept slot tenant words (some a) none with
      mem := s.mem.setNum (.dev (slot / 64) (a + 96)) 8 1 } := by
    have hat : ((s.accept slot tenant words (some a) none).gang slot).recAt = some a := congrArg Gang.recAt (State.gang_setGang_self ..)
    simp only [State.setRecord, hat]
    rfl
  simp only [hgang]
  simp only [State.takeRecord, h, hrec, Mem.num_setNum_self]
  simp only [State.accept, State.gang_setGang_self, true_and]
  exact ⟨fun i hi => State.gang_setGang_other _ _ _ _ hi, rfl⟩

section
variable (hb : s.logBase die vf = base) (hl : s.logSize die vf = log2n) (hscan : s.Scans die vf)
include hb hl hscan

theorem jobLogScan_closes (h : 2 ^ (log2n + 4) < s.logCount die base) : Answers (.jobLogScan die vf) s fun t =>
    ((t.die die).regs.get (vf * 65536 + 0x100)).getLsbD 0 = false ∧
    (s.mem.num (.dev die (base + 16)) 1 ||| 1) = t.mem.num (.dev die (base + 16)) 1 ∧ t.gangs = s.gangs ∧ t.cores = s.cores := by
  refine ⟨_, jobLogScan_overrun hb hl hscan h, ?_, ?_, rfl, rfl⟩
  · have hd : (s.closeLog die vf base).die die = { s.die die with
        regs := (s.die die).regs.put (vf * 65536 + 0x100) (setFld ((s.die die).regs.get (vf * 65536 + 0x100)) 0 1 0) } :=
      s.die_setDie_self die _
    rw [hd, Bits.get_put_self, getLsbD_setFld]
    simp
  · have hlt : s.mem.num (.dev die (base + 16)) 1 < 2 ^ 8 := by
      have hbytes := natOfBytes_lt (s.mem.read (Loc.dev die (base + 16)).key 1)
      rwa [Mem.read_length] at hbytes
    exact ((Mem.num_setNum_self ..).trans (Nat.mod_eq_of_lt (Nat.or_lt_two_pow hlt (by decide)))).symm

variable (h1 : s.logCount die base = 1) (htq : flag ((s.die die).tq vf) 0 = true)
include h1 htq

theorem jobLogScan_full (h : s.freeSlot die vf = none) : Answers (.jobLogScan die vf) s fun t => t.gangs = s.gangs ∧ SameBytes s t := by
  have hrun := jobLogScan_one hb hl hscan h1 htq
  simp only [h] at hrun
  exact ⟨_, hrun, rfl, fun k => Mem.byte_setNum_num ..⟩

variable {slot : Nat} {words : List Word} (hslot : s.freeSlot die vf = some slot)
  (hwords : words = (List.range 12).map fun i => s.mem.dword (.dev die (logRecord base log2n (s.mem.num (.dev die (base + 8)) 4) + 8 * i)))
include hslot hwords

theorem jobLogScan_rejects {code : Nat} (h : s.rejectCode die vf words = some code) : Answers (.jobLogScan die vf) s fun t =>
    t.gangs = s.gangs ∧ t.mem.num (.dev die (logRecord base log2n (s.mem.num (.dev die (base + 8)) 4) + 96)) 8 = code * 256 + 5 ∧
    t.mem.num (.dev die (base + 8)) 4 = (s.mem.num (.dev die (base + 8)) 4 + 1) % 2 ^ 32 := by
  have hrun := jobLogScan_one hb hl hscan h1 htq
  simp only [hslot, ← hwords] at hrun
  obtain ⟨hgangs, hrec⟩ := State.takeRecord_rejects h slot (logRecord base log2n (s.mem.num (.dev die (base + 8)) 4))
  refine ⟨_, hrun, hgangs, ?_, ?_⟩
  · rw [State.num_setLogRead_record, hrec]
  · rw [State.num_setLogRead_self, Nat.mod_mod]

theorem jobLogScan_accepts (hhome : slot / 64 = die) (h : s.rejectCode die vf words = none) : Answers (.jobLogScan die vf) s fun t =>
    (t.gang slot).stand = .waiting ∧ (t.gang slot).tenant = vf ∧ (t.gang slot).words = words ∧
    (t.gang slot).recAt = some (logRecord base log2n (s.mem.num (.dev die (base + 8)) 4)) ∧ (t.gang slot).parent = none ∧
    (∀ i, i ≠ slot → t.gang i = s.gang i) ∧
    t.mem.num (.dev die (logRecord base log2n (s.mem.num (.dev die (base + 8)) 4) + 96)) 8 = 1 ∧
    t.mem.num (.dev die (base + 8)) 4 = (s.mem.num (.dev die (base + 8)) 4 + 1) % 2 ^ 32 := by
  subst hhome
  have hrun := jobLogScan_one hb hl hscan h1 htq
  simp only [hslot, ← hwords] at hrun
  obtain ⟨hstand, htenant, hwords', hrecAt, hparent, hother, hrec⟩ :=
    State.takeRecord_accepts h (logRecord base log2n (s.mem.num (.dev (slot / 64) (base + 8)) 4))
  refine ⟨_, hrun, hstand, htenant, hwords', hrecAt, hparent, hother, ?_, ?_⟩
  · rw [State.num_setLogRead_record, hrec]
  · rw [State.num_setLogRead_self, Nat.mod_mod]

end

end

/-! ## A core at entry -/

theorem Bits.get_foldl_put {w : Nat} (f : Nat → BitVec w) (l : List Nat) (b : Bits w) (r : Nat) :
    (l.foldl (fun b i => Bits.put b i (f i)) b).get r = if r ∈ l then f r else b.get r := by
  induction l generalizing b with
  | nil => simp
  | cons i l ih =>
    rw [List.foldl_cons, ih, Bits.get_put]
    by_cases hr : r = i
    · subst hr; simp
    · simp [hr]

/-- The registers of a core at entry: r1 to r8 from the record, the others zero (R28). -/
theorem coreAtEntry_reg (g : Gang) (entry : Nat) (dict : Bits 35) (hpol : Word) (r : Nat) :
    (coreAtEntry g entry dict hpol).ctl.regs.get r = if 1 ≤ r ∧ r < 9 then nthD 0 g.words (3 + r) else 0 := by
  rw [coreAtEntry, Bits.get_foldl_put fun i => nthD 0 g.words (3 + i)]
  simp only [mem_span]
  rfl

theorem coreAtEntry_galloc (g : Gang) (entry : Nat) (dict : Bits 35) (hpol : Word) :
    (coreAtEntry g entry dict hpol).ctl.sr.get 0x002 = mkFld 0 7 g.galloc := by
  simp [coreAtEntry, Bits.puts, Bits.get_put]

theorem coreAtEntry_phase (g : Gang) (entry : Nat) (dict : Bits 35) (hpol : Word) :
    (coreAtEntry g entry dict hpol).ctl.sr.get 0x020 = mkFld 0 4 g.ph0 := by
  simp [coreAtEntry, Bits.puts, Bits.get_put]

section
variable {s : State} {gi : Nat}

/-! ## Pre-emption requests -/

/-- A coach is asked to stop at its next pre-emption point (R38). -/
def State.askCoach (s : State) (c : Nat) : State := s.setCoach c { s.coach c with preReq := true }

theorem askCoaches_coach (l : List Nat) (s : State) (c : Nat) :
    (l.foldl State.askCoach s).coach c = if c ∈ l then { s.coach c with preReq := true } else s.coach c := by
  split
  next hc =>
    exact foldl_repeats (f := State.askCoach) (get := fun t : State => t.coach c) (R := fun x y => y = { x with preReq := true }) hc
      (fun t j hj => t.coach_setCoach_other j c _ hj.symm) (fun t => t.coach_setCoach_self c _) (fun x y z hy hz => by rw [hz, hy]) s
  next hc =>
    exact foldl_frame (f := State.askCoach) (fun t : State => t.coach c)
      (fun t j hj => t.coach_setCoach_other j c _ fun e => hc (e ▸ hj)) s

/-- Asking coaches changes no gang, no core and no byte. -/
theorem askCoaches_frame (l : List Nat) (s : State) : (l.foldl State.askCoach s).gangs = s.gangs ∧
    (l.foldl State.askCoach s).cores = s.cores ∧ (l.foldl State.askCoach s).mem = s.mem :=
  foldl_inv (f := State.askCoach) (I := fun t : State => t.gangs = s.gangs ∧ t.cores = s.cores ∧ t.mem = s.mem) (fun _ _ _ ht => ht)
    ⟨rfl, rfl, rfl⟩

theorem preemptionRequest_running (h : (s.gang gi).stand = .running) : exec (.preemptionRequest gi) s =
    .next ((s.gang gi).coaches.foldl State.askCoach
      (s.setGang gi { s.gang gi with stand := .preempting, preAt := s.cyc, preTmo := 1048576 })) := by
  simp only [exec, execPreemptionRequest, State.requestPreempt, h]
  rfl

theorem preemptionRequest_held (h : (s.gang gi).stand = .held) (htmo : (s.gang gi).preTmo = 0) : exec (.preemptionRequest gi) s =
    .next (s.setGang gi { s.gang gi with preAt := s.cyc, preTmo := 1048576 }) := by
  simp only [exec, execPreemptionRequest, State.requestPreempt, h, htmo, if_true]

theorem preemptionRequest_void (h : (s.gang gi).stand ≠ .running) (hheld : (s.gang gi).stand ≠ .held ∨ (s.gang gi).preTmo ≠ 0) :
    exec (.preemptionRequest gi) s = .next s := by
  simp only [exec, execPreemptionRequest, State.requestPreempt]
  split
  next hr => exact absurd hr h
  next hh => rw [if_neg (hheld.resolve_left fun hn => hn hh)]
  next => rfl

theorem preemptionRequest_asks (h : (s.gang gi).stand = .running) : Answers (.preemptionRequest gi) s fun t =>
    t.gang gi = { s.gang gi with stand := .preempting, preAt := s.cyc, preTmo := 1048576 } ∧ t.cores = s.cores ∧ SameBytes s t ∧
    ∀ c, t.coach c = if c ∈ (s.gang gi).coaches then { s.coach c with preReq := true } else s.coach c := by
  obtain ⟨hgangs, hcores, hmem⟩ := askCoaches_frame (s.gang gi).coaches
    (s.setGang gi { s.gang gi with stand := .preempting, preAt := s.cyc, preTmo := 1048576 })
  refine ⟨_, preemptionRequest_running h, ?_, hcores, fun k => congrArg (fun m : Mem => m.byte k) hmem, askCoaches_coach _ _⟩
  rw [State.gang_congr hgangs, State.gang_setGang_self]

/-! ## The end of a child -/

theorem childEnd_runs {p : Nat × Nat × Nat × Nat} (hp : (s.gang gi).parent = some p) (h1 : (s.gang gi).stand ≠ .done)
    (h2 : (s.gang gi).stand ≠ .faulted) : exec (.childEnd gi) s = .next s := by
  simp only [exec, execChildEnd, hp]
  exact if_pos ⟨h1, h2⟩

theorem childEnd_alone {pg acc lcore w : Nat} (hp : (s.gang gi).parent = some (pg, acc, lcore, w))
    (hend : (s.gang gi).stand = .done ∨ (s.gang gi).stand = .faulted) (hne : pg ≠ gi)
    (hgone : (s.gang pg).held = false ∨ (s.gang pg).accept ≠ acc) :
    exec (.childEnd gi) s = .next (s.setGang gi { s.gang gi with parent := none }) := by
  have hno : ¬((s.gang gi).stand ≠ .done ∧ (s.gang gi).stand ≠ .faulted) := by
    rcases hend with h | h <;> simp [h]
  simp only [exec, execChildEnd, hp, if_neg hno, State.gang_setGang_other _ _ _ _ hne, if_pos hgone]

/-- The end of a child completes its parent's arrival word, with value 3 or the code of its fault (R40, R42). -/
theorem childEnd_tells {pg acc lcore w : Nat} (hp : (s.gang gi).parent = some (pg, acc, lcore, w))
    (hend : (s.gang gi).stand = .done ∨ (s.gang gi).stand = .faulted) (hne : pg ≠ gi) (hheld : (s.gang pg).held = true)
    (hacc : (s.gang pg).accept = acc) (hsaved : (s.gang pg).saved = []) :
    exec (.childEnd gi) s = .next ((s.setGang gi { s.gang gi with parent := none }).awDone
      ((s.gang pg).coachAt (lcore / 16) * 16 + lcore % 16) w (if (s.gang gi).stand = .done then 3 else (s.gang gi).code * 256 + 4)
      (if (s.gang gi).stand = .done then 0 else 5) ((s.gang gi).accept / 4096 * 2 ^ 64)) := by
  have hno : ¬((s.gang gi).stand ≠ .done ∧ (s.gang gi).stand ≠ .faulted) := by
    rcases hend with h | h <;> simp [h]
  have hhere : ¬((s.gang pg).held = false ∨ (s.gang pg).accept ≠ acc) := by simp [hheld, hacc]
  simp only [exec, execChildEnd, hp, if_neg hno, State.gang_setGang_other _ _ _ _ hne, if_neg hhere]
  rw [if_neg (by simp [hsaved])]
  rcases hend with h | h
  · simp only [h, if_true]
  · rw [Gang.code]
    cases (s.gang gi).fault <;> simp [h]

/-- An arrival word that no operation of this cycle has completed takes the value and the status (R164). -/
theorem State.awDone_word (s : State) (c k val stat start : Nat) (h : (lookupD (0, 0) (s.ctl c).awFirst k).1 ≠ s.cyc + 1) :
    ((s.awDone c k val stat start).ctl c).sr.get (0x080 + k) = awComplete ((s.ctl c).sr.get (0x080 + k)) val stat := by
  have hearlier : (stat != 0 && decide ((lookupD (0, 0) (s.ctl c).awFirst k).1 = s.cyc + 1) &&
      decide (start < (lookupD (0, 0) (s.ctl c).awFirst k).2)) = false := by simp [h]
  rw [State.awDone, State.ctl_setCtl_self]
  refine (Bits.get_put_self ..).trans ?_
  simp only [awUpdate, hearlier, Bool.false_eq_true, if_false]

theorem State.awDone_otherWord (s : State) (c k val stat start : Nat) {r : Nat} (h : r ≠ 0x080 + k) :
    ((s.awDone c k val stat start).ctl c).sr.get r = (s.ctl c).sr.get r := by
  rw [State.awDone, State.ctl_setCtl_self]
  exact Bits.get_put_other _ _ _ _ h

theorem State.awDone_onlyCore (s : State) (c k val stat start : Nat) : OnlyCore s (s.awDone c k val stat start) c :=
  ⟨rfl, fun i hi => State.core_setCtl_other s c i _ hi⟩

end

/-! ## The load of a context -/

/-- What the load of a coach's storage leaves alone: cores, gangs and the other coaches; of the coach only the ranges of capacity that `.data` has
written differ (R28, R124). -/
def LoadsStorage (coach : Nat) (s t : State) : Prop :=
  t.cores = s.cores ∧ t.gangs = s.gangs ∧ (∀ c, c ≠ coach → t.coach c = s.coach c) ∧ (t.coach coach).ph = (s.coach coach).ph

section
variable {coach : Nat} {s t : State}

theorem LoadsStorage.trans {u : State} (h : LoadsStorage coach s t) (k : LoadsStorage coach t u) : LoadsStorage coach s u := by
  obtain ⟨hcores, hgangs, hother, hself⟩ := h
  obtain ⟨kcores, kgangs, kother, kself⟩ := k
  exact ⟨kcores.trans hcores, kgangs.trans hgangs, fun c hc => (kother c hc).trans (hother c hc), kself.trans hself⟩

theorem OnlyStorage.loadsStorage (h : OnlyStorage s t) : LoadsStorage coach s t := by
  obtain ⟨hcores, hcoaches, hgangs⟩ := h.parts
  exact ⟨hcores, hgangs, fun c _ => State.coach_congr hcoaches c, congrArg Coach.ph (State.coach_congr hcoaches coach)⟩

theorem State.clearHome_onlyStorage (s : State) (coach : Nat) (e : MapEntry) : OnlyStorage s (s.clearHome coach e) := by
  unfold State.clearHome
  split
  · exact s.onlyStorage_mem _
  · dsimp only
    split
    · exact .refl s
    · exact s.onlyStorage_mem _
  · exact .refl s

theorem State.placeChunk_loadsStorage (s : State) (coach ph0 : Nat) (c : Nat × List Byte) : LoadsStorage coach s (s.placeChunk coach ph0 c) := by
  unfold State.placeChunk
  extract_lets ps cells k
  refine LoadsStorage.trans (t := s.setCoach coach { k with kept := k.kept ++ ps.flatMap keptRange }) ⟨rfl, rfl, fun c hc => ?_, ?_⟩
    (OnlyStorage.loadsStorage (State.notePages_onlyStorage _ _))
  · exact s.coach_setCoach_other coach c _ hc
  · rw [State.coach_setCoach_self]

/-- A core at the entry of its gang's image (R28). -/
def State.entryCore (s : State) (gi coach : Nat) : Core :=
  coreAtEntry (s.gang gi) (s.entryLine (gi / 64) (s.gang gi).image) (parseDict (s.sectionBytes (gi / 64) (s.gang gi).image 2))
    (mkFld 0 1 (fld ((s.die (dieOf coach)).regs.get (0x2200 + 8 * (s.gang gi).tenant)) 0 1))

/-- Every core of a coach is set and its control memory loaded (R13, R28). -/
def State.loadCore (x : Core) (die img : Nat) (s : State) (c : Nat) : State := (s.setCore c x).loadControl die img c

theorem loadCores_core (x : Core) (die img i : Nat) (l : List Nat) (s : State) :
    (l.foldl (State.loadCore x die img) s).core i = if i ∈ l then x else s.core i := by
  split
  next hi =>
    exact foldl_repeats (f := State.loadCore x die img) (get := fun t : State => t.core i) (R := fun _ y => y = x) hi
      (fun t j hj => t.core_setCore_other j i x hj.symm) (fun t => t.core_setCore_self i x) (fun _ _ _ _ h => h) s
  next hi =>
    exact foldl_frame (f := State.loadCore x die img) (fun t : State => t.core i)
      (fun t j hj => t.core_setCore_other j i x fun e => hi (e ▸ hj)) s

theorem loadCores_frame (x : Core) (die img : Nat) (l : List Nat) (s : State) :
    (l.foldl (State.loadCore x die img) s).gangs = s.gangs ∧ (l.foldl (State.loadCore x die img) s).coaches = s.coaches :=
  foldl_inv (f := State.loadCore x die img) (I := fun t : State => t.gangs = s.gangs ∧ t.coaches = s.coaches) (fun _ _ _ ht => ht) ⟨rfl, rfl⟩

/-- A coach with the maps of its image, in the phase of its record. -/
def Coach.mapped (k : Coach) (maps : List (List MapEntry)) (ph0 : Nat) : Coach :=
  { k with phases := maps, kept := [], ph := { Phase.reset with pht := ph0 } }

/-- A load sets the coach and its cores, and then its storage (R28, R124). -/
theorem State.loadContext_storage {gi : Nat} (h : (s.coach coach).gang = some gi) : ∃ maps, LoadsStorage coach
    ((coresOf coach).foldl (State.loadCore (s.entryCore gi coach) (gi / 64) (s.gang gi).image)
      (s.setCoach coach ((s.coach coach).mapped maps (s.gang gi).ph0))) (s.loadContext coach) := by
  unfold State.loadContext
  extract_lets k
  split
  next hn => exact absurd (h.symm.trans hn) (Option.some_ne_none gi)
  next gi' hg =>
    obtain rfl : gi = gi' := Option.some.inj (h.symm.trans hg)
    extract_lets g home img maps hpol core s1 s2 s3 s4 s5 data
    have h4 : OnlyStorage s2 s4 := (s2.onlyStorage_mem _).trans (foldl_onlyStorage (fun u e => u.clearHome_onlyStorage coach e) _ s3)
    have h5 : OnlyStorage s2 s5 := h4.trans (s4.onlyStorage_mem _)
    refine ⟨maps, foldl_inv (f := fun (u : State) (c : Nat × List Byte) => u.placeChunk coach g.ph0 c) (I := LoadsStorage coach s2)
      (fun u c _ hu => hu.trans (u.placeChunk_loadsStorage coach g.ph0 c)) h5.loadsStorage⟩

/-- A context that has been loaded: the cores of its coach stand at their entry, and its phase state at the phase of the record (R28, R124). -/
theorem State.loadContext_parts {gi : Nat} (h : (s.coach coach).gang = some gi) :
    (s.loadContext coach).gangs = s.gangs ∧ (∀ c, c ≠ coach → (s.loadContext coach).coach c = s.coach c) ∧
    ((s.loadContext coach).coach coach).ph.pht = (s.gang gi).ph0 ∧
    ∀ i, (s.loadContext coach).core i = if coachOf i = coach then s.entryCore gi coach else s.core i := by
  obtain ⟨maps, hcores, hgangs, hother, hself⟩ := State.loadContext_storage h
  obtain ⟨kgangs, kcoaches⟩ := loadCores_frame (s.entryCore gi coach) (gi / 64) (s.gang gi).image (coresOf coach)
    (s.setCoach coach ((s.coach coach).mapped maps (s.gang gi).ph0))
  refine ⟨hgangs.trans kgangs, fun c hc => ?_, ?_, fun i => ?_⟩
  · rw [hother c hc, State.coach_congr kcoaches, State.coach_setCoach_other _ _ _ _ hc]
  · rw [hself, State.coach_congr kcoaches, State.coach_setCoach_self]
    rfl
  · rw [State.core_congr hcores, loadCores_core]
    simp only [mem_coresOf]
    rfl

/-- A coach that has loaded its context. -/
def State.markLoaded (s : State) (coach : Nat) : State := s.setCoach coach { s.coach coach with stand := .loaded }

theorem State.markLoaded_loaded (s : State) (coach c : Nat) :
    (((s.markLoaded coach).coach c).stand == .loaded) = (c == coach || (s.coach c).stand == .loaded) := by
  rw [State.markLoaded, State.coach_setCoach]
  by_cases hc : c = coach <;> simp [hc]

theorem contextLoaded_of {gi due : Nat} (hst : (s.coach coach).stand = .loading due) (hg : (s.coach coach).gang = some gi)
    (hdue : due ≤ s.cyc) : exec (.contextLoaded coach) s =
      let s2 := (s.loadContext coach).markLoaded coach
      .next (if (s2.gang gi).coaches.all (fun c => (s2.coach c).stand == .loaded) then s2.sendTicks gi (startTick s.cyc) false else s2) := by
  simp only [exec, execContextLoaded, hst, hg, if_neg (Nat.not_lt.2 hdue)]
  exact (apply_ite Host.Outcome.next ..).symm

/-- A coach that has loaded its context reports it, and after the last report the gang is given its start tick (R35). -/
theorem contextLoaded_reports {gi due : Nat} (hst : (s.coach coach).stand = .loading due) (hg : (s.coach coach).gang = some gi)
    (hdue : due ≤ s.cyc) (hmem : coach ∈ (s.gang gi).coaches) : Answers (.contextLoaded coach) s fun t =>
      (∀ i, coachOf i ≠ coach → t.core i = s.core i) ∧ (∀ i, coachOf i = coach → t.core i = s.entryCore gi coach) ∧
      (t.coach coach).ph.pht = (s.gang gi).ph0 ∧
      (((s.gang gi).coaches.all fun c => c == coach || (s.coach c).stand == .loaded) = false →
        (t.coach coach).stand = .loaded ∧ t.gang gi = s.gang gi) ∧
      (((s.gang gi).coaches.all fun c => c == coach || (s.coach c).stand == .loaded) = true → (t.gang gi).stand = .starting ∧
        (t.gang gi).tick = startTick s.cyc ∧ ∃ rx, (t.coach coach).stand = .ready (startTick s.cyc) rx false) := by
  have hrun := contextLoaded_of hst hg hdue
  obtain ⟨hgangs, hother, hpht, hcore⟩ := State.loadContext_parts hg
  generalize s.loadContext coach = s1 at hrun hgangs hother hpht hcore
  dsimp only at hrun
  have hother' (c : Nat) : (c == coach || (s1.coach c).stand == .loaded) = (c == coach || (s.coach c).stand == .loaded) := by
    by_cases hc : c = coach
    · simp [hc]
    · rw [hother c hc]
  simp only [State.markLoaded_loaded, hother'] at hrun
  have hself : (s1.markLoaded coach).coach coach = { s1.coach coach with stand := .loaded } := s1.coach_setCoach_self coach _
  have hgang : (s1.markLoaded coach).gang gi = s.gang gi := State.gang_congr hgangs gi
  rw [hgang] at hrun
  have hcores : (∀ i, coachOf i ≠ coach → (s1.markLoaded coach).core i = s.core i) ∧
      ∀ i, coachOf i = coach → (s1.markLoaded coach).core i = s.entryCore gi coach :=
    ⟨fun i hi => (hcore i).trans (if_neg hi), fun i hi => (hcore i).trans (if_pos hi)⟩
  have hpht2 : ((s1.markLoaded coach).coach coach).ph.pht = (s.gang gi).ph0 := by rw [hself]; exact hpht
  generalize s1.markLoaded coach = s2 at hrun hself hgang hcores hpht2
  split at hrun
  next hall =>
    obtain ⟨rx, hrx⟩ := State.sendTicks_coach (s := s2) (hgang ▸ hmem) (startTick s.cyc) false
    have hc := s2.sendTicks_cores gi (startTick s.cyc) false
    refine ⟨_, hrun, fun i hi => (State.core_congr hc i).trans (hcores.1 i hi), fun i hi => (State.core_congr hc i).trans (hcores.2 i hi),
      ?_, fun hno => absurd hall (by simp [hno]), fun _ => ?_⟩
    · rw [hrx]; exact hpht2
    · rw [State.sendTicks_gang, hrx]
      exact ⟨rfl, rfl, rx, rfl⟩
  next hall =>
    exact ⟨_, hrun, hcores.1, hcores.2, hpht2, fun _ => ⟨congrArg Coach.stand hself, hgang⟩, fun hyes => absurd hyes hall⟩

end

end Sys2Proof.Machine
end

section
/-! PROOFS of the statements of the family 01_kernel_image, eighth part: holds of coaches, and the placement of gangs (R30 to R34, R38). -/

namespace Sys2Proof.Machine

/-! ## What placement looks at -/

/-- The gangs, the coaches, the packages, the registers and the holds of gangs that may be tried are the same. -/
structure SamePlaces (s t : State) : Prop where
  gangs : t.gangs = s.gangs
  coaches : t.coaches = s.coaches
  present : t.present = s.present
  regs : ∀ d, (t.die d).regs = (s.die d).regs
  holds : ∀ d h, s.mayTry h.2.1 = true → (h ∈ (t.die d).holds ↔ h ∈ (s.die d).holds)

theorem SamePlaces.refl (s : State) : SamePlaces s s := ⟨rfl, rfl, rfl, fun _ => rfl, fun _ _ _ => Iff.rfl⟩

namespace SamePlaces

variable {s t u : State} (h : SamePlaces s t)
include h

theorem gang : t.gang = s.gang := funext (State.gang_congr h.gangs)

theorem coach : t.coach = s.coach := funext (State.coach_congr h.coaches)

theorem tq (d i : Nat) : (t.die d).tq i = (s.die d).tq i := by rw [Die.tq, Die.tq, h.regs]

theorem mayTry : t.mayTry = s.mayTry := by
  funext i
  rw [State.mayTry, State.mayTry, h.gang, h.tq]

theorem trans (k : SamePlaces t u) : SamePlaces s u :=
  ⟨k.gangs.trans h.gangs, k.coaches.trans h.coaches, k.present.trans h.present, fun d => (k.regs d).trans (h.regs d),
    fun d x hx => (k.holds d x (by rwa [h.mayTry])).trans (h.holds d x hx)⟩

theorem rsvs (d : Nat) : (t.die d).rsvs = (s.die d).rsvs := by
  have hrsv : (t.die d).rsv = (s.die d).rsv := by
    funext k
    rw [Die.rsv, Die.rsv, h.regs]
  rw [Die.rsvs, Die.rsvs, hrsv]

theorem reservedTo : t.reservedTo = s.reservedTo := by
  funext c
  rw [State.reservedTo, State.reservedTo, State.resvOf, State.resvOf, h.rsvs]

theorem onResv : t.onResv = s.onResv := by
  funext g c
  rw [State.onResv, State.onResv, h.reservedTo]

theorem plainOk : t.plainOk = s.plainOk := by
  funext g c
  rw [State.plainOk, State.plainOk, h.reservedTo]

theorem holdKey : t.holdKey = s.holdKey := by
  funext i
  rw [State.holdKey, State.holdKey, h.gang]

theorem awayOn : t.awayOn = s.awayOn := by
  funext i c
  rw [State.awayOn, State.awayOn, h.gangs, h.gang, h.onResv]

/-- The holds of gangs that may not be tried keep no coach from a gang, so that their release changes nothing (R30, R34). -/
theorem heldFrom : t.heldFrom = s.heldFrom := by
  funext i c
  rw [Bool.eq_iff_iff, State.heldFrom, State.heldFrom, List.any_eq_true, List.any_eq_true, h.holdKey, h.mayTry]
  refine exists_congr fun x => ⟨fun ⟨hx, hc⟩ => ⟨?_, hc⟩, fun ⟨hx, hc⟩ => ⟨?_, hc⟩⟩
  · exact (h.holds _ x ((Bool.and_eq_true ..).mp hc).2).1 hx
  · exact (h.holds _ x ((Bool.and_eq_true ..).mp hc).2).2 hx

theorem coachFree : t.coachFree = s.coachFree := by
  funext i c
  rw [State.coachFree, State.coachFree, h.coach, h.awayOn, h.heldFrom]

theorem classThree : t.classThree = s.classThree := by
  funext i c
  rw [State.classThree, State.classThree, h.coach, h.gang]

theorem occupants : t.occupants = s.occupants := by
  funext i l
  rw [State.occupants, State.occupants, h.classThree, h.coach]

theorem tenantCoaches : t.tenantCoaches = s.tenantCoaches := by
  have hheld : t.coachesHeld = s.coachesHeld := by
    funext i
    rw [State.coachesHeld, State.coachesHeld, h.gang, h.coach]
  funext i
  rw [State.tenantCoaches, State.tenantCoaches, h.gangs, hheld]

theorem oldest : t.oldest = s.oldest := by
  funext d c
  rw [State.oldest, State.oldest, h.gang, h.mayTry]

theorem needs : t.needs = s.needs := by
  funext i
  rw [State.needs, State.needs, h.gang, h.present, h.plainOk, h.onResv, h.reservedTo]

theorem ownFirst : t.ownFirst = s.ownFirst := by
  funext d i l
  rw [State.ownFirst, State.ownFirst, h.gang, h.oldest, h.holdKey, h.needs]

theorem choose : t.choose = s.choose := by
  funext i l
  rw [State.choose, State.choose, State.diesFrom, State.diesFrom, State.others, State.others, h.gang, h.present, h.coachFree, h.plainOk,
    h.onResv, h.reservedTo, h.classThree]

end SamePlaces

end Sys2Proof.Machine
end

section
/-! PROOFS of the statements of the family 01_kernel_image, ninth part: holds that are released, revoked, asked for and committed (R33, R34). -/

namespace Sys2Proof.Machine

/-! ## Release -/

/-- A die without the holds of a gang. -/
def Die.releaseHolds (d : Die) (gi : Nat) : Die := { d with holds := d.holds.filter fun h => h.2.1 != gi }

theorem Die.mem_releaseHolds {d : Die} {gi : Nat} {h : Nat × Nat × Nat} : h ∈ (d.releaseHolds gi).holds ↔ h ∈ d.holds ∧ h.2.1 ≠ gi := by
  simp [Die.releaseHolds]

theorem Die.releaseHolds_idem (d : Die) (gi : Nat) : (d.releaseHolds gi).releaseHolds gi = d.releaseHolds gi := by
  simp [Die.releaseHolds]

theorem Die.releaseHolds_none {d : Die} {gi : Nat} (h : d.holds.any (fun x => x.2.1 == gi) = false) : d.releaseHolds gi = d := by
  have hall : d.holds.filter (fun x => x.2.1 != gi) = d.holds :=
    List.filter_eq_self.2 fun x hx => by simpa [bne] using List.any_eq_false.1 h x hx
  rw [Die.releaseHolds, hall]

/-- The release of a gang's holds on one die. -/
def State.releaseOn (gi : Nat) (s : State) (d : Nat) : State :=
  if (s.die d).holds.any fun h => h.2.1 == gi then s.setDie d ((s.die d).releaseHolds gi) else s

theorem State.releaseOn_die (gi : Nat) (s : State) (d i : Nat) :
    (s.releaseOn gi d).die i = if i = d then (s.die d).releaseHolds gi else s.die i := by
  unfold State.releaseOn
  split
  · exact s.die_setDie d i _
  next h =>
    split
    next hi => rw [hi, Die.releaseHolds_none (Bool.eq_false_iff.2 h)]
    next => rfl

theorem State.releaseHolds_eq (s : State) (gi : Nat) : s.releaseHolds gi = s.present.foldl (State.releaseOn gi) s := rfl

theorem State.releaseHolds_dies (s : State) (gi : Nat) : s.releaseHolds gi = { s with dies := (s.releaseHolds gi).dies } :=
  foldl_dies (f := State.releaseOn gi) (fun t d => by
    unfold State.releaseOn
    split <;> rfl) s.present s

/-- A release takes a gang's holds from every die of the domain (R34). -/
theorem State.releaseHolds_die (s : State) (gi i : Nat) :
    (s.releaseHolds gi).die i = if i ∈ s.present then (s.die i).releaseHolds gi else s.die i := by
  rw [State.releaseHolds_eq]
  split
  next hi =>
    exact foldl_repeats (f := State.releaseOn gi) (get := fun t : State => t.die i) (R := fun x y => y = x.releaseHolds gi) hi
      (fun t j hj => (t.releaseOn_die gi j i).trans (if_neg hj.symm)) (fun t => (t.releaseOn_die gi i i).trans (if_pos rfl))
      (fun x y z hy hz => by rw [hz, hy, Die.releaseHolds_idem]) s
  next hi =>
    exact foldl_frame (f := State.releaseOn gi) (fun t : State => t.die i)
      (fun t j hj => (t.releaseOn_die gi j i).trans (if_neg fun e : i = j => hi (e ▸ hj))) s

/-- Some gangs go back to waiting, and some holds are released; nothing else changes. -/
structure GivesUpHolds (s t : State) : Prop where
  eq : t = { s with gangs := t.gangs, dies := t.dies }
  die : ∀ d, t.die d = { s.die d with holds := (t.die d).holds }
  sub : ∀ d, ∀ h ∈ (t.die d).holds, h ∈ (s.die d).holds

theorem GivesUpHolds.refl (s : State) : GivesUpHolds s s := ⟨rfl, fun _ => rfl, fun _ _ h => h⟩

theorem GivesUpHolds.trans {s t u : State} (h : GivesUpHolds s t) (k : GivesUpHolds t u) : GivesUpHolds s u :=
  ⟨by rw [k.eq, h.eq], fun d => by rw [k.die, h.die], fun d x hx => h.sub d x (k.sub d x hx)⟩

theorem GivesUpHolds.parts {s t : State} (h : GivesUpHolds s t) :
    t.cores = s.cores ∧ t.coaches = s.coaches ∧ t.net = s.net ∧ t.present = s.present ∧ t.cyc = s.cyc ∧ t.delays = s.delays := by
  rw [h.eq]
  exact ⟨rfl, rfl, rfl, rfl, rfl, rfl⟩

theorem State.releaseHolds_givesUp (s : State) (gi : Nat) : GivesUpHolds s (s.releaseHolds gi) := by
  refine ⟨by rw [s.releaseHolds_dies gi], fun d => ?_, fun d h hh => ?_⟩
  · rw [State.releaseHolds_die]
    split <;> rfl
  · rw [State.releaseHolds_die] at hh
    split at hh
    · exact (Die.mem_releaseHolds.1 hh).1
    · exact hh

theorem State.releaseHolds_gang (s : State) (gi i : Nat) : (s.releaseHolds gi).gang i = s.gang i := by
  rw [s.releaseHolds_dies gi]
  rfl

/-- After its release a gang has no hold left in the domain. -/
theorem State.releaseHolds_free {s : State} {gi y : Nat} (hy : y ∈ s.present) : ∀ h ∈ ((s.releaseHolds gi).die y).holds, h.2.1 ≠ gi := by
  intro h hh
  rw [State.releaseHolds_die, if_pos hy] at hh
  exact (Die.mem_releaseHolds.1 hh).2

/-- The release of the holds of a gang that may not be tried changes nothing that placement looks at. -/
theorem State.releaseHolds_samePlaces {s : State} {gi : Nat} (h : s.mayTry gi = false) : SamePlaces s (s.releaseHolds gi) := by
  have hup := s.releaseHolds_givesUp gi
  obtain ⟨_, hcoaches, _, hpresent, _⟩ := hup.parts
  refine ⟨by rw [s.releaseHolds_dies gi], hcoaches, hpresent, fun d => by rw [hup.die], fun d x hx => ⟨hup.sub d x, fun hh => ?_⟩⟩
  rw [State.releaseHolds_die]
  split
  · exact Die.mem_releaseHolds.2 ⟨hh, fun e => by rw [e, h] at hx; cases hx⟩
  · exact hh

/-! ## Back to waiting -/

/-- A gang that was to be placed waits again, to start or to resume (R34, R42). -/
def Gang.backToWait (g : Gang) : Gang :=
  if g.stand = .holding then
    if g.away then { g with stand := .preempted, grants := [] } else { g with stand := .waiting, dies := [], coaches := [], grants := [] }
  else g

theorem Gang.backToWait_idem (g : Gang) : g.backToWait.backToWait = g.backToWait := by
  unfold Gang.backToWait
  by_cases h : g.stand = .holding <;> cases ha : g.away <;> simp [h]

theorem Gang.away_of_holding {g : Gang} (h : g.stand = .holding) : g.away = true ↔ g.saved ≠ [] := by
  simp [Gang.away, h]

/-- A gang that gives up its holds waits to resume when it has contexts saved, and to start otherwise. -/
theorem Gang.backToWait_holding {g : Gang} (h : g.stand = .holding) :
    g.backToWait.stand = (if g.saved = [] then GStand.waiting else .preempted) ∧ g.backToWait.grants = [] := by
  have haway := Gang.away_of_holding h
  unfold Gang.backToWait
  by_cases hs : g.saved = []
  · have ha : ¬g.away = true := by simp [haway, hs]
    simp [h, hs, ha]
  · have ha : g.away = true := haway.2 hs
    simp [h, hs, ha]

variable {s : State} {gi : Nat}

theorem State.backToWait_holding (h : (s.gang gi).stand = .holding) :
    s.backToWait gi = (s.setGang gi (s.gang gi).backToWait).releaseHolds gi := by
  simp only [State.backToWait, h, Gang.backToWait, if_true]

theorem State.backToWait_other (h : (s.gang gi).stand ≠ .holding) : s.backToWait gi = s.releaseHolds gi ∨ s.backToWait gi = s := by
  simp only [State.backToWait]
  split
  next hh => exact absurd hh h
  next => exact Or.inl rfl
  next => exact Or.inl rfl
  next => exact Or.inr rfl

theorem State.backToWait_gang (s : State) (gi i : Nat) : (s.backToWait gi).gang i = if i = gi then (s.gang gi).backToWait else s.gang i := by
  by_cases h : (s.gang gi).stand = .holding
  · rw [State.backToWait_holding h, State.releaseHolds_gang]
    exact s.gang_setGang gi i _
  · have hg : (s.backToWait gi).gang i = s.gang i := by
      rcases State.backToWait_other h with e | e <;> rw [e]
      exact s.releaseHolds_gang gi i
    rw [hg, Gang.backToWait, if_neg h]
    split
    next hi => rw [hi]
    next => rfl

theorem State.setGang_givesUp (s : State) (gi : Nat) (g : Gang) : GivesUpHolds s (s.setGang gi g) := ⟨rfl, fun _ => rfl, fun _ _ h => h⟩

theorem State.backToWait_givesUp (s : State) (gi : Nat) : GivesUpHolds s (s.backToWait gi) := by
  by_cases h : (s.gang gi).stand = .holding
  · rw [State.backToWait_holding h]
    exact (s.setGang_givesUp gi _).trans (State.releaseHolds_givesUp _ gi)
  · rcases State.backToWait_other h with e | e <;> rw [e]
    · exact s.releaseHolds_givesUp gi
    · exact .refl s

/-! ## Revocation -/

/-- The gangs that a hold revokes: those of other holds on its coaches (R34). -/
def State.revoked (s : State) (gi die : Nat) (coaches : List Nat) : List Nat :=
  (((s.die die).holds.filter fun h => coaches.contains h.1 && h.2.1 != gi).map (·.2.1)).eraseDups

theorem State.mem_revoked {die i : Nat} {coaches : List Nat} :
    i ∈ s.revoked gi die coaches ↔ ∃ h ∈ (s.die die).holds, h.1 ∈ coaches ∧ h.2.1 ≠ gi ∧ h.2.1 = i := by
  simp [State.revoked, List.mem_eraseDups, and_assoc]

theorem State.revoke_eq (s : State) (gi die : Nat) (coaches : List Nat) :
    s.revoke gi die coaches = (s.revoked gi die coaches).foldl State.backToWait s := rfl

theorem State.revoke_givesUp (s : State) (gi die : Nat) (coaches : List Nat) : GivesUpHolds s (s.revoke gi die coaches) :=
  foldl_inv (f := State.backToWait) (I := GivesUpHolds s) (fun t i _ ht => ht.trans (t.backToWait_givesUp i)) (.refl s)

/-- A gang whose hold is revoked goes back to waiting, and every other stays. -/
theorem State.revoke_gang (s : State) (gi die : Nat) (coaches : List Nat) (i : Nat) :
    (s.revoke gi die coaches).gang i = if i ∈ s.revoked gi die coaches then (s.gang i).backToWait else s.gang i := by
  rw [State.revoke_eq]
  split
  next hi =>
    exact foldl_repeats (f := State.backToWait) (get := fun t : State => t.gang i) (R := fun x y => y = x.backToWait) hi
      (fun t j hj => (t.backToWait_gang j i).trans (if_neg hj.symm)) (fun t => (t.backToWait_gang i i).trans (if_pos rfl))
      (fun x y z hy hz => by rw [hz, hy, Gang.backToWait_idem]) s
  next hi =>
    exact foldl_frame (f := State.backToWait) (fun t : State => t.gang i)
      (fun t j hj => (t.backToWait_gang j i).trans (if_neg fun e : i = j => hi (e ▸ hj))) s

theorem State.revoke_gang_self (s : State) (gi die : Nat) (coaches : List Nat) : (s.revoke gi die coaches).gang gi = s.gang gi := by
  rw [State.revoke_gang, if_neg fun h => ?_]
  obtain ⟨_, _, _, hne, he⟩ := State.mem_revoked.1 h
  exact hne he

theorem State.revoke_none {die : Nat} (h : (s.die die).holds = []) (gi : Nat) (coaches : List Nat) : s.revoke gi die coaches = s := by
  rw [State.revoke_eq, State.revoked, h]
  rfl

/-! ## Holds that are taken and asked for -/

/-- A die on which a gang holds coaches. -/
def Die.hold (d : Die) (gi key : Nat) (coaches : List Nat) : Die :=
  { d with holds := (d.holds.filter fun h => !(coaches.contains h.1 && h.2.1 == gi)) ++ coaches.map fun c => (c, gi, key) }

theorem State.hold_eq (s : State) (gi key die : Nat) (coaches : List Nat) : s.hold gi key die coaches =
    (s.revoke gi die coaches).setDie die (((s.revoke gi die coaches).die die).hold gi key coaches) := rfl

theorem Die.mem_hold (d : Die) (gi key : Nat) {coaches : List Nat} {c : Nat} (h : c ∈ coaches) : (c, gi, key) ∈ (d.hold gi key coaches).holds :=
  List.mem_append.2 (Or.inr (List.mem_map.2 ⟨c, h, rfl⟩))

theorem State.askHolds_onlyMessages (gi key try_ : Nat) (l : List (Nat × List Nat)) (s : State) : OnlyMessages s (s.askHolds gi key try_ l) := by
  induction l generalizing s with
  | nil => exact .refl s
  | cons p l ih =>
    rw [State.askHolds]
    refine OnlyMessages.trans ?_ (ih _)
    split
    · exact .refl s
    · exact s.send_onlyMessages _

theorem OnlyMessages.parts {s t : State} (h : OnlyMessages s t) :
    t.gangs = s.gangs ∧ t.coaches = s.coaches ∧ t.cores = s.cores ∧ t.dies = s.dies := by
  rw [h]
  exact ⟨rfl, rfl, rfl, rfl⟩

/-! ## The begin of a placement -/

/-- A gang that asks for the coaches of its dies (R34). -/
def Gang.asks (g : Gang) (home try_ : Nat) (l : List (Nat × List Nat)) : Gang :=
  { g with stand := .holding, dies := l.map (·.1), coaches := l.flatMap (·.2), try_ := try_, grants := [home] }

/-- Where no coach of the home die is held, a gang takes those that it needs there, and asks for the others (R34). -/
theorem State.startHolds_begins (h : (s.die (gi / 64)).holds = []) (l : List (Nat × List Nat)) :
    let t := s.startHolds gi l
    t.gang gi = (s.gang gi).asks (gi / 64) s.uid l ∧ (∀ i, i ≠ gi → t.gang i = s.gang i) ∧ t.cores = s.cores ∧ t.coaches = s.coaches ∧
    ∀ c ∈ l.flatMap (·.2), dieOf c = gi / 64 → (c, gi, s.holdKey gi) ∈ (t.die (gi / 64)).holds := by
  let s1 : State := { s.setGang gi ((s.gang gi).asks (gi / 64) s.uid l) with uid := s.uid + 1 }
  let mine := (l.flatMap (·.2)).filter fun c => dieOf c == gi / 64
  have ht : s.startHolds gi l = (s1.hold gi (s.holdKey gi) (gi / 64) mine).askHolds gi (s.holdKey gi) s.uid l := rfl
  have hhold : s1.hold gi (s.holdKey gi) (gi / 64) mine = s1.setDie (gi / 64) ((s1.die (gi / 64)).hold gi (s.holdKey gi) mine) := by
    rw [State.hold_eq, State.revoke_none (s := s1) h]
  have hask := State.askHolds_onlyMessages gi (s.holdKey gi) s.uid l (s1.hold gi (s.holdKey gi) (gi / 64) mine)
  rw [← ht, hhold] at hask
  obtain ⟨hgangs, hcoaches, hcores, hdies⟩ := hask.parts
  refine ⟨(State.gang_congr hgangs gi).trans (s.gang_setGang_self gi _), fun i hi => (State.gang_congr hgangs i).trans
    (s.gang_setGang_other gi i _ hi), hcores, hcoaches, fun c hc hdie => ?_⟩
  rw [State.die_congr hdies, State.die_setDie_self]
  exact Die.mem_hold _ _ _ (List.mem_filter.2 ⟨hc, beq_iff_eq.2 hdie⟩)

end Sys2Proof.Machine
end

section
/-! PROOFS of the statements of the family 01_kernel_image, tenth part: the placement of a gang, hold requests and their commit (R32 to R34). -/

namespace Sys2Proof.Machine

section
variable {s : State} {gi die : Nat}

/-! ## Placement -/

theorem gangPlacement_off (h : (s.die die).unitOn = false) : exec (.gangPlacement die) s = .next s := if_neg (by simp [h])

/-- Gangs that may not be tried give up their holds (R30). -/
def State.giveUp (s : State) (gi : Nat) : State := if s.mayTry gi then s else s.backToWait gi

theorem gangPlacement_of (h : (s.die die).unitOn = true) :
    exec (.gangPlacement die) s = .next (((slotsOf die).foldl State.giveUp s).placeFrom die [0, 1, 2, 3] []) := if_pos h

/-- What the gangs that may not be tried leave when none of them is to be placed: less holds, and nothing that placement looks at. -/
structure Idles (s t : State) : Prop where
  same : SamePlaces s t
  eq : t = { s with dies := t.dies }
  sub : ∀ d, ∀ h ∈ (t.die d).holds, h ∈ (s.die d).holds

theorem giveUps_idles (l : List Nat) (h : ∀ i ∈ l, (s.gang i).stand = .holding → s.mayTry i = true) : Idles s (l.foldl State.giveUp s) := by
  refine foldl_inv (f := State.giveUp) (I := Idles s) (fun t i hi ht => ?_) ⟨.refl s, rfl, fun _ _ hh => hh⟩
  unfold State.giveUp
  split
  · exact ht
  next hmay =>
    have hmay' : t.mayTry i = false := Bool.eq_false_iff.2 hmay
    have hst : (t.gang i).stand ≠ .holding := by
      rw [ht.same.gang]
      intro hh
      rw [ht.same.mayTry, h i hi hh] at hmay
      exact hmay rfl
    rcases State.backToWait_other hst with e | e
    · rw [e]
      have hup := t.releaseHolds_givesUp i
      refine ⟨ht.same.trans (State.releaseHolds_samePlaces hmay'), ?_, fun d x hx => ht.sub d x (hup.sub d x hx)⟩
      rw [t.releaseHolds_dies i, ht.eq]
    · rw [e]; exact ht

theorem State.placeFrom_places {s1 : State} {c : Nat} {rest blocked : List Nat} (h : s.oldest die c = some gi) (hst : (s.gang gi).stand ≠ .holding)
    (htry : s.tryPlace gi blocked = (none, s1)) : s.placeFrom die (c :: rest) blocked = s1 := by
  simp only [State.placeFrom, h, if_neg hst, htry]

/-- The quota of a gang's tenant leaves room for it (R30). -/
def State.QuotaAllows (s : State) (gi : Nat) : Prop :=
  s.tenantCoaches (s.gang gi).tenant + (s.gang gi).ncoach ≤ fld ((s.die (gi / 64)).tq (s.gang gi).tenant) 16 12

theorem State.tryPlace_waiting {blocked : List Nat} {b : Bool} {l : List (Nat × List Nat)} (hst : (s.gang gi).stand = .waiting)
    (hquota : s.QuotaAllows gi) (hchoose : s.choose gi blocked = (b, some l)) (hocc : s.occupants gi (l.flatMap (·.2)) = []) :
    s.tryPlace gi blocked = (none, s.startHolds gi l) := by
  have hno : (s.gang gi).stand ≠ .preempted := by rw [hst]; decide
  simp only [State.tryPlace, if_neg (Nat.not_lt.2 hquota), if_neg hno, hchoose, hocc, List.isEmpty_nil, if_true]

theorem State.tryPlace_preempted (hst : (s.gang gi).stand = .preempted) (hquota : s.QuotaAllows gi)
    (hfree : ∀ c ∈ (s.gang gi).coaches, s.coachFree gi c = true) : s.tryPlace gi [] = (none, s.startHolds gi (s.gang gi).byDie) := by
  have hall : ((s.gang gi).coaches.all fun c => s.coachFree gi c && !([] : List Nat).contains c) = true :=
    List.all_eq_true.2 fun c hc => by simp [hfree c hc]
  simp only [State.tryPlace, if_neg (Nat.not_lt.2 hquota), hst, if_true]
  rw [if_pos hall]

theorem Gang.mem_byDie {g : Gang} {c : Nat} (h : c ∈ g.coaches) : c ∈ g.byDie.flatMap (·.2) := by
  refine List.mem_flatMap.2 ⟨(dieOf c, g.coaches.filter fun x => dieOf x == dieOf c), ?_, List.mem_filter.2 ⟨h, beq_self_eq_true _⟩⟩
  exact List.mem_map.2 ⟨dieOf c, List.mem_eraseDups.2 (List.mem_map_of_mem h), rfl⟩

/-- A placement that succeeds in the first class begins with the holds of the gang (R32, R34). -/
theorem gangPlacement_begins {l : List (Nat × List Nat)} (hon : (s.die die).unitOn = true)
    (hidle : ∀ i ∈ slotsOf die, (s.gang i).stand = .holding → s.mayTry i = true) (hold : s.oldest die 0 = some gi) (hhome : gi / 64 = die)
    (hst : (s.gang gi).stand ≠ .holding) (hfree : (s.die die).holds = [])
    (htry : ∀ t, SamePlaces s t → t.tryPlace gi [] = (none, t.startHolds gi l)) :
    Answers (.gangPlacement die) s fun t => (∃ n, t.gang gi = (s.gang gi).asks die n l) ∧ (∀ i, i ≠ gi → t.gang i = s.gang i) ∧
      t.cores = s.cores ∧ t.coaches = s.coaches ∧ SameBytes s t ∧
      ∀ c ∈ l.flatMap (·.2), dieOf c = die → (c, gi, s.holdKey gi) ∈ (t.die die).holds := by
  subst hhome
  have hrun := gangPlacement_of hon
  have hs1 := giveUps_idles (slotsOf (gi / 64)) hidle
  generalize (slotsOf (gi / 64)).foldl State.giveUp s = s1 at hrun hs1
  obtain ⟨hsame, heq, hsub⟩ := hs1
  have hplace : s1.placeFrom (gi / 64) [0, 1, 2, 3] [] = s1.startHolds gi l :=
    State.placeFrom_places (by rw [hsame.oldest, hold]) (by rwa [hsame.gang]) (htry s1 hsame)
  have hfree1 : (s1.die (gi / 64)).holds = [] := by
    refine List.eq_nil_iff_forall_not_mem.2 fun x hx => ?_
    have := hsub _ x hx
    rw [hfree] at this
    exact List.not_mem_nil this
  obtain ⟨hgang, hother, hcores, hcoaches, hholds⟩ := State.startHolds_begins hfree1 l
  have hbytes : SameBytes s s1 := fun k => by rw [heq]
  rw [hplace] at hrun
  refine ⟨_, hrun, ⟨s1.uid, hgang.trans (by rw [hsame.gang])⟩, fun i hi => (hother i hi).trans (by rw [hsame.gang]), hcores.trans (by rw [heq]),
    hcoaches.trans hsame.coaches, fun k => ((s1.startHolds_same gi l).sameBytes k).trans (hbytes k), ?_⟩
  rwa [hsame.holdKey] at hholds

theorem gangPlacement_waiting {b : Bool} {l : List (Nat × List Nat)} (hon : (s.die die).unitOn = true)
    (hidle : ∀ i ∈ slotsOf die, (s.gang i).stand = .holding → s.mayTry i = true) (hold : s.oldest die 0 = some gi) (hhome : gi / 64 = die)
    (hst : (s.gang gi).stand = .waiting) (hquota : s.QuotaAllows gi) (hchoose : s.choose gi [] = (b, some l))
    (hocc : s.occupants gi (l.flatMap (·.2)) = []) (hfree : (s.die die).holds = []) :
    Answers (.gangPlacement die) s fun t => (∃ n, t.gang gi = (s.gang gi).asks die n l) ∧ (∀ i, i ≠ gi → t.gang i = s.gang i) ∧
      t.cores = s.cores ∧ t.coaches = s.coaches ∧ SameBytes s t ∧
      ∀ c ∈ l.flatMap (·.2), dieOf c = die → (c, gi, s.holdKey gi) ∈ (t.die die).holds := by
  refine gangPlacement_begins hon hidle hold hhome (by rw [hst]; decide) hfree fun t ht => ?_
  refine State.tryPlace_waiting (b := b) (by rwa [ht.gang]) ?_ (by rwa [ht.choose]) (by rwa [ht.occupants])
  rwa [State.QuotaAllows, ht.tenantCoaches, ht.gang, ht.tq]

theorem gangPlacement_preempted (hon : (s.die die).unitOn = true)
    (hidle : ∀ i ∈ slotsOf die, (s.gang i).stand = .holding → s.mayTry i = true) (hold : s.oldest die 0 = some gi) (hhome : gi / 64 = die)
    (hst : (s.gang gi).stand = .preempted) (hquota : s.QuotaAllows gi) (hcoaches : ∀ c ∈ (s.gang gi).coaches, s.coachFree gi c = true)
    (hfree : (s.die die).holds = []) :
    Answers (.gangPlacement die) s fun t => (∃ n, t.gang gi = (s.gang gi).asks die n (s.gang gi).byDie) ∧
      (∀ i, i ≠ gi → t.gang i = s.gang i) ∧ t.cores = s.cores ∧ t.coaches = s.coaches ∧ SameBytes s t ∧
      ∀ c ∈ (s.gang gi).byDie.flatMap (·.2), dieOf c = die → (c, gi, s.holdKey gi) ∈ (t.die die).holds := by
  refine gangPlacement_begins hon hidle hold hhome (by rw [hst]; decide) hfree fun t ht => ?_
  have htry : t.tryPlace gi [] = (none, t.startHolds gi (t.gang gi).byDie) :=
    State.tryPlace_preempted (by rwa [ht.gang]) (by rwa [State.QuotaAllows, ht.tenantCoaches, ht.gang, ht.tq]) (by rwa [ht.gang, ht.coachFree])
  rwa [ht.gang] at htry

/-! ## Hold requests -/

/-- A die that has answered the hold request which had come to it. -/
def State.holdAnswered (s : State) (n dst : Nat) : State := (s.dropMsg n).noteAnswer dst

theorem State.holdAnswered_die (s : State) (n dst d : Nat) : ∃ asked, (s.holdAnswered n dst).die d = { s.die d with asked := asked } := by
  rw [State.holdAnswered, State.noteAnswer, State.die_setDie]
  split
  next hd => exact ⟨none, by rw [hd]; rfl⟩
  next => exact ⟨(s.die d).asked, rfl⟩

theorem State.holdAnswered_samePlaces (s : State) (n dst : Nat) : SamePlaces s (s.holdAnswered n dst) := by
  refine ⟨rfl, rfl, rfl, fun d => ?_, fun d h _ => ?_⟩
  all_goals
    obtain ⟨asked, hd⟩ := s.holdAnswered_die n dst d
    rw [hd]

section
variable {n key : Nat} {m : Msg} {coaches : List Nat}

/-- A unit grants a hold of coaches that are free, while none of its own gangs comes first (R34). -/
def State.Grants (s : State) (gi dst : Nat) (coaches : List Nat) : Prop :=
  (∀ c ∈ coaches, s.coachFree gi c = true) ∧ (s.die dst).unitOn = true ∧ s.ownFirst dst gi coaches = false

variable (hm : lookup? s.net n = some m) (hdue : m.due ≤ s.cyc) (hkind : m.kind = .holdReq gi key coaches)
include hm hdue hkind

theorem holdRequest_void (h : (s.gang gi).stand ≠ .holding ∨ (s.gang gi).try_ ≠ m.id) :
    exec (.holdRequest n) s = .next (s.holdAnswered n m.dst) := by
  simp only [exec, execHoldRequest, State.msgReady_of hm hdue, hkind]
  exact if_pos h

section
variable (hst : (s.gang gi).stand = .holding) (htry : (s.gang gi).try_ = m.id)
include hst htry

theorem holdRequest_grants (h : s.Grants gi m.dst coaches) : exec (.holdRequest n) s =
    let s2 := (s.holdAnswered n m.dst).hold gi key m.dst coaches
    .next (s2.setGang gi { s2.gang gi with grants := (s2.gang gi).grants ++ [m.dst] }) := by
  obtain ⟨hfree, hunit, hfirst⟩ := h
  have hno : ¬(((s.holdAnswered n m.dst).gang gi).stand ≠ .holding ∨ ((s.holdAnswered n m.dst).gang gi).try_ ≠ m.id) :=
    fun h => h.elim (absurd hst) (absurd htry)
  have hsame := s.holdAnswered_samePlaces n m.dst
  obtain ⟨asked, hd⟩ := s.holdAnswered_die n m.dst m.dst
  have hyes : ((coaches.all ((s.holdAnswered n m.dst).coachFree gi)) && ((s.holdAnswered n m.dst).die m.dst).unitOn &&
      !(s.holdAnswered n m.dst).ownFirst m.dst gi coaches) = true := by
    rw [hsame.coachFree, hsame.ownFirst, hd, hfirst, List.all_eq_true.2 hfree]
    exact congrArg (true && · && true) hunit
  simp only [exec, execHoldRequest, State.msgReady_of hm hdue, hkind]
  exact (if_neg hno).trans (if_pos hyes)

theorem holdRequest_refuses (h : ¬s.Grants gi m.dst coaches) :
    exec (.holdRequest n) s = .next ((s.holdAnswered n m.dst).backToWait gi) := by
  have hno : ¬(((s.holdAnswered n m.dst).gang gi).stand ≠ .holding ∨ ((s.holdAnswered n m.dst).gang gi).try_ ≠ m.id) :=
    fun h => h.elim (absurd hst) (absurd htry)
  have hsame := s.holdAnswered_samePlaces n m.dst
  obtain ⟨asked, hd⟩ := s.holdAnswered_die n m.dst m.dst
  have hrefused : ¬((coaches.all ((s.holdAnswered n m.dst).coachFree gi)) && ((s.holdAnswered n m.dst).die m.dst).unitOn &&
      !(s.holdAnswered n m.dst).ownFirst m.dst gi coaches) = true := by
    rw [hsame.coachFree, hsame.ownFirst, hd]
    intro hyes
    simp only [Bool.and_eq_true, List.all_eq_true, Bool.not_eq_true'] at hyes
    exact h ⟨hyes.1.1, hyes.1.2, hyes.2⟩
  simp only [exec, execHoldRequest, State.msgReady_of hm hdue, hkind]
  exact (if_neg hno).trans (if_neg hrefused)

/-- A hold that is granted stands on its die, and the gangs whose holds it revokes wait again (R34). -/
theorem holdRequest_holds (h : s.Grants gi m.dst coaches) : Answers (.holdRequest n) s fun t =>
    (t.gang gi).grants = (s.gang gi).grants ++ [m.dst] ∧ (t.gang gi).stand = .holding ∧
    (∀ c ∈ coaches, (c, gi, key) ∈ (t.die m.dst).holds) ∧ lookup? t.net n = none ∧ t.coaches = s.coaches ∧ SameBytes s t ∧
    ∀ h ∈ (s.die m.dst).holds, h.1 ∈ coaches → h.2.1 ≠ gi → t.gang h.2.1 = (s.gang h.2.1).backToWait := by
  have hrun := holdRequest_grants hm hdue hkind hst htry h
  dsimp only at hrun
  have hup := (s.holdAnswered n m.dst).revoke_givesUp gi m.dst coaches
  have hgang (i : Nat) : ((s.holdAnswered n m.dst).hold gi key m.dst coaches).gang i =
      ((s.holdAnswered n m.dst).revoke gi m.dst coaches).gang i := rfl
  obtain ⟨_, hcoaches, hnet, _⟩ := hup.parts
  have hself : ((s.holdAnswered n m.dst).hold gi key m.dst coaches).gang gi = s.gang gi :=
    (hgang gi).trans (State.revoke_gang_self ..)
  rw [hself] at hrun
  have hbytes : SameBytes s ((s.holdAnswered n m.dst).hold gi key m.dst coaches) :=
    ((s.holdAnswered n m.dst).hold_same gi key m.dst coaches).sameBytes
  refine ⟨_, hrun, ?_, ?_, fun c hc => ?_, ?_, hcoaches, hbytes, fun x hx hxc hxg => ?_⟩
  · rw [State.gang_setGang_self]
  · rw [State.gang_setGang_self]; exact hst
  · rw [State.die_setGang, State.hold_eq, State.die_setDie_self]
    exact Die.mem_hold _ _ _ hc
  · have hdrop : ((s.holdAnswered n m.dst).revoke gi m.dst coaches).net = dropKey s.net n := hnet
    exact (congrArg (lookup? · n) hdrop).trans (lookup?_dropKey_self n s.net)
  · obtain ⟨asked, hd⟩ := s.holdAnswered_die n m.dst m.dst
    have hrev : x.2.1 ∈ (s.holdAnswered n m.dst).revoked gi m.dst coaches := by
      refine State.mem_revoked.2 ⟨x, ?_, hxc, hxg, rfl⟩
      rw [hd]; exact hx
    rw [State.gang_setGang_other _ _ _ _ hxg, hgang, State.revoke_gang, if_pos hrev]
    rfl

/-- A hold that is refused sends its gang back to waiting (R34). -/
theorem holdRequest_sendsBack (h : ¬s.Grants gi m.dst coaches) : Answers (.holdRequest n) s fun t =>
    t.gang gi = (s.gang gi).backToWait ∧ lookup? t.net n = none ∧ t.coaches = s.coaches ∧ ∀ i, i ≠ gi → t.gang i = s.gang i := by
  obtain ⟨_, hcoaches, hnet, _⟩ := ((s.holdAnswered n m.dst).backToWait_givesUp gi).parts
  have hdrop : ((s.holdAnswered n m.dst).backToWait gi).net = dropKey s.net n := hnet
  refine ⟨_, holdRequest_refuses hm hdue hkind hst htry h, ?_, ?_, hcoaches, fun i hi => ?_⟩
  · rw [State.backToWait_gang, if_pos rfl]; rfl
  · exact (congrArg (lookup? · n) hdrop).trans (lookup?_dropKey_self n s.net)
  · rw [State.backToWait_gang, if_neg hi]; rfl

end

end

/-! ## Commit -/

theorem holdCommit_stopped (hst : (s.gang gi).stand = .holding) (h : s.mayTry gi = false) :
    exec (.holdCommit gi) s = .next (s.backToWait gi) := by
  simp only [exec, execHoldCommit]
  exact if_pos (by simp [hst, h])

theorem holdCommit_waits (h : s.mayTry gi = true)
    (hall : ((s.gang gi).dies.all (s.gang gi).grants.contains) = false) : exec (.holdCommit gi) s = .next s := by
  simp only [exec, execHoldCommit]
  exact (if_neg (by simp [h])).trans (if_neg (by rw [hall]; simp))

theorem holdCommit_resumes (hst : (s.gang gi).stand = .holding) (h : s.mayTry gi = true)
    (hall : ((s.gang gi).dies.all (s.gang gi).grants.contains) = true) (hsaved : (s.gang gi).saved ≠ []) :
    exec (.holdCommit gi) s = .next ((s.releaseHolds gi).reinstall gi) := by
  simp only [exec, execHoldCommit]
  exact (if_neg (by simp [h])).trans ((if_pos (by rw [hall, hst]; rfl)).trans (if_pos ((Gang.away_of_holding hst).2 hsaved)))

/-- A gang that loads its contexts, its holds released. -/
def State.startLoad (s : State) (gi : Nat) : State := (s.setGang gi { s.gang gi with stand := .loading }).releaseHolds gi

theorem holdCommit_loads (hst : (s.gang gi).stand = .holding) (h : s.mayTry gi = true)
    (hall : ((s.gang gi).dies.all (s.gang gi).grants.contains) = true) (hsaved : (s.gang gi).saved = []) :
    exec (.holdCommit gi) s = .next (((List.range (s.gang gi).coaches.length).zip (s.gang gi).coaches).foldl (fun s p => s.beginLoad gi p)
      (s.startLoad gi)) := by
  have haway : ¬(s.gang gi).away = true := fun ha => (Gang.away_of_holding hst).1 ha hsaved
  simp only [exec, execHoldCommit]
  exact (if_neg (by simp [h])).trans ((if_pos (by rw [hall, hst]; rfl)).trans (if_neg haway))

/-! ### Contexts that begin to load -/

/-- A coach begins to load; the others, cores, gangs and the time stay. -/
theorem State.beginLoad_frame (s : State) (gi : Nat) (p : Nat × Nat) :
    (s.beginLoad gi p).cores = s.cores ∧ (s.beginLoad gi p).gangs = s.gangs ∧ (s.beginLoad gi p).cyc = s.cyc := by
  simp only [State.beginLoad]
  rw [State.delay_eq]
  exact ⟨rfl, rfl, rfl⟩

theorem State.beginLoad_coach (s : State) (gi : Nat) (p : Nat × Nat) : ∃ due, s.cyc < due ∧ ∀ c, (s.beginLoad gi p).coach c =
    if c = p.2 then { Coach.reset with stand := .loading due, gang := some gi, lco := p.1 } else s.coach c := by
  refine ⟨s.cyc + 1 + (s.delay 0xFFFFFFFF).1, by omega, fun c => ?_⟩
  rw [State.beginLoad, State.coach_setCoach, State.delay_coach]

theorem beginLoads_frame (gi : Nat) (l : List (Nat × Nat)) (s : State) :
    (l.foldl (fun s p => s.beginLoad gi p) s).cores = s.cores ∧ (l.foldl (fun s p => s.beginLoad gi p) s).gangs = s.gangs :=
  foldl_inv (f := fun (s : State) (p : Nat × Nat) => s.beginLoad gi p) (I := fun t : State => t.cores = s.cores ∧ t.gangs = s.gangs)
    (fun t p _ ⟨hc, hg⟩ => ⟨(t.beginLoad_frame gi p).1.trans hc, (t.beginLoad_frame gi p).2.1.trans hg⟩) ⟨rfl, rfl⟩

theorem beginLoads_other {gi c : Nat} {l : List (Nat × Nat)} (h : c ∉ l.map Prod.snd) (s : State) :
    (l.foldl (fun s p => s.beginLoad gi p) s).coach c = s.coach c :=
  foldl_frame (f := fun (s : State) (p : Nat × Nat) => s.beginLoad gi p) (fun t : State => t.coach c) (fun t p hp => by
    obtain ⟨_, _, hc⟩ := t.beginLoad_coach gi p
    exact (hc c).trans (if_neg fun e : c = p.2 => h (e ▸ List.mem_map_of_mem hp))) s

/-- Each coach of a gang loads the context of its logical number, for some time (R34). -/
theorem beginLoads_loads {gi : Nat} {l : List (Nat × Nat)} (hl : (l.map Prod.snd).Nodup) {p : Nat × Nat} (hp : p ∈ l) (s : State) :
    ∃ due, s.cyc < due ∧ (l.foldl (fun s p => s.beginLoad gi p) s).coach p.2 =
      { Coach.reset with stand := .loading due, gang := some gi, lco := p.1 } := by
  refine foldl_nodup (f := fun (s : State) (p : Nat × Nat) => s.beginLoad gi p) (get := fun t : State => t.coach p.2)
    (I := fun t : State => t.cyc = s.cyc) (R := fun _ y => ∃ due, s.cyc < due ∧
      y = { Coach.reset with stand := .loading due, gang := some gi, lco := p.1 }) hl.of_map hp
    (fun t q _ ht => (t.beginLoad_frame gi q).2.2.trans ht) (fun t q hq _ hne => ?_) (fun t ht => ?_) rfl
  · obtain ⟨_, _, hc⟩ := t.beginLoad_coach gi q
    exact (hc p.2).trans (if_neg fun e : p.2 = q.2 => hne (List.inj_on_of_nodup_map hl hq hp e.symm))
  · obtain ⟨due, hdue, hc⟩ := t.beginLoad_coach gi p
    exact ⟨due, ht ▸ hdue, (hc p.2).trans (if_pos rfl)⟩

theorem State.startLoad_parts (s : State) (gi : Nat) : (s.startLoad gi).cores = s.cores ∧ (s.startLoad gi).coaches = s.coaches ∧
    (s.startLoad gi).cyc = s.cyc ∧ ((s.startLoad gi).gang gi).stand = .loading := by
  obtain ⟨hcores, hcoaches, _, _, hcyc, _⟩ := ((s.setGang gi { s.gang gi with stand := .loading }).releaseHolds_givesUp gi).parts
  refine ⟨hcores, hcoaches, hcyc, ?_⟩
  rw [State.startLoad, State.releaseHolds_gang, State.gang_setGang_self]

theorem holdCommit_loads_answers (hst : (s.gang gi).stand = .holding) (h : s.mayTry gi = true)
    (hall : ((s.gang gi).dies.all (s.gang gi).grants.contains) = true) (hsaved : (s.gang gi).saved = []) (hnodup : (s.gang gi).coaches.Nodup) :
    Answers (.holdCommit gi) s fun t => (t.gang gi).stand = .loading ∧ t.cores = s.cores ∧ SameBytes s t ∧
      (∀ c, c ∉ (s.gang gi).coaches → t.coach c = s.coach c) ∧
      ∀ i, i < (s.gang gi).coaches.length → ∃ due, s.cyc < due ∧
        t.coach (nthD 0 (s.gang gi).coaches i) = { Coach.reset with stand := .loading due, gang := some gi, lco := i } := by
  have hrun := holdCommit_loads hst h hall hsaved
  obtain ⟨hcores, hcoaches, hcyc, hstand⟩ := s.startLoad_parts gi
  have hsnd : ((List.range (s.gang gi).coaches.length).zip (s.gang gi).coaches).map Prod.snd = (s.gang gi).coaches :=
    List.map_snd_zip (by simp)
  obtain ⟨kcores, kgangs⟩ := beginLoads_frame gi ((List.range (s.gang gi).coaches.length).zip (s.gang gi).coaches) (s.startLoad gi)
  refine ⟨_, hrun, (congrArg Gang.stand (State.gang_congr kgangs gi)).trans hstand, kcores.trans hcores, ?_, fun c hc => ?_, fun i hi => ?_⟩
  · exact (SameStore.trans ((s.setGang_same _ _).trans (State.releaseHolds_same ..))
      (State.foldl_same (fun t p => t.beginLoad_same gi p) _ _)).sameBytes
  · rw [beginLoads_other (by rwa [hsnd]), State.coach_congr hcoaches]
  · have hmem : (i, nthD 0 (s.gang gi).coaches i) ∈ (List.range (s.gang gi).coaches.length).zip (s.gang gi).coaches := by
      refine List.mem_iff_getElem.2 ⟨i, by simpa using hi, ?_⟩
      rw [List.getElem_zip, List.getElem_range, nthD_eq_getD, List.getD_eq_getElem _ _ hi]
    obtain ⟨due, hdue, hc⟩ := beginLoads_loads (gi := gi) (by rwa [hsnd]) hmem (s.startLoad gi)
    exact ⟨due, hcyc ▸ hdue, hc⟩

/-! ### Contexts that go back -/

/-- The cores of a saved context are set. -/
def setCores (l : List (Nat × Core)) (s : State) : State := l.foldl (fun s p => s.setCore p.1 p.2) s

/-- A saved context goes back on its coach (R33, R368). -/
def State.putBack (s : State) (x : SavedCtx) : State :=
  setCores ((coresOf x.coach).zip x.cores) (s.setCoach x.coach { x.ctx with stand := .saved })

theorem State.reinstall_eq (s : State) (gi : Nat) :
    s.reinstall gi = (s.gang gi).saved.foldl State.putBack (s.setGang gi { s.gang gi with stand := .resuming, saved := [] }) := rfl

theorem setCores_frame (l : List (Nat × Core)) (s : State) :
    (setCores l s).coaches = s.coaches ∧ (setCores l s).gangs = s.gangs ∧ (setCores l s).dies = s.dies :=
  foldl_inv (f := fun (s : State) (p : Nat × Core) => s.setCore p.1 p.2)
    (I := fun t : State => t.coaches = s.coaches ∧ t.gangs = s.gangs ∧ t.dies = s.dies) (fun _ _ _ ht => ht) ⟨rfl, rfl, rfl⟩

theorem setCores_other {c : Nat} {l : List (Nat × Core)} (h : c ∉ l.map Prod.fst) (s : State) : (setCores l s).core c = s.core c :=
  foldl_frame (f := fun (s : State) (p : Nat × Core) => s.setCore p.1 p.2) (fun t : State => t.core c)
    (fun t p hp => t.core_setCore_other p.1 c _ fun e => h (e ▸ List.mem_map_of_mem hp)) s

theorem setCores_mem {l : List (Nat × Core)} (hl : (l.map Prod.fst).Nodup) {p : Nat × Core} (hp : p ∈ l) (s : State) :
    (setCores l s).core p.1 = p.2 :=
  foldl_nodup (f := fun (s : State) (p : Nat × Core) => s.setCore p.1 p.2) (get := fun t : State => t.core p.1) (I := fun _ => True)
    (R := fun _ y => y = p.2) hl.of_map hp (fun _ _ _ _ => trivial)
    (fun t q hq _ hne => t.core_setCore_other q.1 p.1 _ fun e => hne (List.inj_on_of_nodup_map hl hq hp e.symm))
    (fun t _ => t.core_setCore_self p.1 p.2) trivial

theorem State.putBack_coach (s : State) (x : SavedCtx) (c : Nat) :
    (s.putBack x).coach c = if c = x.coach then { x.ctx with stand := .saved } else s.coach c := by
  rw [State.putBack, State.coach_congr (setCores_frame _ _).1, State.coach_setCoach]

theorem map_fst_zip_sublist {α β : Type} (l : List α) (m : List β) : ((l.zip m).map Prod.fst).Sublist l := by
  induction l generalizing m with
  | nil => simp
  | cons a l ih =>
    cases m with
    | nil => simp
    | cons b m => simpa using ih m

theorem State.putBack_core_other (s : State) (x : SavedCtx) {i : Nat} (h : coachOf i ≠ x.coach) : (s.putBack x).core i = s.core i := by
  rw [State.putBack, setCores_other fun hi => h (mem_coresOf.1 ((map_fst_zip_sublist _ _).subset hi)), State.core_setCoach]

theorem State.putBack_core (s : State) (x : SavedCtx) {i : Nat} (h16 : i < 16) (hlen : i < x.cores.length) :
    (s.putBack x).core (x.coach * 16 + i) = nthD Core.reset x.cores i := by
  have hmem : (x.coach * 16 + i, nthD Core.reset x.cores i) ∈ (coresOf x.coach).zip x.cores := by
    refine List.mem_iff_getElem.2 ⟨i, by simp [coresOf, span, h16, hlen], ?_⟩
    rw [List.getElem_zip, nthD_eq_getD, List.getD_eq_getElem _ _ hlen]
    simp [coresOf, span]
  exact setCores_mem ((nodup_span _ _).sublist (map_fst_zip_sublist _ _)) hmem _

theorem putBacks_frame (l : List SavedCtx) (s : State) : (l.foldl State.putBack s).gangs = s.gangs ∧ (l.foldl State.putBack s).dies = s.dies :=
  foldl_inv (f := State.putBack) (I := fun t : State => t.gangs = s.gangs ∧ t.dies = s.dies)
    (fun _ _ _ ⟨hg, hd⟩ => ⟨(setCores_frame _ _).2.1.trans hg, (setCores_frame _ _).2.2.trans hd⟩) ⟨rfl, rfl⟩

/-- Of contexts of different coaches each goes back whole. -/
theorem putBacks_restore {l : List SavedCtx} (hl : (l.map (·.coach)).Nodup) {x : SavedCtx} (hx : x ∈ l) (s : State) :
    (l.foldl State.putBack s).coach x.coach = { x.ctx with stand := .saved } ∧
    ∀ i, i < 16 → i < x.cores.length → (l.foldl State.putBack s).core (x.coach * 16 + i) = nthD Core.reset x.cores i := by
  have hne {y : SavedCtx} (hy : y ∈ l) (h : y ≠ x) : x.coach ≠ y.coach := fun e => h (List.inj_on_of_nodup_map hl hy hx e.symm)
  refine ⟨?_, fun i h16 hlen => ?_⟩
  · exact foldl_nodup (f := State.putBack) (get := fun t : State => t.coach x.coach) (I := fun _ => True)
      (R := fun _ y => y = { x.ctx with stand := .saved }) hl.of_map hx (fun _ _ _ _ => trivial)
      (fun t y hy _ h => (t.putBack_coach y x.coach).trans (if_neg (hne hy h)))
      (fun t _ => (t.putBack_coach x x.coach).trans (if_pos rfl)) trivial
  · have hcoach : coachOf (x.coach * 16 + i) = x.coach := by unfold coachOf; omega
    exact foldl_nodup (f := State.putBack) (get := fun t : State => t.core (x.coach * 16 + i)) (I := fun _ => True)
      (R := fun _ y => y = nthD Core.reset x.cores i) hl.of_map hx (fun _ _ _ _ => trivial)
      (fun t y hy _ h => t.putBack_core_other y (hcoach.symm ▸ hne hy h)) (fun t _ => t.putBack_core x h16 hlen) trivial

theorem holdCommit_resumes_answers (hst : (s.gang gi).stand = .holding) (h : s.mayTry gi = true)
    (hall : ((s.gang gi).dies.all (s.gang gi).grants.contains) = true) (hsaved : (s.gang gi).saved ≠ [])
    (hnodup : ((s.gang gi).saved.map (·.coach)).Nodup) :
    Answers (.holdCommit gi) s fun t => (t.gang gi).stand = .resuming ∧ (t.gang gi).saved = [] ∧ SameBytes s t ∧
      (∀ y ∈ s.present, ∀ h ∈ (t.die y).holds, h.2.1 ≠ gi) ∧
      ∀ x ∈ (s.gang gi).saved, t.coach x.coach = { x.ctx with stand := .saved } ∧
        ∀ i, i < 16 → i < x.cores.length → t.core (x.coach * 16 + i) = nthD Core.reset x.cores i := by
  have hrun := holdCommit_resumes hst h hall hsaved
  have hbytes : SameBytes s ((s.releaseHolds gi).reinstall gi) :=
    (SameStore.trans (s.releaseHolds_same gi) (State.reinstall_same ..)).sameBytes
  obtain ⟨hgangs, hdies⟩ := putBacks_frame ((s.releaseHolds gi).gang gi).saved
    ((s.releaseHolds gi).setGang gi { (s.releaseHolds gi).gang gi with stand := .resuming, saved := [] })
  rw [← State.reinstall_eq] at hgangs hdies
  have hgang : ((s.releaseHolds gi).reinstall gi).gang gi = { (s.releaseHolds gi).gang gi with stand := .resuming, saved := [] } :=
    (State.gang_congr hgangs gi).trans (State.gang_setGang_self ..)
  refine ⟨_, hrun, by rw [hgang], by rw [hgang], hbytes, fun y hy => ?_, fun x hx => ?_⟩
  · rw [State.die_congr hdies]
    exact State.releaseHolds_free hy
  · rw [State.reinstall_eq, State.releaseHolds_gang]
    exact putBacks_restore hnodup hx _

theorem holdCommit_stopped_answers (hst : (s.gang gi).stand = .holding) (h : s.mayTry gi = false) :
    Answers (.holdCommit gi) s fun t => (t.gang gi).stand = (if (s.gang gi).saved = [] then GStand.waiting else .preempted) ∧
      (t.gang gi).grants = [] ∧ t.coaches = s.coaches ∧ ∀ x ∈ s.present, ∀ h ∈ (t.die x).holds, h.2.1 ≠ gi := by
  obtain ⟨hstand, hgrants⟩ := Gang.backToWait_holding hst
  have hgang : (s.backToWait gi).gang gi = (s.gang gi).backToWait := (s.backToWait_gang gi gi).trans (if_pos rfl)
  obtain ⟨_, hcoaches, _⟩ := (s.backToWait_givesUp gi).parts
  refine ⟨_, holdCommit_stopped hst h, by rw [hgang, hstand], by rw [hgang, hgrants], hcoaches, fun x hx => ?_⟩
  rw [State.backToWait_holding hst]
  exact State.releaseHolds_free (s := s.setGang gi (s.gang gi).backToWait) hx

end

end Sys2Proof.Machine
end

section
/-! PROOFS of the statements of the family 01_kernel_image, last part: the statement about the launch unit (R22 to R26, R30 to R42). -/

namespace Sys2Proof.Machine

section
variable {s : State} {gi : Nat}

/-- The end of a child whose parent is there: only the parent's core and the child's record of its parent change, and on that core only the
arrival word (R40). -/
theorem childEnd_answers {pg acc lcore w : Nat} (hp : (s.gang gi).parent = some (pg, acc, lcore, w))
    (hend : (s.gang gi).stand = .done ∨ (s.gang gi).stand = .faulted) (hne : pg ≠ gi) (hheld : (s.gang pg).held = true)
    (hacc : (s.gang pg).accept = acc) (hsaved : (s.gang pg).saved = []) : Answers (.childEnd gi) s fun t =>
      let core := (s.gang pg).coachAt (lcore / 16) * 16 + lcore % 16
      OnlyCore { s with gangs := t.gangs } t core ∧ SameBytes s t ∧ (t.gang gi).parent = none ∧
      (∀ r, r ≠ 0x080 + w → (t.ctl core).sr.get r = (s.ctl core).sr.get r) ∧
      ((lookupD (0, 0) (s.ctl core).awFirst w).1 ≠ s.cyc + 1 → (t.ctl core).sr.get (0x080 + w) = awComplete ((s.ctl core).sr.get (0x080 + w))
        (if (s.gang gi).stand = .done then 3 else (s.gang gi).code * 256 + 4) (if (s.gang gi).stand = .done then 0 else 5)) := by
  have hgang (c k val stat start : Nat) : (((s.setGang gi { s.gang gi with parent := none }).awDone c k val stat start).gang gi).parent = none :=
    congrArg Gang.parent (s.gang_setGang_self gi _)
  refine ⟨_, childEnd_tells hp hend hne hheld hacc hsaved, State.awDone_onlyCore .., ?_, hgang .., fun r hr => ?_, fun h => ?_⟩
  · exact ((s.setGang_same gi _).trans (State.awDone_same ..)).sameBytes
  · exact State.awDone_otherWord _ _ _ _ _ _ hr
  · exact State.awDone_word _ _ _ _ _ _ h

end

/-- Settles O48, event by event: what each one answers stands in the lemmas above. -/
theorem launchUnitEvents : Obligations.LaunchUnitEvents := by
  unfold Obligations.LaunchUnitEvents
  intro die vf gi n kc s d jlb base log2n rd wr rec_ words g k
  refine ⟨fun h => ⟨s, jobLogScan_waits h, rfl⟩, fun hcyc hen hon => ?_, fun h => ⟨s, gangPlacement_off h, rfl⟩,
    fun b l hon hidle hold hhome hst hquota hchoose hocc hfree => ?_, fun hon hidle hold hhome hst hquota hcoaches hfree => ?_,
    fun m key coaches hm hdue hkind => ⟨fun h => ⟨_, holdRequest_void hm hdue hkind h, rfl⟩, fun hst htry hgr => ?_, fun hst htry hgr => ?_⟩,
    holdCommit_resumes_answers, holdCommit_loads_answers, holdCommit_stopped_answers, fun _ h hall => ⟨s, holdCommit_waits h hall, rfl⟩,
    fun due hst hg hdue hmem => contextLoaded_reports hst hg hdue hmem, fun e x dict hp r => ?_, preemptionRequest_asks,
    fun h htmo => ⟨_, preemptionRequest_held h htmo, rfl⟩, fun h hheld => ⟨s, preemptionRequest_void h hheld, rfl⟩,
    fun pg acc lcore w hp => ⟨fun h1 h2 => ⟨s, childEnd_runs hp h1 h2, rfl⟩,
      fun hend hne hgone => ⟨_, childEnd_alone hp hend hne hgone, rfl⟩,
      childEnd_answers hp⟩⟩
  · have hb : s.logBase die vf = base := congrArg (· * 4096) (fld_eq jlb 12 36)
    have hl : s.logSize die vf = log2n := fld_zero ..
    have hscan : s.Scans die vf := ⟨hcyc, hen, hon⟩
    exact ⟨fun htq hfew => ⟨s, jobLogScan_stopped hb hl hscan hfew htq, rfl⟩, jobLogScan_closes hb hl hscan, fun htq h1 =>
      ⟨jobLogScan_full hb hl hscan h1 htq, fun slot hslot hhome => ⟨fun code => jobLogScan_rejects hb hl hscan h1 htq hslot rfl,
        jobLogScan_accepts hb hl hscan h1 htq hslot rfl hhome⟩⟩⟩
  · subst hhome
    obtain ⟨t, hrun, ⟨m, hgang⟩, hother, hcores, hcoaches, hbytes, hholds⟩ :=
      gangPlacement_waiting hon (fun i hi hh => hidle i hi (.inr hh)) hold rfl hst hquota hchoose hocc hfree
    refine ⟨t, hrun, ?_, ?_, ?_, ?_, hother, hcores, hcoaches, hbytes, hholds⟩
    all_goals rw [hgang]; rfl
  · subst hhome
    obtain ⟨t, hrun, ⟨m, hgang⟩, hother, hcores, hcoaches', hbytes, hholds⟩ :=
      gangPlacement_preempted hon (fun i hi hh => hidle i hi (.inr hh)) hold rfl hst hquota hcoaches hfree
    refine ⟨t, hrun, ?_, ?_, ?_, ?_, hother, hcores, hcoaches', hbytes, fun c hc => hholds c (Gang.mem_byDie hc)⟩
    all_goals rw [hgang]; rfl
  · obtain ⟨t, hrun, hgrants, hstand, hholds, hnet, hcoaches, hbytes, hrevoked⟩ := holdRequest_holds hm hdue hkind hst htry hgr
    exact ⟨t, hrun, hgrants, hstand, hholds, hnet, hcoaches, hbytes, fun h hh hc hne hheld => by
      rw [hrevoked h hh hc hne]
      exact (Gang.backToWait_holding hheld).1⟩
  · obtain ⟨t, hrun, hgang, hnet, hcoaches, hother⟩ := holdRequest_sendsBack hm hdue hkind hst htry hgr
    obtain ⟨hstand, hgrants⟩ := Gang.backToWait_holding hst
    exact ⟨t, hrun, by rw [hgang, hstand], by rw [hgang, hgrants], hnet, hcoaches, hother⟩
  · have hreg := coreAtEntry_reg x e dict hp r
    exact ⟨rfl, rfl, rfl, fun h1 h8 => hreg.trans (if_pos ⟨h1, Nat.lt_succ_of_le h8⟩), fun h => hreg.trans (if_neg (by omega)),
      coreAtEntry_galloc .., coreAtEntry_phase ..⟩

end Sys2Proof.Machine
end

section
/-! PROOFS of the statements of the family 02_launch_and_placement, first part: words of the control queue field by field (R53), the words that
the spec writes out, and id and cyc (R112). -/

namespace Sys2Proof

/-! ## Fields of a word -/

/-- The bits lo to lo + len - 1 of a word. -/
def maskOf (lo len : Nat) : BitVec 32 := (BitVec.allOnes len).setWidth 32 <<< lo

theorem getLsbD_maskOf (lo len i : Nat) (h : lo + len ≤ 32) : (maskOf lo len).getLsbD i = decide (lo ≤ i ∧ i < lo + len) := by
  rw [maskOf, BitVec.getLsbD_shiftLeft, BitVec.getLsbD_setWidth, BitVec.getLsbD_allOnes, Bool.eq_iff_iff]
  simp only [Bool.and_eq_true, Bool.not_eq_true', decide_eq_true_eq, decide_eq_false_iff_not]
  omega

/-- A word has no bit of a field's mask when the field is zero. -/
theorem zeroIn_maskOf (w : BitVec 32) {lo len : Nat} (h : lo + len ≤ 32) : zeroIn w (maskOf lo len) = (w.extractLsb' lo len == 0) := by
  rw [zeroIn, Bool.eq_iff_iff, beq_iff_eq, beq_iff_eq, BitVec.eq_of_getLsbD_eq_iff, BitVec.eq_of_getLsbD_eq_iff]
  simp only [BitVec.getLsbD_and, BitVec.getLsbD_extractLsb', getLsbD_maskOf _ _ _ h]
  constructor
  · intro hw i hi
    simpa [hi] using hw (lo + i) (by omega)
  · intro hw i _
    by_cases hin : lo ≤ i ∧ i < lo + len
    · have hbit := hw (i - lo) (by omega)
      simpa [hin, show i - lo < len by omega, show lo + (i - lo) = i by omega] using hbit
    · simp [hin]

section
variable (op : BitVec 6) (d a : Reg) (i : BitVec 16) (r : BitVec 21)

@[simp] theorem opOf_fmtCI : opOf (fmtCI op d a i) = op.toNat := by
  rw [opOf, fmtCI, BitVec.extractLsb'_append_eq_of_le (by decide), BitVec.extractLsb'_append_eq_of_le (by decide),
    BitVec.extractLsb'_append_eq_of_le (by decide), BitVec.extractLsb'_eq_self]

@[simp] theorem regAt_fmtCI_first : regAt (fmtCI op d a i) 21 = d := by
  rw [regAt, fmtCI, BitVec.extractLsb'_append_eq_of_le (by decide), BitVec.extractLsb'_append_eq_of_le (by decide),
    BitVec.extractLsb'_append_eq_of_add_le (by decide), BitVec.extractLsb'_eq_self]

@[simp] theorem regAt_fmtCI_second : regAt (fmtCI op d a i) 16 = a := by
  rw [regAt, fmtCI, BitVec.extractLsb'_append_eq_of_le (by decide), BitVec.extractLsb'_append_eq_of_add_le (by decide),
    BitVec.extractLsb'_eq_self]

@[simp] theorem imm_fmtCI : (fmtCI op d a i).extractLsb' 0 16 = i := by
  rw [fmtCI, BitVec.extractLsb'_append_eq_of_add_le (by decide), BitVec.extractLsb'_eq_self]

@[simp] theorem opOf_fmtCL : opOf (fmtCL op d r) = op.toNat := by
  rw [opOf, fmtCL, BitVec.extractLsb'_append_eq_of_le (by decide), BitVec.extractLsb'_append_eq_of_le (by decide), BitVec.extractLsb'_eq_self]

@[simp] theorem regAt_fmtCL : regAt (fmtCL op d r) 21 = d := by
  rw [regAt, fmtCL, BitVec.extractLsb'_append_eq_of_le (by decide), BitVec.extractLsb'_append_eq_of_add_le (by decide),
    BitVec.extractLsb'_eq_self]

@[simp] theorem imm_fmtCL : (fmtCL op d r).extractLsb' 0 21 = r := by
  rw [fmtCL, BitVec.extractLsb'_append_eq_of_add_le (by decide), BitVec.extractLsb'_eq_self]

/-- The sa field of a CI word is zero in its mask when it names s0. -/
@[simp] theorem zeroIn_fmtCI_second : zeroIn (fmtCI op d a i) 0x1F0000 = (a == 0) := by
  have hfield : (fmtCI op d a i).extractLsb' 16 5 = a := regAt_fmtCI_second op d a i
  rw [show (0x1F0000 : BitVec 32) = maskOf 16 5 by decide, zeroIn_maskOf _ (by decide), hfield]

@[simp] theorem zeroIn_fmtCL_imm : zeroIn (fmtCL op d r) 0x1FFFFF = (r == 0) := by
  rw [show (0x1FFFFF : BitVec 32) = maskOf 0 21 by decide, zeroIn_maskOf _ (by decide), imm_fmtCL]

end

/-- A control word that is accepted under a mask decodes to its instruction, unless a bit of the mask or the check of the fields refuses it. -/
theorem decode_of_accept {w mask : BitVec 32} {i : Instr} (h : parseC w = accept w mask i) :
    decode .c w none = if zeroIn w mask = true then i.check.elim (.ok i) .error else .error .illegal := by
  have hparse : parse .c w none = accept w mask i := h
  rw [decode, hparse, accept]
  cases zeroIn w mask
  · rfl
  · simp only [if_true]
    cases i.check <;> rfl

/-! ## Words that the spec writes out -/

/-- Settles O2: each word is read by the decoder as it stands. -/
theorem decodedWords : Obligations.DecodedWords := by
  unfold Obligations.DecodedWords
  decide

/-! ## id and cyc -/

namespace Machine

theorem decode_id (d a : Reg) (sel : BitVec 16) :
    decode .c (fmtCI 0x0B d a sel) none = if a ≠ 0 then .error .illegal else if sel.toNat < 6 then .ok (.id d sel) else .error .reserved := by
  have hparse : parseC (fmtCI 0x0B d a sel) = accept (fmtCI 0x0B d a sel) 0x1F0000 (.id d sel) := by
    simp [parseC]
  have hcheck : (Instr.id d sel).check = needCode (sel.toNat < 6) := rfl
  rw [decode_of_accept hparse, zeroIn_fmtCI_second, hcheck]
  by_cases ha : a = 0#5
  · by_cases hs : sel.toNat < 6 <;> simp [ha, hs, needCode]
  · simp [ha]

theorem decode_cyc (d : Reg) (r : BitVec 21) :
    decode .c (fmtCL 0x0C d r) none = if r = 0 then .ok (.cyc d) else .error .illegal := by
  have hparse : parseC (fmtCL 0x0C d r) = accept (fmtCL 0x0C d r) 0x1FFFFF (.cyc d) := by
    simp [parseC]
  have hcheck : (Instr.cyc d).check = none := rfl
  rw [decode_of_accept hparse, zeroIn_fmtCL_imm, hcheck]
  simp

theorem id_gives (d : Reg) (sel : BitVec 16) (s : State) : GivesResult (.id d sel) s d 1 (BitVec.ofNat 64 (s.ident s.me sel.toNat)) :=
  State.result_gives _ _ _ 0 _ rfl

theorem cyc_gives (d : Reg) (s : State) : GivesResult (.cyc d) s d 1 (BitVec.ofNat 64 s.cyc) :=
  State.result_gives _ _ _ 0 _ rfl

/-- The index of a core's carriage is the bit above its index in the carriage (R36). -/
theorem carOf_eq (c : Nat) : carOf c = c / 8 % 2 := by rw [carOf, coreIx]; omega

/-- Settles O11: the fields of the words decide what is decoded, and each selector names its identifier. -/
theorem identifiersAndCycle : Obligations.IdentifiersAndCycle := by
  unfold Obligations.IdentifiersAndCycle
  intro d a sel s
  refine ⟨rfl, fun h => ?_, fun h => ?_, fun h => ?_, id_gives d 0 s, ?_, id_gives d 2 s, id_gives d 3 s, id_gives d 4 s, id_gives d 5 s, ?_,
    fun r h => ?_, cyc_gives d s⟩
  · exact (decode_id d 0 sel).trans (by simp [h])
  · exact (decode_id d 0 sel).trans (by simp [Nat.not_lt.2 h])
  · exact (decode_id d a sel).trans (if_pos h)
  · rw [← carOf_eq]
    exact id_gives d 1 s
  · exact (decode_cyc d 0).trans (if_pos rfl)
  · exact (decode_cyc d r).trans (if_neg h)

end Machine
end Sys2Proof
end

section
/-! PROOFS of the statements of the family 02_launch_and_placement, second part: grid.shrink (R152), fmt.push (R244), kg.set (R265) and launch
(R40). -/

namespace Sys2Proof.Machine

/-! ## Parts of a state that one replacement changes -/

theorem State.onlyCore_setCore (s : State) (c : Nat) (x : Core) : OnlyCore s (s.setCore c x) c :=
  ⟨rfl, fun i hi => s.core_setCore_other c i x hi⟩

theorem State.onlyCore_setDat (s : State) (c : Nat) (x : Dat) : OnlyCore s (s.setDat c x) c := s.onlyCore_setCore c _

theorem State.onlyCtl_setCtl (s : State) (c : Nat) (x : Ctl) : OnlyCtl s (s.setCtl c x) c :=
  ⟨s.onlyCore_setCore c _, by rw [State.core_setCtl_self, State.ctl_setCtl_self]⟩

/-- An instruction that answers with its own control side replaced changes that alone. -/
theorem changesCtl_of {i : Instr} {s : State} {f : Ctl → Ctl} (h : exec i s = .next (s.setCtl s.me (f (s.ctl s.me)))) : ChangesCtl i s f :=
  ⟨_, h, s.onlyCtl_setCtl s.me _, fun _ => rfl, s.ctl_setCtl_self s.me _⟩

theorem State.notInHandler_main {s : State} (h : s.inHandler = false) (f : State → State) : s.notInHandler f = f s := by
  simp [State.notInHandler, h]

theorem State.setBlock_main {s : State} (h : s.inHandler = false) (b : Block) :
    s.setBlock b = s.setCtl s.me { s.ctl s.me with blocks := (s.ctl s.me).blocks ++ [b] } := by
  have hc : (s.ctl s.me).inHandler = false := h
  simp [State.setBlock, hc]

/-- Reading a duration takes it from those that are left, and does nothing else (log 6). -/
theorem State.delay_reads (s : State) (bound : Nat) : ∃ n dl, s.delay bound = (n, { s with delays := dl }) :=
  ⟨_, _, Prod.ext rfl (s.delay_eq bound)⟩

@[simp] theorem Ctl.result_blocks (c : Ctl) (r : Reg) (lat : Nat) (v : Word) (w : Option Nat) : (c.result r lat v w).blocks = c.blocks := by
  rw [Ctl.result_frame]

@[simp] theorem Ctl.result_hblocks (c : Ctl) (r : Reg) (lat : Nat) (v : Word) (w : Option Nat) : (c.result r lat v w).hblocks = c.hblocks := by
  rw [Ctl.result_frame]

/-! ## grid.shrink -/

/-- A table of which only some keys are kept. -/
theorem lookupD_filter {α : Type} (d : α) (f : Nat → Bool) (l : List (Nat × α)) (k : Nat) :
    lookupD d (l.filter fun p => f p.1) k = if f k = true then lookupD d l k else d := by
  induction l with
  | nil => simp [lookupD]
  | cons p l ih =>
    obtain ⟨i, x⟩ := p
    cases hi : f i
    · rw [List.filter_cons_of_neg (by simp [hi]), ih, lookupD]
      by_cases hk : i = k
      · subst hk; simp [hi]
      · rw [if_neg hk]
    · rw [List.filter_cons_of_pos (by simp [hi]), lookupD, lookupD, ih]
      by_cases hk : i = k
      · subst hk; simp [hi]
      · simp [hk]

/-- The cells of rows n to 63 are zero, and every other cell is as it was (R152). -/
theorem Dat.get_zeroFrom (d : Dat) (n key : Nat) : (d.zeroFrom n).grid.get key = if key < n * 64 then d.grid.get key else 0 := by
  have h := lookupD_filter (0 : Cell32) (fun i => decide (i < n * 64)) d.grid key
  simpa [Dat.zeroFrom, Bits.get] using h

@[simp] theorem Dat.zeroFrom_plane (d : Dat) (n : Nat) : (d.zeroFrom n).plane = d.plane := rfl

/-- An entry that names a line is queued or in flight. -/
theorem Eng.pendingId_of_naming {x : Eng} {n i : Nat} (h : i ∈ x.naming n) : x.pendingId i = true := by
  simp only [Eng.naming, List.mem_map, List.mem_filter, List.mem_append] at h
  obtain ⟨e, ⟨h, -⟩, rfl⟩ := h
  simp only [Eng.pendingId, Bool.or_eq_true, List.any_eq_true, beq_iff_eq, List.mem_append]
  rcases h with (h | ⟨r, hr, rfl⟩) | ⟨o, ho, rfl⟩
  · exact .inl (.inl ⟨e, h, rfl⟩)
  · exact .inl (.inr ⟨r, hr, rfl⟩)
  · exact .inr ⟨o, ho, rfl⟩

/-- A core with one shrink more, before it is settled (R152). -/
def Core.addShrink (x : Core) (n : Nat) : Core := { x with eng := { x.eng with shr := x.eng.shr ++ [{ n := n, ids := x.eng.naming n }] } }

theorem Core.settleShrinks_ctl (x : Core) : x.settleShrinks.ctl = x.ctl := rfl

theorem Core.settleShrinks_queue (x : Core) (q : Queue) : x.settleShrinks.eng.queue q = x.eng.queue q := by cases q <;> rfl

theorem Core.settleShrinks_plane (x : Core) : x.settleShrinks.dat.plane = x.dat.plane := by
  simp only [Core.settleShrinks]
  generalize x.eng.shr.filter _ = l
  induction l using List.reverseRecOn with
  | nil => rfl
  | append_singleton l h ih => rw [List.foldl_append]; exact ih

/-- Of a core without an earlier shrink, one whose rows no earlier entry names is zeroed at once, and any other waits (R152). -/
theorem Core.settle_addShrink {x : Core} (h : x.eng.shr = []) (n : Nat) :
    (x.addShrink n).settleShrinks.dat = if x.eng.naming n = [] then x.dat.zeroFrom n else x.dat := by
  have hshr : (x.addShrink n).eng.shr = [{ n := n, ids := x.eng.naming n }] := by rw [Core.addShrink, h]; rfl
  simp only [Core.settleShrinks, hshr]
  cases hn : x.eng.naming n with
  | nil => rfl
  | cons i l =>
    have hi : (x.addShrink n).eng.pendingId i = true := Eng.pendingId_of_naming (x := x.eng) (n := n) (by rw [hn]; simp)
    simp only [List.any_cons, hi, Bool.true_or, Bool.not_true, Bool.false_eq_true, not_false_eq_true, List.filter_cons_of_neg,
      List.filter_nil, List.foldl_nil, reduceCtorEq, if_false]
    rfl

section
variable {s : State}

theorem gridShrink_above {n : BitVec 7} (hm : s.inHandler = false) (h : s.galloc s.me < n.toNat) :
    TakesFault (.gridShrink n) s 0x33 (s.place ||| mkFld 0 48 n.toNat) := by
  have hexec : execGridShrink n s = .next (s.operandFault n.toNat) := by
    rw [execGridShrink, State.notInHandler_main hm, if_pos h]
  exact hexec

theorem gridShrink_same {n : BitVec 7} (hm : s.inHandler = false) (h : n.toNat = s.galloc s.me) : exec (.gridShrink n) s = .next s := by
  have hexec : execGridShrink n s = .next s := by
    rw [execGridShrink, State.notInHandler_main hm, if_neg (by omega), if_pos h]
  exact hexec

theorem gridShrink_below {n : BitVec 7} (hm : s.inHandler = false) (h : n.toNat < s.galloc s.me) :
    exec (.gridShrink n) s = .next ((s.deferSr 0x002 (mkFld 0 7 n.toNat)).setCore s.me
      (((s.deferSr 0x002 (mkFld 0 7 n.toNat)).core s.me).addShrink n.toNat).settleShrinks) := by
  show execGridShrink n s = _
  rw [execGridShrink, State.notInHandler_main hm, if_neg (by omega), if_neg (by omega)]
  rfl

theorem gridShrink_shrinks {n : BitVec 7} (hm : s.inHandler = false) (h : n.toNat < s.galloc s.me) :
    Answers (.gridShrink n) s fun t =>
      t.ctl s.me = { s.ctl s.me with defer := (s.ctl s.me).defer ++ [(0x002, BitVec.ofNat 64 n.toNat)] } ∧
      (∀ q, (t.eng s.me).queue q = (s.eng s.me).queue q) ∧
      ((s.eng s.me).shr = [] →
        (∀ key, key < n.toNat * 64 → (t.dat s.me).grid.get key = (s.dat s.me).grid.get key) ∧
        ((s.eng s.me).naming n.toNat = [] → ∀ key, n.toNat * 64 ≤ key → (t.dat s.me).grid.get key = 0) ∧
        ((s.eng s.me).naming n.toNat ≠ [] → t.dat s.me = s.dat s.me)) ∧
      (t.dat s.me).plane = (s.dat s.me).plane ∧ OnlyCore s t s.me ∧ SameBytes s t := by
  let c1 : Ctl := { s.ctl s.me with defer := (s.ctl s.me).defer ++ [(0x002, mkFld 0 7 n.toNat)] }
  let x : Core := { s.core s.me with ctl := c1 }
  have hword : mkFld 0 7 n.toNat = BitVec.ofNat 64 n.toNat := by
    rw [mkFld, Nat.mod_eq_of_lt n.isLt, Nat.shiftLeft_zero]
  have hcore : (s.deferSr 0x002 (mkFld 0 7 n.toNat)).core s.me = x := s.core_setCtl_self s.me c1
  refine ⟨_, gridShrink_below hm h, ?_⟩
  rw [hcore]
  simp only [State.ctl, State.eng, State.dat, State.core_setCore_self]
  refine ⟨?_, fun q => ?_, fun hshr => ?_, ?_, ⟨rfl, fun i hi => ?_⟩, fun _ => rfl⟩
  · rw [← hword]; rfl
  · rw [Core.settleShrinks_queue]; cases q <;> rfl
  · rw [Core.settle_addShrink (x := x) hshr]
    refine ⟨fun key hk => ?_, fun hn key hk => ?_, fun hn => if_neg hn⟩
    · split
      · rw [Dat.get_zeroFrom, if_pos hk]
      · rfl
    · rw [if_pos hn, Dat.get_zeroFrom, if_neg (by omega)]
  · exact Core.settleShrinks_plane _
  · rw [State.core_setCore_other _ _ _ _ hi]
    exact s.core_setCtl_other s.me i _ hi

/-! ## fmt.push and kg.set -/

/-- The data side with a word more in the format FIFO of an array (R244). -/
def Dat.push (d : Dat) (y : Bool) (w : Word) : Dat := if y then { d with fifo1 := d.fifo1 ++ [w] } else { d with fifo0 := d.fifo0 ++ [w] }

theorem Dat.fifo_push_self (d : Dat) (y : Bool) (w : Word) : (d.push y w).fifo y = d.fifo y ++ [w] := by cases y <;> rfl
theorem Dat.fifo_push_other (d : Dat) (y : Bool) (w : Word) : (d.push y w).fifo (!y) = d.fifo (!y) := by cases y <;> rfl
theorem Dat.push_grid (d : Dat) (y : Bool) (w : Word) : (d.push y w).grid = d.grid := by cases y <;> rfl
theorem Dat.push_plane (d : Dat) (y : Bool) (w : Word) : (d.push y w).plane = d.plane := by cases y <;> rfl

theorem fmtPush_refused {a : Reg} (y : Bool) (hm : s.inHandler = false) (h : fwPushOk (s.reg a) = false) :
    TakesFault (.fmtPush a y) s 0x51 (s.place ||| mkFld 0 48 ((s.reg a).toNat % 2 ^ 48)) := by
  have hexec : execFmtPush a y s = .next (s.faultAt 0x51 (fld (s.reg a) 0 48)) := by
    rw [execFmtPush, State.notInHandler_main hm]
    simp only [h, Bool.false_eq_true, if_false]
    rfl
  rw [fld_zero] at hexec
  exact hexec

theorem fmtPush_pushes {a : Reg} (y : Bool) (hm : s.inHandler = false) (h : fwPushOk (s.reg a) = true) :
    exec (.fmtPush a y) s = .next (s.setDat s.me ((s.dat s.me).push y (s.reg a))) := by
  have hexec : execFmtPush a y s = .next (s.setDat s.me ((s.dat s.me).push y (s.reg a))) := by
    rw [execFmtPush, State.notInHandler_main hm]
    simp only [h, if_true]
    rfl
  exact hexec

theorem kgSet_refused {r a b : Reg} (hm : s.inHandler = false) (h : knotsOk (s.reg a) (s.reg b) = false) :
    TakesFault (.kgSet r a b) s 0x53 (s.place ||| mkFld 0 48 r.toNat) := by
  have hexec : execKgSet r a b s = .next (s.faultAt 0x53 r.toNat) := by
    rw [execKgSet, State.notInHandler_main hm]
    simp only [h, Bool.false_eq_true, if_false]
    rfl
  exact hexec

theorem State.setCtl_setCtl (s : State) (c : Nat) (x y : Ctl) : (s.setCtl c x).setCtl c y = s.setCtl c y := by
  simp only [State.setCtl, State.core_setCore_self]
  simp only [State.setCore, putKey_putKey]

theorem kgSet_takes {r a b : Reg} (hm : s.inHandler = false) (h : knotsOk (s.reg a) (s.reg b) = true) :
    ChangesCtl (.kgSet r a b) s fun c =>
      { c with defer := c.defer ++ [(0x0E0 + r.toNat, s.reg a)] ++ [(0x0E4 + r.toNat, s.reg b)] } := by
  have hexec : execKgSet r a b s = .next ((s.deferSr (0x0E0 + r.toNat) (s.reg a)).deferSr (0x0E4 + r.toNat) (s.reg b)) := by
    rw [execKgSet, State.notInHandler_main hm]
    simp only [h, if_true]
  refine changesCtl_of (hexec.trans ?_)
  simp only [State.deferSr, State.me_setCtl, State.ctl_setCtl_self, State.setCtl_setCtl]

/-! ## launch -/

/-- A control side that waits for the answer to a launch (R40). -/
def Ctl.waitsLaunch (c : Ctl) (d : Reg) (id : Nat) (b : Block) : Ctl :=
  { c.result d 1 0 (some id) with blocks := c.blocks ++ [b] }

theorem launch_waits (d a : Reg) (w : Bool) (k : BitVec 6) (hm : s.inHandler = false) : Answers (.launch d a w k) s fun t =>
    OnlyCore s { t with uid := s.uid, delays := s.delays } s.me ∧ SameBytes s t ∧ ∃ due, s.cyc < due ∧ t.core s.me = { s.core s.me with
      ctl := (s.ctl s.me).waitsLaunch d s.uid (.launch s.uid (if w then some k.toNat else none) (s.reg a) due) } := by
  obtain ⟨n, dl, hdelay⟩ := s.delay_reads 255
  let c := (s.ctl s.me).result d 1 0 (some s.uid)
  let b := Block.launch s.uid (if w then some k.toNat else none) (s.reg a) (s.cyc + 1 + n)
  let s1 : State := { s.setCtl s.me c with uid := s.uid + 1, delays := dl }
  have hctl : s1.ctl s.me = c := s.ctl_setCtl_self s.me c
  have hmain : s1.inHandler = false := by
    show (s1.ctl s.me).inHandler = false
    rw [hctl, Ctl.result_inHandler]; exact hm
  have hexec : execLaunch d a w k s = .next (s1.setBlock b) := by
    rw [execLaunch, State.notInHandler_main hm]
    simp only [hdelay]
    rfl
  rw [State.setBlock_main hmain, show s1.me = s.me from rfl, hctl] at hexec
  refine ⟨_, hexec, ⟨rfl, fun i hi => ?_⟩, fun _ => rfl, s.cyc + 1 + n, by omega, ?_⟩
  · exact (s1.core_setCtl_other s.me i _ hi).trans (s.core_setCtl_other s.me i _ hi)
  · have hcore : s1.core s.me = { s.core s.me with ctl := c } := s.core_setCtl_self s.me c
    have hblocks : c.blocks = (s.ctl s.me).blocks := Ctl.result_blocks ..
    rw [State.core_setCtl_self, hcore, Ctl.waitsLaunch, hblocks]

end

/-- Settles O20: one lemma for each instruction and each of its outcomes. -/
theorem shrinkPushKnotsAndLaunch : Obligations.ShrinkPushKnotsAndLaunch := by
  unfold Obligations.ShrinkPushKnotsAndLaunch
  intro n d a b r y w k s hm
  refine ⟨gridShrink_above hm, fun h => ⟨s, gridShrink_same hm h, rfl⟩, gridShrink_shrinks hm, fun h => ⟨_, fmtPush_pushes y hm h, ?_⟩,
    fmtPush_refused y hm, kgSet_takes hm, kgSet_refused hm, ?_⟩
  · simp only [State.dat_setDat_self]
    exact ⟨Dat.fifo_push_self .., Dat.fifo_push_other .., Dat.push_grid .., Dat.push_plane .., State.ctl_setDat .., State.eng_setDat ..,
      s.onlyCore_setDat s.me _, fun _ => rfl⟩
  · obtain ⟨t, ht, honly, hbytes, due, hdue, hcore⟩ := launch_waits d a w k hm
    have hctl : t.ctl s.me = (s.ctl s.me).waitsLaunch d s.uid (.launch s.uid (if w then some k.toNat else none) (s.reg a) due) :=
      congrArg Core.ctl hcore
    have hsh : (s.ctl s.me).inHandler = false := hm
    refine ⟨t, ht, ⟨due, ?_, hdue⟩, ?_, fun hd => ?_, ?_, ?_, (congrArg Core.eng hcore).trans rfl, honly, hbytes⟩
    · rw [hctl]; rfl
    · rw [hctl]; exact Ctl.result_hblocks ..
    · rw [hctl, Ctl.waitsLaunch, Ctl.result_of_ne _ _ _ _ _ hd, hsh, hm]
      rfl
    · rw [hctl]; exact Ctl.result_regs ..
    · rw [hctl]; exact Ctl.result_sr ..

end Sys2Proof.Machine
end

section
/-! PROOFS of the statements of the family 02_launch_and_placement, third part: the loss of a die under a pre-empted gang (R360). -/

namespace Sys2Proof.Machine

/-! ## A pre-empted gang whose list of coaches is shorter than its NCOACH

`Gang.coachAt` answers coach 0 where the list of coaches ends, so the logical coach 0 of a gang without coaches is coach 0 of die 0. The loss of
die 0 then frees that coach, which holds a context of the gang although the gang does not list it. -/

/-- A pre-empted gang with NCOACH 1 and NDIE 1 that lists no coach. -/
def unlistedGang : Gang :=
  { Gang.reset with stand := .preempted, tenant := 1, words := [0, 0x10001, 0, 0, 0, 0, 0, 0, 0, 0, 0, 0], dies := [0] }

/-- The machine at reset with that gang in slot 0, and coach 0 with a context of it, whose core 0 runs. -/
def unlistedState : State :=
  ((State.reset.setGang 0 unlistedGang).setCoach 0 { Coach.reset with gang := some 0 }).setCore 0
    { Core.reset with ctl := { Ctl.reset with stand := .running } }

theorem unlistedState_meets : (unlistedState.die 0).lost = false ∧ unlistedState.gangs.map (·.1) = [0] ∧
    (unlistedState.gang 0).logicalOf 0 = some 0 ∧ (unlistedState.gang 0).stand = .preempted ∧ (unlistedState.gang 0).lost = [] ∧
    (unlistedState.gang 0).coaches = [] := by decide +kernel

/-- How core 0 stands in the next state of an outcome. -/
def core0Stand (o : Host.Outcome State Fault Refusal) : Option Stand := match o with
  | .next t => some (t.ctl 0).stand
  | _ => none

/-- Core 0 runs before the loss of die 0, and is idle after it. -/
theorem unlistedState_core0 : (unlistedState.ctl 0).stand = .running ∧ core0Stand (exec (.dieLost 0) unlistedState) = some .idle := by
  decide +kernel

end Sys2Proof.Machine

open Sys2Proof Sys2Proof.Machine

/-- Refutes O47: the clause about the loss of a die under a pre-empted gang. It leaves every core alone whose coach the gang does not list, but
where the list is shorter than NCOACH the loss frees coach 0 as well, and core 0 goes from running to idle. -/
theorem not_gangEvents : ¬ Obligations.GangEvents := by
  unfold Obligations.GangEvents
  intro h
  obtain ⟨_, _, _, _, _, _, _, _, hlost, _⟩ := h 0 0 0 0 0 unlistedState
  obtain ⟨hup, hone, hon, hst, hnone, hcoaches⟩ := unlistedState_meets
  obtain ⟨t, ht, _, _, hcores, _⟩ := hlost 0 hup hone hon hst hnone
  obtain ⟨hrun, hidle⟩ := unlistedState_core0
  have hcore : t.core 0 = unlistedState.core 0 := hcores 0 (by simp [hcoaches])
  have hstand : (t.ctl 0).stand = .idle := by simpa [ht, core0Stand] using hidle
  have hkept : (t.ctl 0).stand = .running := (congrArg (·.ctl.stand) hcore).trans hrun
  exact absurd (hkept.symm.trans hstand) (by decide)
end

section
/-! PROOFS of the statements of the family 02_launch_and_placement, fourth part: the events of a core that waits (R40, R134, R167, R350, R351,
R377). -/

namespace Sys2Proof.Machine

section
variable {s : State} {core : Nat}

/-! ## The entry of the arrival handler (R167) -/

/-- The arrival word whose handler is called is the lowest one that calls. -/
theorem Ctl.calling_lowest {c : Ctl} {j : Nat} (hj : j < 64) (hmask : (c.sr.get 0x028).getLsbD j = true)
    (hset : (c.sr.get (0x080 + j)).getLsbD 63 = true)
    (hlow : ∀ i, i < j → ¬ ((c.sr.get 0x028).getLsbD i = true ∧ (c.sr.get (0x080 + i)).getLsbD 63 = true)) : c.calling = some j := by
  rw [Ctl.calling, List.find?_range_eq_some]
  refine ⟨by simp [flag, hmask, hset], List.mem_range.2 hj, fun i hi => ?_⟩
  have hi := hlow i hi
  simp only [flag, Bool.not_eq_true', Bool.and_eq_false_iff]
  simpa [imp_iff_not_or] using hi

theorem Ctl.enterHandler_ahv (c : Ctl) (j : Nat) :
    (c.enterHandler j).sr.get 0x029 = setFld (setFld (c.sr.get 0x029) 63 1 1) 16 6 j := Bits.get_put_self ..

/-- AHV as it is written at an entry: ACTIVE, the word, and the vector line. -/
theorem ahv_entered (ahv : Word) {j : Nat} (hj : j < 64) :
    (setFld (setFld ahv 63 1 1) 16 6 j).getLsbD 63 = true ∧ (setFld (setFld ahv 63 1 1) 16 6 j).toNat / 2 ^ 16 % 64 = j ∧
      (setFld (setFld ahv 63 1 1) 16 6 j).toNat % 2 ^ 16 = ahv.toNat % 2 ^ 16 := by
  refine ⟨?_, ?_, ?_⟩
  · rw [getLsbD_setFld, if_neg (by decide), getLsbD_setFld, if_pos (by decide)]
    rfl
  · have h := fld_setFld_self (setFld ahv 63 1 1) (lo := 16) (len := 6) (by decide) j
    rw [fld_eq] at h
    omega
  · rw [← fld_zero, ← fld_zero, fld_setFld_other _ (by decide), fld_setFld_other _ (by decide)]

theorem handlerEntry_enters {j : Nat} (hcall : (s.ctl core).calling = some j) (hlive : s.coreLive core = true)
    (hmain : (s.ctl core).inHandler = false) (hok : ∀ code a, s.tryDispatch core ≠ .fault code a) :
    exec (.handlerEntry core) s = .next (s.setCtl core ((s.ctl core).enterHandler j)) := by
  show execHandlerEntry core s = _
  cases htry : s.tryDispatch core with
  | fault code a => exact absurd htry (hok code a)
  | wait => simp [execHandlerEntry, hcall, hlive, hmain, htry]
  | go t => simp [execHandlerEntry, hcall, hlive, hmain, htry]

/-! ## Waits that end -/

theorem Ctl.mem_unblock_blocks {c : Ctl} {ends : Block → Bool} {b : Block} : b ∈ (c.unblock ends).blocks ↔ b ∈ c.blocks ∧ ends b = false := by
  simp [Ctl.unblock]

theorem Ctl.mem_unblock_hblocks {c : Ctl} {ends : Block → Bool} {b : Block} : b ∈ (c.unblock ends).hblocks ↔ b ∈ c.hblocks ∧ ends b = false := by
  simp [Ctl.unblock]

theorem State.fenceEnds_false {b : Block} : s.fenceEnds core b = false ↔ ∀ r, b = .fence r → s.relDone core r = false := by
  cases b <;> simp [State.fenceEnds]

theorem Block.isBar_false {sc n : Nat} {b : Block} : b.isBar sc n = false ↔ ∀ r, b ≠ .bar sc n r := by
  cases b <;> simp [Block.isBar]

/-! ## ph.adv and the exit of a core -/

theorem Phase.settle_below {p : Phase} (h : p.ndone < 16) : p.settle = p := by simp [Phase.settle, h]

theorem Phase.settle_sixteenth {p : Phase} (hp : p.prep = true) (h : 16 ≤ p.ndone) :
    p.settle = { p with prep := false, reach := [], ndone := 0, copied := [], work := [] } := by simp [Phase.settle, hp, h]

theorem Phase.countExit_counts {p : Phase} (hp : p.prep = true) (hr : p.reach.contains core = false) (hn : p.ndone < 15) :
    p.countExit core = { p with reach := p.reach ++ [core], ndone := p.ndone + 1 } := by
  have hcount : (p.prep && !p.reach.contains core) = true := by rw [hp, hr]; rfl
  rw [Phase.countExit, if_pos hcount, Phase.settle_below (Nat.succ_lt_succ hn)]

theorem Phase.countExit_idle {p : Phase} (hp : p.prep = false) : p.countExit core = p := by simp [Phase.countExit, hp]

theorem State.advReady_prep (h : s.advReady core = true) : (s.coach (coachOf core)).ph.prep = true := by
  simp only [State.advReady, Bool.and_eq_true] at h
  tauto

/-- An event that replaces the control side of a core and the state of a coach leaves the rest alone. -/
theorem answers_setCtl_setCoach {i : Instr} {kc : Nat} {x : Ctl} {y : Coach} (h : exec i s = .next ((s.setCtl core x).setCoach kc y)) :
    Answers i s fun t => t.ctl core = x ∧ t.coach kc = y ∧ t.eng core = s.eng core ∧ t.dat core = s.dat core ∧
      (∀ i, i ≠ core → t.core i = s.core i) ∧ (∀ i, i ≠ kc → t.coach i = s.coach i) ∧ SameBytes s t :=
  ⟨_, h, s.ctl_setCtl_self core x, State.coach_setCoach_self .., s.eng_setCtl core core x, s.dat_setCtl core core x,
    fun i hi => s.core_setCtl_other core i x hi, fun i hi => State.coach_setCoach_other _ kc i y hi, fun _ => rfl⟩

/-- A core's control side once its ph.adv has completed (R134). -/
def Ctl.advanced (c : Ctl) (map : Nat) : Ctl := (c.setSr 0x020 (mkFld 0 4 map)).unblock fun b => b == .phAdv

theorem Ctl.advanced_parts (c : Ctl) (map : Nat) :
    c.advanced map = { c with sr := (c.advanced map).sr, blocks := (c.advanced map).blocks, hblocks := (c.advanced map).hblocks } ∧
      (∀ b, (b ∈ (c.advanced map).blocks ↔ b ∈ c.blocks ∧ b ≠ .phAdv) ∧ (b ∈ (c.advanced map).hblocks ↔ b ∈ c.hblocks ∧ b ≠ .phAdv)) ∧
      ((c.advanced map).sr.get 0x020).toNat = map % 16 ∧ ∀ n, n ≠ 0x020 → (c.advanced map).sr.get n = c.sr.get n := by
  refine ⟨rfl, fun b => ⟨?_, ?_⟩, ?_, fun n hn => Bits.get_put_other _ _ _ _ hn⟩
  · simp [Ctl.advanced, Ctl.mem_unblock_blocks, Ctl.setSr]
  · simp [Ctl.advanced, Ctl.mem_unblock_hblocks, Ctl.setSr]
  · have hsr : (c.advanced map).sr.get 0x020 = mkFld 0 4 map := Bits.get_put_self ..
    rw [hsr, mkFld, BitVec.toNat_ofNat, Nat.shiftLeft_zero]
    omega

theorem phAdv_completes (h : s.advReady core = true) : exec (.phAdvComplete core) s =
    .next ((s.setCtl core ((s.ctl core).advanced (s.coach (coachOf core)).ph.pht)).setCoach (coachOf core)
      { s.coach (coachOf core) with
        ph := Phase.settle { (s.coach (coachOf core)).ph with ndone := (s.coach (coachOf core)).ph.ndone + 1 } }) := if_pos h

theorem phAdv_waits (h : s.advReady core = false) : exec (.phAdvComplete core) s = .next s := if_neg (by simp [h])

theorem coreExited_waits {r : RelSet} (hst : (s.ctl core).stand = .exiting r)
    (h : (s.coach (coachOf core)).stand ≠ .running ∨ s.relDone core r = false) : exec (.coreExited core) s = .next s := by
  show execCoreExited core s = _
  simp only [execCoreExited, hst]
  refine if_neg fun hgo => ?_
  rcases h with h | h
  · exact h hgo.1
  · simp [h] at hgo

theorem coreExited_exits {r : RelSet} (hst : (s.ctl core).stand = .exiting r) (hrun : (s.coach (coachOf core)).stand = .running)
    (hrel : s.relDone core r = true) : exec (.coreExited core) s =
    .next ((s.setCtl core { s.ctl core with stand := .exited }).setCoach (coachOf core)
      { s.coach (coachOf core) with ph := (s.coach (coachOf core)).ph.countExit core }) := by
  show execCoreExited core s = _
  simp only [execCoreExited, hst]
  exact if_pos ⟨hrun, hrel⟩

/-! ## Barriers (R351) -/

theorem Ctl.mem_barWaits {c : Ctl} {sc n : Nat} {r : RelSet} : (n, r) ∈ c.barWaits sc ↔ .bar sc n r ∈ c.blocks := by
  rw [Ctl.barWaits, List.mem_filterMap]
  constructor
  · rintro ⟨b, hb, hr⟩
    cases b <;> simp at hr
    obtain ⟨rfl, rfl, rfl⟩ := hr
    exact hb
  · exact fun h => ⟨_, h, by simp⟩

/-- The least element of a list, by the fold that `State.barNumber` is. -/
theorem foldl_min {n : Nat} (l : List Nat) (m : Option Nat) (hn : n ∈ l ∨ m = some n) (hlow : ∀ x ∈ l, n ≤ x) (hm : ∀ x, m = some x → n ≤ x) :
    l.foldl (fun m n => match m with
      | none => some n
      | some x => some (Nat.min x n)) m = some n := by
  induction l generalizing m with
  | nil => simpa using hn
  | cons a l ih =>
    have ha : n ≤ a := hlow a List.mem_cons_self
    refine ih _ ?_ (fun x hx => hlow x (List.mem_cons_of_mem a hx)) ?_
    · rcases hn with hn | rfl
      · rcases List.mem_cons.1 hn with rfl | hn
        · right
          cases m with
          | none => rfl
          | some x => exact congrArg some (Nat.min_eq_right (hm x rfl))
        · exact .inl hn
      · exact .inr (congrArg some (Nat.min_eq_left ha))
    · cases m with
      | none => simpa using ha
      | some x =>
        have hx := hm x rfl
        simp only [Option.some.injEq]
        rintro _ rfl
        exact Nat.le_min.2 ⟨hx, ha⟩

theorem State.barNumber_eq {sc n : Nat} {who : List Nat} (hsome : ∃ d ∈ who, ∃ r, .bar sc n r ∈ (s.ctl d).blocks)
    (hlow : ∀ d ∈ who, ∀ m r, .bar sc m r ∈ (s.ctl d).blocks → n ≤ m) : s.barNumber sc who = some n := by
  refine foldl_min _ none (.inl ?_) ?_ (by simp)
  · obtain ⟨d, hd, r, hr⟩ := hsome
    exact List.mem_flatMap.2 ⟨d, hd, List.mem_map.2 ⟨(n, r), Ctl.mem_barWaits.2 hr, rfl⟩⟩
  · intro m hm
    obtain ⟨d, hd, hm⟩ := List.mem_flatMap.1 hm
    obtain ⟨⟨_, r⟩, hr, rfl⟩ := List.mem_map.1 hm
    exact hlow d hd _ r (Ctl.mem_barWaits.1 hr)

theorem State.atBar_iff {sc n d : Nat} :
    s.atBar sc n d = true ↔ (s.ctl d).stand = .exited ∨ ∃ r, .bar sc n r ∈ (s.ctl d).blocks ∧ s.relDone d r = true := by
  simp only [State.atBar, Ctl.hasExited, Bool.or_eq_true, beq_iff_eq, List.any_eq_true, Bool.and_eq_true, Prod.exists]
  refine or_congr Iff.rfl ⟨?_, fun ⟨r, hr, hd⟩ => ⟨n, r, Ctl.mem_barWaits.2 hr, rfl, hd⟩⟩
  rintro ⟨_, r, hr, rfl, hd⟩
  exact ⟨r, Ctl.mem_barWaits.1 hr, hd⟩

/-- A core goes on from a barrier. -/
def State.passBar (sc n : Nat) (s : State) (d : Nat) : State := s.setCtl d ((s.ctl d).unblock (Block.isBar sc n))

theorem barComplete_passes {gang group n : Nat} {sc : BitVec 3} (hnum : s.barNumber sc.toNat ((s.gang gang).participants sc.toNat group) = some n)
    (hrun : ∀ d ∈ (s.gang gang).participants sc.toNat group, (s.coach (coachOf d)).stand = .running)
    (hat : ∀ d ∈ (s.gang gang).participants sc.toNat group, s.atBar sc.toNat n d = true) :
    exec (.barComplete gang sc group) s = .next (((s.gang gang).participants sc.toNat group).foldl (State.passBar sc.toNat n) s) := by
  show execBarComplete gang sc group s = _
  simp only [execBarComplete, hnum]
  refine if_pos ?_
  rw [Bool.and_eq_true, State.coachesRun, List.all_map, List.all_eq_true, List.all_eq_true]
  exact ⟨fun d hd => by simpa using hrun d hd, hat⟩

/-- A core before and after it goes on from a barrier. -/
def Core.PassesBar (sc n : Nat) (x y : Core) : Prop :=
  y = { x with ctl := { x.ctl with blocks := y.ctl.blocks, hblocks := y.ctl.hblocks } } ∧
    ∀ b, (b ∈ y.ctl.blocks ↔ b ∈ x.ctl.blocks ∧ ∀ r, b ≠ .bar sc n r) ∧ (b ∈ y.ctl.hblocks ↔ b ∈ x.ctl.hblocks ∧ ∀ r, b ≠ .bar sc n r)

theorem Core.PassesBar.trans {sc n : Nat} {x y z : Core} (h : x.PassesBar sc n y) (k : y.PassesBar sc n z) : x.PassesBar sc n z := by
  obtain ⟨hxy, hb⟩ := h
  obtain ⟨hyz, kb⟩ := k
  refine ⟨by rw [hyz, hxy], fun b => ?_⟩
  rw [(kb b).1, (kb b).2, (hb b).1, (hb b).2]
  tauto

theorem State.passBar_passes (sc n : Nat) (s : State) (d : Nat) : (s.core d).PassesBar sc n ((s.passBar sc n d).core d) := by
  rw [State.passBar, State.core_setCtl_self]
  refine ⟨rfl, fun b => ?_⟩
  rw [← Block.isBar_false]
  exact ⟨Ctl.mem_unblock_blocks, Ctl.mem_unblock_hblocks⟩

theorem passBars_core (sc n : Nat) {d : Nat} {who : List Nat} (hd : d ∈ who) (s : State) :
    (s.core d).PassesBar sc n ((who.foldl (State.passBar sc n) s).core d) :=
  foldl_repeats (get := (·.core d)) hd (fun s j hj => (s.core_setCtl_other j d _ hj.symm : (s.passBar sc n j).core d = _)) (fun s => s.passBar_passes sc n d)
    (fun _ _ _ => Core.PassesBar.trans) s

theorem passBars_core_other (sc n : Nat) {d : Nat} {who : List Nat} (hd : d ∉ who) (s : State) :
    (who.foldl (State.passBar sc n) s).core d = s.core d :=
  foldl_frame (·.core d) (fun s j hj => s.core_setCtl_other j d _ fun h => hd (h ▸ hj)) s

theorem passBars_cores (sc n : Nat) (who : List Nat) (s : State) :
    who.foldl (State.passBar sc n) s = { s with cores := (who.foldl (State.passBar sc n) s).cores } :=
  foldl_inv (I := fun t => t = { s with cores := t.cores }) (fun t d _ ht => by rw [State.passBar, ht]; rfl) rfl

/-! ## The answer to a launch (R40) -/

/-- The words of the record that a launch names. -/
def State.launchWords (s : State) (core : Nat) (addr : Word) : List Word :=
  (List.range 12).map fun i => s.mem.dword (.cmem core (addr.toNat % 65536 + 8 * i))

/-- How many operations the arrival word of a launch is bound to; 0 without a word. -/
def Ctl.launchBound (c : Ctl) (w : Option Nat) : Nat := (w.map fun a => (c.sr.get (0x080 + a)).toNat / 2 ^ 52 % 2 ^ 11).getD 0

/-- The gang that a core works for. -/
def State.ownGang (s : State) (core : Nat) : Nat := (s.coach (coachOf core)).gang.getD 0

/-- The parent of a child that a core launches, with the arrival word its end sets. -/
def State.launchParent (s : State) (core : Nat) (w : Option Nat) : Option (Nat × Nat × Nat × Nat) :=
  w.map fun a => (s.ownGang core, (s.gang (s.ownGang core)).accept, (s.coach (coachOf core)).lco * 16 + core % 16, a)

/-- A state once the child of a core has been accepted into a slot. -/
def State.acceptChild (s : State) (core : Nat) (w : Option Nat) (addr : Word) (slot : Nat) : State :=
  let s1 := s.accept slot (s.gang (s.ownGang core)).tenant (s.launchWords core addr) none (s.launchParent core w)
  w.elim s1 (s1.awReg core)

theorem State.launchResult_badAddress {w : Option Nat} {addr : Word} (h : 65536 ≤ addr.toNat ∨ addr.toNat % 128 ≠ 0) :
    s.launchResult core w addr = (0x0C, s) := if_pos (by omega)

theorem State.launchResult_full {w : Option Nat} {addr : Word} (hlow : addr.toNat < 65536) (halign : addr.toNat % 128 = 0)
    (h : s.freeSlot (dieOf (coachOf core)) (s.gang (s.ownGang core)).tenant = none) : s.launchResult core w addr = (0x0B, s) := by
  have h' : s.freeSlot (dieOf (coachOf core)) (s.gang ((s.coach (coachOf core)).gang.getD 0)).tenant = none := h
  refine (if_neg (by omega)).trans ?_
  simp only [h']

/-- The launch unit's answer where a slot is free, in the order of its checks. -/
theorem State.launchResult_slot {w : Option Nat} {addr : Word} {slot : Nat} (hlow : addr.toNat < 65536) (halign : addr.toNat % 128 = 0)
    (h : s.freeSlot (dieOf (coachOf core)) (s.gang (s.ownGang core)).tenant = some slot) : s.launchResult core w addr =
      if (nthD 0 (s.launchWords core addr) 1).toNat / 2 ^ 32 % 4 < (s.gang (s.ownGang core)).prio then (0x0D, s)
      else if (s.ctl core).launchBound w = 2047 then (0x0E, s)
      else (s.rejectCode (dieOf (coachOf core)) (s.gang (s.ownGang core)).tenant (s.launchWords core addr)).elim
        (slot % 64 * 256, s.acceptChild core w addr slot) fun code => (code, s) := by
  refine (if_neg (by omega)).trans ?_
  unfold State.ownGang at h
  simp only [State.ownGang, State.launchWords, State.acceptChild, State.launchParent, h, fld_eq]
  refine if_congr Iff.rfl rfl (if_congr ?_ rfl ?_)
  · cases w <;> simp [Ctl.launchBound]
  · split
    next code hrej => rw [hrej]; rfl
    next hrej => rw [hrej]; cases w <;> rfl

theorem State.launchResult_lowPriority {w : Option Nat} {addr : Word} {slot : Nat} (hlow : addr.toNat < 65536) (halign : addr.toNat % 128 = 0)
    (h : s.freeSlot (dieOf (coachOf core)) (s.gang (s.ownGang core)).tenant = some slot)
    (hprio : (nthD 0 (s.launchWords core addr) 1).toNat / 2 ^ 32 % 4 < (s.gang (s.ownGang core)).prio) :
    s.launchResult core w addr = (0x0D, s) := by
  rw [State.launchResult_slot hlow halign h, if_pos hprio]

theorem State.launchResult_fullWord {w : Option Nat} {addr : Word} {slot : Nat} (hlow : addr.toNat < 65536) (halign : addr.toNat % 128 = 0)
    (h : s.freeSlot (dieOf (coachOf core)) (s.gang (s.ownGang core)).tenant = some slot)
    (hprio : (s.gang (s.ownGang core)).prio ≤ (nthD 0 (s.launchWords core addr) 1).toNat / 2 ^ 32 % 4)
    (hfull : (s.ctl core).launchBound w = 2047) : s.launchResult core w addr = (0x0E, s) := by
  rw [State.launchResult_slot hlow halign h, if_neg (Nat.not_lt.2 hprio), if_pos hfull]

theorem State.launchResult_rejected {w : Option Nat} {addr : Word} {slot code : Nat} (hlow : addr.toNat < 65536)
    (halign : addr.toNat % 128 = 0) (h : s.freeSlot (dieOf (coachOf core)) (s.gang (s.ownGang core)).tenant = some slot)
    (hprio : (s.gang (s.ownGang core)).prio ≤ (nthD 0 (s.launchWords core addr) 1).toNat / 2 ^ 32 % 4)
    (hfree : (s.ctl core).launchBound w < 2047)
    (hrej : s.rejectCode (dieOf (coachOf core)) (s.gang (s.ownGang core)).tenant (s.launchWords core addr) = some code) :
    s.launchResult core w addr = (code, s) := by
  rw [State.launchResult_slot hlow halign h, if_neg (Nat.not_lt.2 hprio), if_neg (Nat.ne_of_lt hfree), hrej, Option.elim_some]

theorem State.launchResult_accepted {w : Option Nat} {addr : Word} {slot : Nat} (hlow : addr.toNat < 65536)
    (halign : addr.toNat % 128 = 0) (h : s.freeSlot (dieOf (coachOf core)) (s.gang (s.ownGang core)).tenant = some slot)
    (hprio : (s.gang (s.ownGang core)).prio ≤ (nthD 0 (s.launchWords core addr) 1).toNat / 2 ^ 32 % 4)
    (hfree : (s.ctl core).launchBound w < 2047)
    (hrej : s.rejectCode (dieOf (coachOf core)) (s.gang (s.ownGang core)).tenant (s.launchWords core addr) = none) :
    s.launchResult core w addr = (slot % 64 * 256, s.acceptChild core w addr slot) := by
  rw [State.launchResult_slot hlow halign h, if_neg (Nat.not_lt.2 hprio), if_neg (Nat.ne_of_lt hfree), hrej, Option.elim_none]

theorem State.launchResult_state (s : State) (core : Nat) (w : Option Nat) (addr : Word) :
    (s.launchResult core w addr).2 = s ∨ ∃ slot, (s.launchResult core w addr).2 = s.acceptChild core w addr slot := by
  by_cases haddr : 65536 ≤ addr.toNat ∨ addr.toNat % 128 ≠ 0
  · exact .inl (congrArg Prod.snd (State.launchResult_badAddress haddr))
  obtain ⟨hlow, halign⟩ : addr.toNat < 65536 ∧ addr.toNat % 128 = 0 := by omega
  cases hslot : s.freeSlot (dieOf (coachOf core)) (s.gang (s.ownGang core)).tenant with
  | none => exact .inl (congrArg Prod.snd (State.launchResult_full hlow halign hslot))
  | some slot =>
    rw [State.launchResult_slot hlow halign hslot]
    split
    · exact .inl rfl
    split
    · exact .inl rfl
    cases s.rejectCode (dieOf (coachOf core)) (s.gang (s.ownGang core)).tenant (s.launchWords core addr) with
    | some code => exact .inl rfl
    | none => exact .inr ⟨slot, rfl⟩

theorem State.slot_die {die tenant slot : Nat} (h : s.freeSlot die tenant = some slot) : slot / 64 = die := by
  unfold State.freeSlot at h
  extract_lets mine at h
  split at h
  · have hmem := mem_span.1 (List.mem_of_find?_eq_some h)
    omega
  · cases h

/-- A child waits in its slot with its record (R22, R40). -/
theorem State.acceptChild_record (s : State) (core : Nat) (w : Option Nat) (addr : Word) (slot : Nat) :
    let child := (s.acceptChild core w addr slot).gang slot
    let word (i : Nat) : Nat := (nthD 0 (s.launchWords core addr) i).toNat
    child.stand = .waiting ∧ child.tenant = (s.gang (s.ownGang core)).tenant ∧ child.words = s.launchWords core addr ∧ child.recAt = none ∧
      child.accept / 4096 = s.cyc ∧ child.parent = s.launchParent core w ∧
      child.budget = (if word 2 % 2 ^ 48 = 0 then s.mem.num (.dev (slot / 64) (word 0 % 2 ^ 48 + 16)) 8 % 2 ^ 48 else word 2 % 2 ^ 48) := by
  have hgang : (s.acceptChild core w addr slot).gang slot =
      (s.accept slot (s.gang (s.ownGang core)).tenant (s.launchWords core addr) none (s.launchParent core w)).gang slot := by cases w <;> rfl
  intro child word
  rw [show child = _ from hgang, State.accept, State.gang_setGang_self]
  refine ⟨rfl, rfl, rfl, rfl, ?_, rfl, ?_⟩
  · have horder := List.length_filter_le (fun i => (s.gang i).held && (s.gang i).accept / 4096 == s.cyc) (slotsOf (slot / 64))
    have hslots : (slotsOf (slot / 64)).length = 64 := by simp [slotsOf, span]
    dsimp only
    omega
  · simp only [fld_zero]
    rfl

theorem State.acceptChild_gang_other (w : Option Nat) (addr : Word) {slot i : Nat} (h : i ≠ slot) :
    (s.acceptChild core w addr slot).gang i = s.gang i := by
  cases w <;> exact s.gang_setGang_other slot i _ h

theorem State.acceptChild_onlyCore (w : Option Nat) (addr : Word) (slot : Nat) :
    OnlyCore { s with gangs := (s.acceptChild core w addr slot).gangs } (s.acceptChild core w addr slot) core := by
  cases w with
  | none => exact ⟨rfl, fun _ _ => rfl⟩
  | some a => exact ⟨rfl, fun i hi => State.core_setCtl_other _ core i _ hi⟩

theorem State.acceptChild_core_none (addr : Word) (slot : Nat) : (s.acceptChild core none addr slot).core core = s.core core := rfl

/-- The arrival word of a launch is registered once more. -/
theorem State.acceptChild_core_some (a : Nat) (addr : Word) (slot : Nat) : (s.acceptChild core (some a) addr slot).core core =
    { s.core core with ctl := (s.ctl core).setSr (0x080 + a) (awRegister ((s.ctl core).sr.get (0x080 + a))) } :=
  State.core_setCtl_self ..

theorem State.acceptChild_word (a : Nat) (addr : Word) (slot : Nat) :
    (s.acceptChild core (some a) addr slot).core core =
        { s.core core with ctl := { s.ctl core with sr := ((s.acceptChild core (some a) addr slot).ctl core).sr } } ∧
      ∀ n, ((s.acceptChild core (some a) addr slot).ctl core).sr.get n =
        if n = 0x080 + a then awRegister ((s.ctl core).sr.get n) else (s.ctl core).sr.get n := by
  have hcore : (s.acceptChild core (some a) addr slot).core core = _ := State.acceptChild_core_some a addr slot
  have hctl : (s.acceptChild core (some a) addr slot).ctl core = _ := congrArg Core.ctl hcore
  rw [hcore, hctl]
  refine ⟨rfl, fun n => (Bits.get_put ..).trans ?_⟩
  split
  next h => rw [h]
  next => rfl

/-- The launch unit changes the arrival word of a core's launch at most. -/
theorem State.launchResult_core (s : State) (core : Nat) (w : Option Nat) (addr : Word) :
    ∃ sr, (s.launchResult core w addr).2.core core = { s.core core with ctl := { s.ctl core with sr := sr } } ∧
      sr.get 0x029 = (s.ctl core).sr.get 0x029 := by
  rcases s.launchResult_state core w addr with h | ⟨slot, h⟩
  · exact ⟨_, congrArg (State.core · core) h, rfl⟩
  · cases w with
    | none => exact ⟨_, (congrArg (State.core · core) h).trans (State.acceptChild_core_none addr slot), rfl⟩
    | some a =>
      refine ⟨_, (congrArg (State.core · core) h).trans (State.acceptChild_core_some a addr slot), ?_⟩
      exact Bits.get_put_other _ _ _ _ (by omega)

/-! ### The result of the launch -/

theorem Ctl.supply_frame (c : Ctl) (id : Nat) (v : Word) :
    c.supply id v = { c with regs := (c.supply id v).regs, pend := (c.supply id v).pend } := settleFrom_frame ..

/-- The only pending result of a core lands with its value (R87). -/
theorem Ctl.supply_lands {c : Ctl} {id : Nat} {p : Pend} (hp : c.pend = [p]) (hw : p.wait = some id) (hl : p.left = 0)
    (hh : p.hnd = true ∨ c.inHandler = false) (v : Word) :
    (c.supply id v).regs.get (regKey p.sh p.reg) = v ∧ (c.supply id v).pend = [] := by
  have hlands : ({ c with pend := [{ p with val := v, wait := none }] } : Ctl).landsNow { p with val := v, wait := none } = true :=
    (Ctl.landsNow_iff _ _).2 ⟨hl, rfl, hh⟩
  have hsupply : c.supply id v = settleFrom { c with pend := [{ p with val := v, wait := none }] } [] [{ p with val := v, wait := none }] := by
    simp [Ctl.supply, Ctl.settle, hp, hw]
  rw [hsupply, settleFrom, if_pos hlands, settleFrom]
  exact ⟨Bits.get_put_self .., rfl⟩

/-- A core's control side once its launch has been answered. -/
def Ctl.answered (c : Ctl) (id : Nat) (v : Word) (b : Block) : Ctl := (c.supply id v).unblock (· == b)

theorem Ctl.mem_answered_blocks {c : Ctl} {id : Nat} {v : Word} {b x : Block} :
    x ∈ (c.answered id v b).blocks ↔ x ∈ c.blocks ∧ x ≠ b := by
  rw [Ctl.answered, Ctl.mem_unblock_blocks, Ctl.supply_frame]
  simp

@[simp] theorem doneSigs_dat (core i : Nat) (l : List Sig) (s : State) : (doneSigs core l s).dat i = s.dat i := by
  induction l generalizing s with
  | nil => rfl
  | cons g rest ih => rw [doneSigs, ih, State.awDone, State.dat_setCtl]

theorem State.settleSigs_dat (s : State) (core i : Nat) : (s.settleSigs core).dat i = s.dat i := by
  unfold State.settleSigs
  extract_lets x ready e s1
  rw [doneSigs_dat, State.dat_setEng]

theorem State.settleSigs_eng {s : State} {core : Nat} (h : (s.eng core).sigs = []) : (s.settleSigs core).eng core = s.eng core := by
  unfold State.settleSigs
  extract_lets x ready e s1
  have hx : x.eng.sigs = [] := h
  rw [doneSigs_eng, State.eng_setEng_self, hx, List.filter_nil, ← hx]
  rfl

/-- The state after the answer to a launch. -/
def State.answerLaunch (s : State) (core id : Nat) (w : Option Nat) (addr : Word) (due : Nat) : State :=
  let r := s.launchResult core w addr
  (r.2.setCtl core ((r.2.ctl core).answered id (BitVec.ofNat 64 r.1) (.launch id w addr due))).settleSigs core

theorem launchAnswer_answers {id due : Nat} {w : Option Nat} {addr : Word} {rest : List Block}
    (hb : (s.ctl core).blocks = .launch id w addr due :: rest) (hdue : due ≤ s.cyc) :
    exec (.launchAnswer core) s = .next (s.answerLaunch core id w addr due) := by
  have hfirst : (s.ctl core).launchDue s.cyc = some (id, w, addr, due) := by simp [Ctl.launchDue, hb, hdue]
  show execLaunchAnswer core s = _
  simp only [execLaunchAnswer, hfirst]
  rfl

theorem State.answerLaunch_ctl (s : State) (core id : Nat) (w : Option Nat) (addr : Word) (due : Nat) :
    (((s.launchResult core w addr).2.ctl core).answered id (BitVec.ofNat 64 (s.launchResult core w addr).1)
      (.launch id w addr due)).SameButWords ((s.answerLaunch core id w addr due).ctl core) := by
  have h := State.settleSigs_sameButWords ((s.launchResult core w addr).2.setCtl core
    (((s.launchResult core w addr).2.ctl core).answered id (BitVec.ofNat 64 (s.launchResult core w addr).1) (.launch id w addr due))) core
  rwa [State.ctl_setCtl_self] at h

theorem State.answerLaunch_others (s : State) (core id : Nat) (w : Option Nat) (addr : Word) (due : Nat) :
    s.answerLaunch core id w addr due = { (s.launchResult core w addr).2 with cores := (s.answerLaunch core id w addr due).cores } ∧
      ∀ i, i ≠ core → (s.answerLaunch core id w addr due).core i = (s.launchResult core w addr).2.core i := by
  refine ⟨?_, fun i hi => ?_⟩
  · rw [State.answerLaunch, State.settleSigs_cores]
    rfl
  · exact (State.settleSigs_core_other _ hi).trans (State.core_setCtl_other _ core i _ hi)

theorem State.answerLaunch_dat (s : State) (core id : Nat) (w : Option Nat) (addr : Word) (due : Nat) :
    (s.answerLaunch core id w addr due).dat core = s.dat core := by
  obtain ⟨sr, hcore, -⟩ := s.launchResult_core core w addr
  rw [State.answerLaunch, State.settleSigs_dat, State.dat_setCtl, State.dat, hcore]
  rfl

theorem State.answerLaunch_eng (id : Nat) (w : Option Nat) (addr : Word) (due : Nat) (h : (s.eng core).sigs = []) :
    (s.answerLaunch core id w addr due).eng core = s.eng core := by
  obtain ⟨sr, hcore, -⟩ := s.launchResult_core core w addr
  have heng : (s.launchResult core w addr).2.eng core = s.eng core := by rw [State.eng, hcore]; rfl
  rw [State.answerLaunch, State.settleSigs_eng, State.eng_setCtl, heng]
  rw [State.eng_setCtl, heng, h]

/-- The answer to a launch ends its wait. -/
theorem State.answerLaunch_blocks (s : State) (core id : Nat) (w : Option Nat) (addr : Word) (due : Nat) (b : Block) :
    b ∈ ((s.answerLaunch core id w addr due).ctl core).blocks ↔ b ∈ (s.ctl core).blocks ∧ b ≠ .launch id w addr due := by
  obtain ⟨sr, hcore, -⟩ := s.launchResult_core core w addr
  have hblocks : ((s.launchResult core w addr).2.ctl core).blocks = (s.ctl core).blocks := congrArg (·.ctl.blocks) hcore
  rw [s.answerLaunch_ctl core id w addr due, ← hblocks]
  exact Ctl.mem_answered_blocks

/-- The answer to a launch goes to the register that waits for it. -/
theorem State.answerLaunch_result {p : Pend} {id : Nat} (w : Option Nat) (addr : Word) (due : Nat) (hp : (s.ctl core).pend = [p])
    (hw : p.wait = some id) (hl : p.left = 0) (hh : p.hnd = true ∨ (s.ctl core).inHandler = false) :
    ((s.answerLaunch core id w addr due).ctl core).regs.get (regKey p.sh p.reg) = BitVec.ofNat 64 (s.launchResult core w addr).1 ∧
      ((s.answerLaunch core id w addr due).ctl core).pend = [] := by
  obtain ⟨sr, hcore, hahv⟩ := s.launchResult_core core w addr
  have hctl : (s.launchResult core w addr).2.ctl core = { s.ctl core with sr := sr } := congrArg Core.ctl hcore
  have hin : ((s.launchResult core w addr).2.ctl core).inHandler = (s.ctl core).inHandler := by
    rw [hctl]
    exact congrArg (flag · 63) hahv
  have hpend : ((s.launchResult core w addr).2.ctl core).pend = [p] := by rw [hctl]; exact hp
  rw [s.answerLaunch_ctl core id w addr due]
  exact Ctl.supply_lands hpend hw hl (hin ▸ hh) _

end

end Sys2Proof.Machine

open Sys2Proof Sys2Proof.Machine

/-- Settles O39: one lemma for each event and each of its outcomes. -/
theorem coreEvents : Obligations.CoreEvents := by
  unfold Obligations.CoreEvents
  intro core gang group sc s c kc k ahv own
  refine ⟨fun j hj hmask hset hlow hlive hmain hok => ?_, fun id w addr due rest hb hdue => ?_, fun h => ?_,
    fun h => ⟨s, phAdv_waits h, rfl⟩, ?_, fun r hst h => ⟨s, coreExited_waits hst h, rfl⟩, fun r hst hrun hrel => ?_, ?_⟩
  · refine ⟨_, handlerEntry_enters (Ctl.calling_lowest hj hmask hset hlow) hlive hmain hok, s.onlyCtl_setCtl core _, fun _ => rfl, ?_⟩
    rw [State.ctl_setCtl_self]
    refine ⟨rfl, fun n hn => Bits.get_put_other _ _ _ _ hn, ?_⟩
    rw [Ctl.enterHandler_ahv]
    exact ahv_entered ahv hj
  · intro r words word pend
    refine ⟨⟨_, launchAnswer_answers hb hdue, fun h => ?_, fun b hne => ?_, (s.answerLaunch_others core id w addr due).1,
      (s.answerLaunch_others core id w addr due).2, s.answerLaunch_dat .., State.answerLaunch_eng id w addr due,
      fun p hp hw hl hh => State.answerLaunch_result w addr due hp hw hl hh⟩, State.launchResult_badAddress, fun hlow halign => ?_⟩
    · exact ((s.answerLaunch_blocks core id w addr due _).1 h).2 rfl
    · exact (s.answerLaunch_blocks core id w addr due b).trans (and_iff_left hne)
    · refine ⟨State.launchResult_full hlow halign, fun slot hslot => ⟨State.launchResult_lowPriority hlow halign hslot,
        State.launchResult_fullWord hlow halign hslot, fun hprio hfree => ⟨fun code =>
          State.launchResult_rejected hlow halign hslot hprio hfree, fun hrej => ?_⟩⟩⟩
      have hacc : r = (slot % 64 * 256, s.acceptChild core w addr slot) := State.launchResult_accepted hlow halign hslot hprio hfree hrej
      obtain ⟨hstand, htenant, hwords, hrec, haccept, hparent, hbudget⟩ := s.acceptChild_record core w addr slot
      rw [State.slot_die hslot] at hbudget
      rw [hacc]
      refine ⟨rfl, hstand, htenant, hwords, hrec, haccept, hparent, hbudget, fun i hi => State.acceptChild_gang_other w addr hi,
        State.acceptChild_onlyCore w addr slot, ?_, ?_⟩
      · rintro rfl
        exact State.acceptChild_core_none addr slot
      · rintro a rfl
        exact State.acceptChild_word a addr slot
  · obtain ⟨t, ht, hctl, hcoach, heng, hdat, hcores, hcoaches, hbytes⟩ := answers_setCtl_setCoach (phAdv_completes h)
    refine ⟨t, ht, ?_⟩
    beta_reduce
    rw [hctl, hcoach]
    obtain ⟨hfields, hblocks, hphase, hsr⟩ := c.advanced_parts k.ph.pht
    refine ⟨hfields, hblocks, hphase, hsr, heng, hdat, hcores, hcoaches, hbytes, fun hn => ?_, fun hn => ?_⟩
    · exact Phase.settle_below (Nat.succ_lt_succ hn)
    · dsimp only
      rw [Phase.settle_sixteenth (p := { k.ph with ndone := k.ph.ndone + 1 }) (State.advReady_prep h) (Nat.succ_le_succ hn)]
      exact ⟨rfl, rfl, rfl, rfl⟩
  · refine ⟨_, rfl, s.onlyCtl_setCtl core _, fun _ => rfl, ?_⟩
    rw [State.ctl_setCtl_self]
    refine ⟨rfl, fun b => ?_⟩
    rw [← State.fenceEnds_false]
    exact ⟨Ctl.mem_unblock_blocks, Ctl.mem_unblock_hblocks⟩
  · obtain ⟨t, ht, hctl, hcoach, heng, hdat, hcores, hcoaches, hbytes⟩ := answers_setCtl_setCoach (coreExited_exits hst hrun hrel)
    refine ⟨t, ht, hctl, heng, hdat, hcores, hcoaches, hbytes, ?_⟩
    rw [hcoach]
    exact ⟨Phase.countExit_counts, Phase.countExit_idle⟩
  · intro who n hrun hat hsome hlow
    refine ⟨_, barComplete_passes (State.barNumber_eq hsome hlow) hrun fun d hd => State.atBar_iff.2 (hat d hd), passBars_cores .., fun _ => ?_,
      fun d hd => passBars_core_other sc.toNat n hd s, fun d hd => passBars_core sc.toNat n hd s⟩
    rw [passBars_cores]
end

section
/-! PROOFS of the statements of the family 02_launch_and_placement, fifth part: the start tick of a coach (R35, R124, R368). -/

namespace Sys2Proof.Machine

section
variable {s : State} {kc t0 rx gi : Nat} {resume : Bool}

/-! ## When the tick is taken -/

theorem startTick_waits (hst : (s.coach kc).stand = .ready t0 rx resume) (hg : (s.coach kc).gang = some gi)
    (h : rx = 0 ∧ s.cyc < t0 ∨ rx ≠ 0 ∧ (s.cyc < rx ∨ ¬ s.hearsHome kc = true)) : exec (.startTick kc) s = .next s := by
  show execStartTick kc s = _
  simp only [execStartTick, hst, hg]
  rcases h with ⟨hrx, hcyc⟩ | ⟨hrx, hwait⟩
  · rw [if_pos hrx, if_pos hcyc]
  · rw [if_neg hrx, if_pos (hwait.imp_right (Bool.not_eq_true _).mp)]

theorem startTick_late (hst : (s.coach kc).stand = .ready t0 rx resume) (hg : (s.coach kc).gang = some gi) (hrx : rx ≠ 0)
    (hcome : rx ≤ s.cyc) (hhome : s.hearsHome kc = true) (hlate : t0 < s.cyc) :
    exec (.startTick kc) s = .next (s.loseFor gi ((s.coach kc).lco / ((s.gang gi).ncoach / (s.gang gi).ndie))) := by
  show execStartTick kc s = _
  simp only [execStartTick, hst, hg]
  rw [if_neg hrx, if_neg (by simp [hhome, hcome]), if_pos hlate]
  rfl

/-- A state once a coach has heard its tick: a tick that came over a route was the answer its die waited for. -/
def State.heardTick (s : State) (kc rx : Nat) : State := if rx = 0 then s else s.noteAnswer (dieOf kc)

theorem startTick_takes (hst : (s.coach kc).stand = .ready t0 rx resume) (hg : (s.coach kc).gang = some gi)
    (h : rx = 0 ∧ t0 ≤ s.cyc ∨ rx ≠ 0 ∧ rx ≤ s.cyc ∧ s.hearsHome kc = true ∧ s.cyc ≤ t0) :
    exec (.startTick kc) s = .next ((s.heardTick kc rx).takeTick kc gi t0 resume) := by
  show execStartTick kc s = _
  simp only [execStartTick, hst, hg]
  rcases h with ⟨hrx, hcyc⟩ | ⟨hrx, hcome, hhome, hcyc⟩
  · rw [if_pos hrx, if_neg (Nat.not_lt.2 hcyc), State.heardTick, if_pos hrx]
  · rw [if_neg hrx, if_neg (by simp [hhome, hcome]), if_neg (Nat.not_lt.2 hcyc), State.heardTick, if_neg hrx]

theorem State.takeTick_early (h : (s.gang gi).stand ≠ .stopping) (hcyc : s.cyc < t0) :
    s.takeTick kc gi t0 resume = s.setCoach kc { s.coach kc with stand := .ready t0 0 resume } := by
  rw [State.takeTick, if_neg h, if_pos hcyc]

theorem State.takeTick_stopping (h : (s.gang gi).stand = .stopping) :
    s.takeTick kc gi t0 resume = s.setCoach kc { s.coach kc with stand := .drained } := by
  rw [State.takeTick, if_pos h]

theorem State.takeTick_starts (h : (s.gang gi).stand ≠ .stopping) (hcyc : t0 ≤ s.cyc) :
    s.takeTick kc gi t0 resume = s.startCoach kc gi t0 resume := by
  rw [State.takeTick, if_neg h, if_neg (Nat.not_lt.2 hcyc)]

/-! ## Where the bytes of the capacity tier stand -/

/-- Only storage and the marks of the dies differ, and every page stands where it stood. -/
structure SameHomes (s t : State) : Prop where
  only : OnlyStorage s t
  regs : ∀ d, (t.die d).regs = (s.die d).regs
  pages : ∀ d p, (lookupD Page.reset (t.die d).pages p).coach = (lookupD Page.reset (s.die d).pages p).coach ∧
    (lookupD Page.reset (t.die d).pages p).slot = (lookupD Page.reset (s.die d).pages p).slot

theorem SameHomes.refl (s : State) : SameHomes s s := ⟨.refl s, fun _ => rfl, fun _ _ => ⟨rfl, rfl⟩⟩

theorem SameHomes.trans {s t u : State} (h : SameHomes s t) (k : SameHomes t u) : SameHomes s u :=
  ⟨h.only.trans k.only, fun d => (k.regs d).trans (h.regs d),
    fun d p => ⟨(k.pages d p).1.trans (h.pages d p).1, (k.pages d p).2.trans (h.pages d p).2⟩⟩

theorem SameHomes.coach {s t : State} (h : SameHomes s t) (i : Nat) : t.coach i = s.coach i := by rw [h.only]; rfl

theorem SameHomes.gangOf {s t : State} (h : SameHomes s t) (i : Nat) : t.gangOf i = s.gangOf i := by rw [h.only]; rfl

theorem SameHomes.capLoc {s t : State} (h : SameHomes s t) (die tenant off : Nat) : t.capLoc die tenant off = s.capLoc die tenant off := by
  simp only [State.capLoc, State.capBase, h.regs, h.pages]

theorem SameHomes.pooled {s t : State} (h : SameHomes s t) (d tenant g : Nat) : (t.die d).pooled tenant g = (s.die d).pooled tenant g := by
  unfold Die.pooled Die.kvpb Die.kvBase
  rw [h.regs]

/-- The mark of a write moves no page. -/
theorem Die.notePool_pages (d : Die) (coach slot p : Nat) :
    (lookupD Page.reset (d.notePool coach slot).pages p).coach = (lookupD Page.reset d.pages p).coach ∧
      (lookupD Page.reset (d.notePool coach slot).pages p).slot = (lookupD Page.reset d.pages p).slot := by
  unfold Die.notePool
  generalize d.pages = l
  induction l with
  | nil => exact ⟨rfl, rfl⟩
  | cons q l ih =>
    obtain ⟨i, x⟩ := q
    simp only [List.map_cons, lookupD]
    by_cases hi : i = p
    · subst hi
      split <;> simp
    · split <;> simpa [lookupD, hi] using ih

theorem State.notePages_sameHomes (l : List Nat) (s : State) : SameHomes s (s.notePages l) := by
  induction l generalizing s with
  | nil => exact .refl s
  | cons g l ih =>
    unfold State.notePages
    extract_lets coach slot d
    split
    · refine .trans (t := s.setDie (dieOf coach) (d.notePool coach slot)) ⟨rfl, fun i => ?_, fun i p => ?_⟩ (ih _)
      · rw [State.die_setDie]; split
        next h => rw [h]; rfl
        next => rfl
      · rw [State.die_setDie]; split
        next h => rw [h]; exact d.notePool_pages coach slot p
        next => exact ⟨rfl, rfl⟩
    · exact ih s

/-! ## The clearing of capacity (R124, R393) -/

theorem State.clearCapGranule_sameHomes (s : State) (kc g : Nat) : SameHomes s (s.clearCapGranule kc g) := by
  unfold State.clearCapGranule
  extract_lets base kept m
  exact .trans (t := { s with mem := m }) ⟨rfl, fun _ => rfl, fun _ _ => ⟨rfl, rfl⟩⟩ (State.notePages_sameHomes ..)

/-- Whether a byte of the tenant's capacity has been written by a chunk of `.data`. -/
def Coach.keeps (k : Coach) (o : Nat) : Bool := k.kept.any fun p => decide (p.1 ≤ o) && decide (o < p.1 + p.2)

theorem Coach.keeps_false {k : Coach} {o : Nat} : k.keeps o = false ↔ ∀ p ∈ k.kept, o < p.1 ∨ p.1 + p.2 ≤ o := by
  rw [Coach.keeps, List.any_eq_false]
  refine forall₂_congr fun p _ => ?_
  simp only [Bool.and_eq_true, decide_eq_true_eq]
  omega

/-- The clearing of a granule makes a byte 0 or leaves it. -/
theorem State.clearCapGranule_byte (s : State) (kc g i : Nat) :
    let base := (s.capLoc (dieOf kc) (s.gangOf kc).tenant (g * 4096)).key
    (s.clearCapGranule kc g).mem.byte i =
      if base ≤ i ∧ i < base + 4096 ∧ (s.coach kc).keeps (g * 4096 + (i - base)) = false then 0 else s.mem.byte i := by
  intro base
  have hmem : (s.clearCapGranule kc g).mem = _ := (State.notePages_same ..).2
  rw [hmem]
  refine (lookupD_filter 0 (fun c => !(decide (base ≤ c) && decide (c < base + 4096)) || (s.coach kc).keeps (g * 4096 + (c - base)))
    s.mem i).trans ?_
  by_cases h : base ≤ i ∧ i < base + 4096 ∧ (s.coach kc).keeps (g * 4096 + (i - base)) = false
  · obtain ⟨hlo, hhi, hkeep⟩ := h
    rw [if_neg (by simp [hlo, hhi, hkeep]), if_pos ⟨hlo, hhi, hkeep⟩]
  · rw [if_neg h, if_pos]
    · rfl
    · simp only [Bool.or_eq_true, Bool.not_eq_true', Bool.and_eq_false_iff, decide_eq_false_iff_not]
      by_contra hno
      simp only [not_or, not_not, Bool.not_eq_true] at hno
      exact h ⟨hno.1.1, hno.1.2, hno.2⟩

/-- A granule of capacity at the start tick, once more. -/
def State.clearCapStep (kc : Nat) (s : State) (g : Nat) : State :=
  if (s.die (dieOf kc)).pooled (s.gangOf kc).tenant g then s else s.clearCapGranule kc g

/-- The granules that the maps of a coach home in the capacity tier. -/
def State.capGranules (s : State) (kc : Nat) : List Nat :=
  (((s.coach kc).phases.flatMap id).filter fun e =>
    e.home == 3 && e.inAllotment ((s.die (dieOf kc)).capSize (s.gangOf kc).tenant)).flatMap fun e => span e.offg e.leng

theorem State.clearCap_eq (s : State) (kc : Nat) : s.clearCap kc = (s.capGranules kc).foldl (State.clearCapStep kc) s := rfl

theorem State.clearCapStep_sameHomes (kc : Nat) (s : State) (g : Nat) : SameHomes s (s.clearCapStep kc g) := by
  unfold State.clearCapStep
  split
  · exact .refl s
  · exact s.clearCapGranule_sameHomes kc g

theorem State.clearCapStep_zero {i : Nat} (h : s.mem.byte i = 0) (g : Nat) : (s.clearCapStep kc g).mem.byte i = 0 := by
  unfold State.clearCapStep
  split
  · exact h
  · rw [State.clearCapGranule_byte]
    split
    · rfl
    · exact h

theorem State.clearCap_onlyStorage (s : State) (kc : Nat) : OnlyStorage s (s.clearCap kc) :=
  foldl_onlyStorage (fun s g => (s.clearCapStep_sameHomes kc g).only) _ s

theorem State.clearCap_none (h : ∀ m ∈ (s.coach kc).phases, ∀ e ∈ m, e.home ≠ 3) : s.clearCap kc = s := by
  have hnone : s.capGranules kc = [] := by
    rw [State.capGranules, List.flatMap_eq_nil_iff]
    intro e he
    obtain ⟨he, hhome⟩ := List.mem_filter.1 he
    obtain ⟨m, hm, he⟩ := List.mem_flatMap.1 he
    exact absurd (by simp_all) (h m hm e he)
  rw [State.clearCap_eq, hnone]
  rfl

/-- The bytes of a granule of capacity that a map homes are 0 after the clearing, but for those of a pool and those kept. -/
theorem State.clearCap_zero {m : List MapEntry} {e : MapEntry} {g o : Nat} (hm : m ∈ (s.coach kc).phases) (he : e ∈ m) (hhome : e.home = 3)
    (hin : e.inAllotment ((s.die (dieOf kc)).capSize (s.gangOf kc).tenant) = true) (hlo : e.offg ≤ g) (hhi : g < e.offg + e.leng)
    (hpool : (s.die (dieOf kc)).pooled (s.gangOf kc).tenant g = false) (ho : o < 4096)
    (hkept : ∀ p ∈ (s.coach kc).kept, g * 4096 + o < p.1 ∨ p.1 + p.2 ≤ g * 4096 + o) :
    (s.clearCap kc).mem.byte ((s.capLoc (dieOf kc) (s.gangOf kc).tenant (g * 4096)).key + o) = 0 := by
  have hg : g ∈ s.capGranules kc := by
    refine List.mem_flatMap.2 ⟨e, List.mem_filter.2 ⟨List.mem_flatMap.2 ⟨m, hm, he⟩, by simp [hhome, hin]⟩, mem_span.2 ⟨hlo, hhi⟩⟩
  rw [State.clearCap_eq]
  refine foldl_reaches (I := SameHomes s) (Q := fun t => t.mem.byte _ = 0) hg (fun t j _ ht => ht.trans (t.clearCapStep_sameHomes kc j))
    (fun t ht => ?_) (fun t j _ hz => State.clearCapStep_zero hz j) (.refl s)
  have hnot : (t.die (dieOf kc)).pooled (t.gangOf kc).tenant g = false := by rw [ht.pooled, ht.gangOf, hpool]
  rw [State.clearCapStep, if_neg (by simp [hnot]), State.clearCapGranule_byte, ht.capLoc, ht.gangOf, ht.coach]
  exact if_pos ⟨by omega, by omega, by rw [Nat.add_sub_cancel_left]; exact Coach.keeps_false.2 hkept⟩

/-! ## The start of a coach -/

theorem Ctl.start_stand (c : Ctl) (t0 : Nat) (again : Bool) :
    (c.start t0 again).stand = if c.stand = .idle then .running else c.stand := by
  unfold Ctl.start
  cases again <;> cases hst : c.stand <;> simp [Ctl.setSr, hst]

theorem Ctl.start_cyc (c : Ctl) (t0 : Nat) (again : Bool) :
    (c.start t0 again).sr.get 0x008 = if again = true then c.sr.get 0x008 else BitVec.ofNat 64 t0 := by
  have hsr : (c.start t0 again).sr = (if again then c else c.setSr 0x008 (BitVec.ofNat 64 t0)).sr := by
    unfold Ctl.start
    dsimp only
    split <;> rfl
  rw [hsr]
  cases again with
  | true => rfl
  | false => exact Bits.get_put_self ..

/-- A coach's core at the start tick. -/
def State.startCore (t0 : Nat) (again : Bool) (s : State) (c : Nat) : State := s.setCtl c ((s.ctl c).start t0 again)

theorem startCores_core (again : Bool) {i : Nat} (h : coachOf i = kc) (s : State) :
    ((coresOf kc).foldl (State.startCore t0 again) s).core i = { s.core i with ctl := (s.ctl i).start t0 again } :=
  foldl_nodup (f := State.startCore t0 again) (get := fun t : State => t.core i) (I := fun _ => True) (R := fun x y => y = { x with ctl := x.ctl.start t0 again })
    (nodup_span _ _) (mem_coresOf.2 h) (fun _ _ _ _ => trivial) (fun t j _ _ hj => t.core_setCtl_other j i _ hj.symm)
    (fun t _ => t.core_setCtl_self i _) trivial

theorem startCores_core_other (again : Bool) {i : Nat} (h : coachOf i ≠ kc) (s : State) :
    ((coresOf kc).foldl (State.startCore t0 again) s).core i = s.core i :=
  foldl_frame (·.core i) (fun t j hj => t.core_setCtl_other j i _ fun hij => h (mem_coresOf.1 (hij ▸ hj))) s

theorem setCtl_cores_of {t : State} (h : t = { s with cores := t.cores }) (c : Nat) (x : Ctl) :
    t.setCtl c x = { s with cores := (t.setCtl c x).cores } := by
  rw [h]
  rfl

theorem startCores_cores (t0 : Nat) (again : Bool) (l : List Nat) (s : State) :
    ∃ cores, l.foldl (State.startCore t0 again) s = { s with cores := cores } :=
  ⟨_, foldl_inv (I := fun t => t = { s with cores := t.cores }) (fun _ c _ ht => setCtl_cores_of ht c _) rfl⟩

/-- Whether a coach starts for the first time in its gang: not again after a stop, nor inside an open step. -/
def State.startsAgain (s : State) (gi : Nat) (resume : Bool) : Bool := resume || (s.gang gi).open_

/-- A coach once its start tick has set it running. -/
def State.startedCoach (s : State) (kc gi : Nat) (resume : Bool) : Coach :=
  { s.coach kc with
    stand := .running, tclk := if resume then (s.coach kc).tsave else 0, frozen := false, opened := none, due := []
    warm := if resume then (coresOf kc).map fun c => (c, (s.ctl c).lines + 4) else [], stopDue := none
    preReq := (s.gang gi).preTmo != 0 }

/-- A gang once the start tick of one of its coaches has set it running. -/
def Gang.started (g : Gang) : Gang := { g with stand := if g.preTmo = 0 then .running else .preempting }

/-- A state once a coach has started, before its capacity is cleared. -/
def State.tickStarted (s : State) (kc gi t0 : Nat) (resume : Bool) : State :=
  ((((coresOf kc).foldl (State.startCore t0 (s.startsAgain gi resume)) s).setCoach kc (s.startedCoach kc gi resume)).setGang gi
    (s.gang gi).started).setRecord gi 0 2

theorem State.startCoach_eq (s : State) (kc gi t0 : Nat) (resume : Bool) : s.startCoach kc gi t0 resume =
    (if s.startsAgain gi resume then s.tickStarted kc gi t0 resume else (s.tickStarted kc gi t0 resume).clearCap kc).freezeLine kc := rfl

theorem State.setRecord_core (s : State) (g code st i : Nat) : (s.setRecord g code st).core i = s.core i := by
  rw [State.setRecord_eq]
  rfl

theorem State.setRecord_coach (s : State) (g code st i : Nat) : (s.setRecord g code st).coach i = s.coach i := by
  rw [State.setRecord_eq]
  rfl

theorem State.tickStarted_core {i : Nat} (h : coachOf i = kc) (gi t0 : Nat) (resume : Bool) :
    (s.tickStarted kc gi t0 resume).core i = { s.core i with ctl := (s.ctl i).start t0 (s.startsAgain gi resume) } := by
  rw [State.tickStarted, State.setRecord_core, State.core_setGang, State.core_setCoach, startCores_core _ h]

theorem State.tickStarted_core_other {i : Nat} (h : coachOf i ≠ kc) (gi t0 : Nat) (resume : Bool) :
    (s.tickStarted kc gi t0 resume).core i = s.core i := by
  rw [State.tickStarted, State.setRecord_core, State.core_setGang, State.core_setCoach, startCores_core_other _ h]

theorem State.tickStarted_coach (s : State) (kc gi t0 : Nat) (resume : Bool) :
    (s.tickStarted kc gi t0 resume).coach kc = s.startedCoach kc gi resume := by
  rw [State.tickStarted, State.setRecord_coach, State.coach_setGang, State.coach_setCoach_self]

theorem State.tickStarted_coach_other {i : Nat} (h : i ≠ kc) (gi t0 : Nat) (resume : Bool) :
    (s.tickStarted kc gi t0 resume).coach i = s.coach i := by
  obtain ⟨cores, hcores⟩ := startCores_cores t0 (s.startsAgain gi resume) (coresOf kc) s
  rw [State.tickStarted, State.setRecord_coach, State.coach_setGang, State.coach_setCoach_other _ _ _ _ h, hcores]
  rfl

theorem State.tickStarted_gang (s : State) (kc gi t0 : Nat) (resume : Bool) :
    (s.tickStarted kc gi t0 resume).gang gi = (s.gang gi).started := by
  rw [State.tickStarted, State.setRecord_gang, State.gang_setGang_self]

theorem State.tickStarted_dies (s : State) (kc gi t0 : Nat) (resume : Bool) : (s.tickStarted kc gi t0 resume).dies = s.dies := by
  obtain ⟨cores, hcores⟩ := startCores_cores t0 (s.startsAgain gi resume) (coresOf kc) s
  rw [State.tickStarted, State.setRecord_eq, hcores]
  rfl

/-- The launch record of a gang that starts (R21). -/
theorem State.tickStarted_mem (s : State) (kc gi t0 : Nat) (resume : Bool) :
    (s.tickStarted kc gi t0 resume).mem = (s.gang gi).recAt.elim s.mem fun a => s.mem.setNum (.dev (gi / 64) (a + 96)) 8 2 := by
  have hrec : (s.gang gi).started.recAt = (s.gang gi).recAt := rfl
  obtain ⟨cores, hcores⟩ := startCores_cores t0 (s.startsAgain gi resume) (coresOf kc) s
  rw [State.tickStarted, State.setRecord, State.gang_setGang_self, hrec, hcores]
  cases (s.gang gi).recAt <;> rfl

theorem State.freezeLine_running (h : (s.coach kc).stand = .running) :
    ∃ f tl warm, s.freezeLine kc = s.setCoach kc { s.coach kc with frozen := f, tl := tl, warm := warm } := by
  unfold State.freezeLine
  extract_lets k paced f tl
  have hk : k.stand = .running := h
  simp only [hk]
  exact ⟨_, _, _, rfl⟩

/-- A state before the freeze line of its first cycle: the coach has started, and its capacity is cleared at its first start tick. -/
def State.tickOpened (s : State) (kc gi t0 : Nat) (resume : Bool) : State :=
  if s.startsAgain gi resume then s.tickStarted kc gi t0 resume else (s.tickStarted kc gi t0 resume).clearCap kc

theorem State.tickOpened_onlyStorage (s : State) (kc gi t0 : Nat) (resume : Bool) :
    OnlyStorage (s.tickStarted kc gi t0 resume) (s.tickOpened kc gi t0 resume) := by
  unfold State.tickOpened
  split
  · exact .refl _
  · exact State.clearCap_onlyStorage ..

theorem State.startCoach_freezes (s : State) (kc gi t0 : Nat) (resume : Bool) : ∃ f tl warm, s.startCoach kc gi t0 resume =
    (s.tickOpened kc gi t0 resume).setCoach kc { s.startedCoach kc gi resume with frozen := f, tl := tl, warm := warm } := by
  have hcoach : (s.tickOpened kc gi t0 resume).coach kc = s.startedCoach kc gi resume := by
    rw [State.tickOpened_onlyStorage]
    exact s.tickStarted_coach kc gi t0 resume
  obtain ⟨f, tl, warm, h⟩ := State.freezeLine_running (s := s.tickOpened kc gi t0 resume) (kc := kc) (by rw [hcoach]; rfl)
  rw [hcoach] at h
  exact ⟨f, tl, warm, h⟩

theorem State.startCoach_mem (s : State) (kc gi t0 : Nat) (resume : Bool) :
    (s.startCoach kc gi t0 resume).mem = (s.tickOpened kc gi t0 resume).mem := by
  obtain ⟨f, tl, warm, h⟩ := s.startCoach_freezes kc gi t0 resume
  rw [h]
  rfl

/-- What the start of a coach does beside storage. -/
theorem State.startCoach_starts (s : State) (kc gi t0 : Nat) (resume : Bool) :
    let t := s.startCoach kc gi t0 resume
    (t.coach kc).stand = .running ∧ (t.coach kc).tclk = (if resume then (s.coach kc).tsave else 0) ∧
      (t.gang gi).stand = (if (s.gang gi).preTmo = 0 then .running else .preempting) ∧
      (t.coach kc).preReq = decide ((s.gang gi).preTmo ≠ 0) ∧
      (∀ i, i ≠ kc → t.coach i = s.coach i) ∧ (∀ i, coachOf i ≠ kc → t.core i = s.core i) ∧
      ∀ i, coachOf i = kc → t.core i = { s.core i with ctl := (s.ctl i).start t0 (s.startsAgain gi resume) } := by
  obtain ⟨f, tl, warm, h⟩ := s.startCoach_freezes kc gi t0 resume
  intro t
  have hcore (i : Nat) : t.core i = (s.tickStarted kc gi t0 resume).core i := by
    rw [show t = _ from h, State.core_setCoach, State.tickOpened_onlyStorage]
    rfl
  have hcoach : t.coach kc = { s.startedCoach kc gi resume with frozen := f, tl := tl, warm := warm } := by
    rw [show t = _ from h, State.coach_setCoach_self]
  have hother (i : Nat) (hi : i ≠ kc) : t.coach i = (s.tickStarted kc gi t0 resume).coach i := by
    rw [show t = _ from h, State.coach_setCoach_other _ _ _ _ hi, State.tickOpened_onlyStorage]
    rfl
  have hgang : t.gang gi = (s.gang gi).started := by
    rw [show t = _ from h, State.gang_setCoach, State.tickOpened_onlyStorage, ← s.tickStarted_gang kc gi t0 resume]
    rfl
  refine ⟨by rw [hcoach]; rfl, by rw [hcoach]; rfl, by rw [hgang]; rfl, ?_, fun i hi => ?_, fun i hi => ?_, fun i hi => ?_⟩
  · rw [hcoach, Bool.eq_iff_iff]
    simp [State.startedCoach]
  · rw [hother i hi, State.tickStarted_coach_other hi]
  · rw [hcore, State.tickStarted_core_other hi]
  · rw [hcore, State.tickStarted_core hi]

/-- A start that clears no capacity writes the launch record alone. -/
theorem State.startCoach_record (h : s.startsAgain gi resume = true ∨ ∀ m ∈ (s.coach kc).phases, ∀ e ∈ m, e.home ≠ 3) :
    (s.startCoach kc gi t0 resume).mem = (s.gang gi).recAt.elim s.mem fun a => s.mem.setNum (.dev (gi / 64) (a + 96)) 8 2 := by
  have hopened : s.tickOpened kc gi t0 resume = s.tickStarted kc gi t0 resume := by
    unfold State.tickOpened
    split
    · rfl
    next hno =>
      refine State.clearCap_none ?_
      rw [State.tickStarted_coach]
      exact h.resolve_left hno
  rw [State.startCoach_mem, hopened, State.tickStarted_mem]

theorem State.gangOf_of {u : State} (h : (u.coach kc).gang = some gi) : u.gangOf kc = u.gang gi := by
  rw [State.gangOf, h]

/-- The first start of a coach clears the capacity that its maps home. -/
theorem State.startCoach_clears {m : List MapEntry} {e : MapEntry} {g o : Nat} (hfirst : s.startsAgain gi resume = false)
    (hg : (s.coach kc).gang = some gi) (hm : m ∈ (s.coach kc).phases) (he : e ∈ m) (hhome : e.home = 3)
    (hin : e.inAllotment ((s.die (dieOf kc)).capSize (s.gang gi).tenant) = true) (hlo : e.offg ≤ g) (hhi : g < e.offg + e.leng)
    (hpool : (s.die (dieOf kc)).pooled (s.gang gi).tenant g = false) (ho : o < 4096)
    (hkept : ∀ p ∈ (s.coach kc).kept, g * 4096 + o < p.1 ∨ p.1 + p.2 ≤ g * 4096 + o) :
    (s.startCoach kc gi t0 resume).mem.byte ((s.capLoc (dieOf kc) (s.gang gi).tenant (g * 4096)).key + o) = 0 := by
  let u := s.tickStarted kc gi t0 resume
  have hcoach : u.coach kc = s.startedCoach kc gi resume := s.tickStarted_coach kc gi t0 resume
  have hten : (u.gangOf kc).tenant = (s.gang gi).tenant := by
    rw [State.gangOf_of (by rw [hcoach]; exact hg), show u.gang gi = _ from s.tickStarted_gang kc gi t0 resume]
    rfl
  have hdie : u.die (dieOf kc) = s.die (dieOf kc) := State.die_congr (s.tickStarted_dies kc gi t0 resume) _
  have hloc (off : Nat) : u.capLoc (dieOf kc) (s.gang gi).tenant off = s.capLoc (dieOf kc) (s.gang gi).tenant off := by
    rw [State.capLoc, State.capLoc, State.capBase, State.capBase, hdie]
  have hzero := State.clearCap_zero (s := u) (kc := kc) (m := m) (e := e) (g := g) (o := o) (by rw [hcoach]; exact hm) he hhome
    (by rw [hten, hdie]; exact hin) hlo hhi (by rw [hten, hdie]; exact hpool) ho (by rw [hcoach]; exact hkept)
  rw [hten, hloc] at hzero
  rwa [State.startCoach_mem, State.tickOpened, if_neg (by simp [hfirst])]

/-- Hearing a tick changes at most the answer that its die waits for. -/
theorem State.heardTick_dies (s : State) (kc rx : Nat) : ∃ dies, s.heardTick kc rx = { s with dies := dies } := by
  unfold State.heardTick
  split <;> exact ⟨_, rfl⟩

theorem State.heardTick_sameHomes (s : State) (kc rx : Nat) : SameHomes s (s.heardTick kc rx) := by
  unfold State.heardTick
  split
  · exact .refl s
  · refine ⟨rfl, fun d => ?_, fun d p => ?_⟩
    · rw [State.noteAnswer, State.die_setDie]
      split
      next h => rw [h]
      next => rfl
    · rw [State.noteAnswer, State.die_setDie]
      split
      next h => rw [h]; exact ⟨rfl, rfl⟩
      next => exact ⟨rfl, rfl⟩

theorem SameHomes.capSize {s t : State} (h : SameHomes s t) (d tenant : Nat) : (t.die d).capSize tenant = (s.die d).capSize tenant := by
  rw [Die.capSize, Die.capSize, h.regs]

/-- A tick that starts no coach changes the coach alone, beside the answer. -/
theorem State.heardTick_setCoach (s : State) (kc rx : Nat) (x : Coach) :
    let t := (s.heardTick kc rx).setCoach kc x
    t = { s with coaches := t.coaches, dies := t.dies } ∧ t.coach kc = x ∧ ∀ i, i ≠ kc → t.coach i = s.coach i := by
  obtain ⟨dies, h⟩ := s.heardTick_dies kc rx
  rw [h]
  exact ⟨rfl, State.coach_setCoach_self .., fun i hi => State.coach_setCoach_other _ kc i x hi⟩

section
variable (hst : (s.coach kc).stand = .ready t0 rx resume) (hg : (s.coach kc).gang = some gi)
include hst hg

theorem startTick_early (hrx : rx ≠ 0) (hcome : rx ≤ s.cyc) (hhome : s.hearsHome kc = true) (hcyc : s.cyc < t0)
    (hgo : (s.gang gi).stand ≠ .stopping) :
    exec (.startTick kc) s = .next ((s.heardTick kc rx).setCoach kc { s.coach kc with stand := .ready t0 0 resume }) := by
  rw [startTick_takes hst hg (.inr ⟨hrx, hcome, hhome, Nat.le_of_lt hcyc⟩)]
  obtain ⟨dies, h⟩ := s.heardTick_dies kc rx
  rw [h]
  exact congrArg _ (State.takeTick_early (s := { s with dies := dies }) hgo hcyc)

theorem startTick_stopped (hcome : rx = 0 ∧ t0 ≤ s.cyc ∨ rx ≠ 0 ∧ rx ≤ s.cyc ∧ s.hearsHome kc = true ∧ s.cyc = t0)
    (hstop : (s.gang gi).stand = .stopping) :
    exec (.startTick kc) s = .next ((s.heardTick kc rx).setCoach kc { s.coach kc with stand := .drained }) := by
  rw [startTick_takes hst hg (hcome.imp_right fun ⟨hrx, hle, hhome, hcyc⟩ => ⟨hrx, hle, hhome, Nat.le_of_eq hcyc⟩)]
  obtain ⟨dies, h⟩ := s.heardTick_dies kc rx
  rw [h]
  exact congrArg _ (State.takeTick_stopping (s := { s with dies := dies }) hstop)

theorem startTick_starts (hcome : rx = 0 ∧ t0 ≤ s.cyc ∨ rx ≠ 0 ∧ rx ≤ s.cyc ∧ s.hearsHome kc = true ∧ s.cyc = t0)
    (hgo : (s.gang gi).stand ≠ .stopping) :
    exec (.startTick kc) s = .next ((s.heardTick kc rx).startCoach kc gi t0 resume) := by
  have hcyc : t0 ≤ s.cyc := by omega
  rw [startTick_takes hst hg (hcome.imp_right fun ⟨hrx, hle, hhome, hcyc⟩ => ⟨hrx, hle, hhome, Nat.le_of_eq hcyc⟩)]
  obtain ⟨dies, h⟩ := s.heardTick_dies kc rx
  rw [h]
  exact congrArg _ (State.takeTick_starts (s := { s with dies := dies }) hgo hcyc)
end

theorem State.startsAgain_iff : s.startsAgain gi resume = true ↔ resume = true ∨ (s.gang gi).open_ = true := by
  rw [State.startsAgain, Bool.or_eq_true]

/-- A core of a coach that starts keeps its engines and its data, and dispatches unless it has exited (R35, R374). -/
theorem State.startCoach_core {i : Nat} (h : coachOf i = kc) (gi t0 : Nat) (resume : Bool) :
    let t := s.startCoach kc gi t0 resume
    t.eng i = s.eng i ∧ t.dat i = s.dat i ∧
      (t.ctl i).stand = (if (s.ctl i).stand = .idle then .running else (s.ctl i).stand) ∧
      (t.ctl i).sr.get 0x008 = if resume = true ∨ (s.gang gi).open_ = true then (s.ctl i).sr.get 0x008 else BitVec.ofNat 64 t0 := by
  obtain ⟨-, -, -, -, -, -, hcores⟩ := s.startCoach_starts kc gi t0 resume
  have hcore := hcores i h
  intro t
  have hctl : t.ctl i = (s.ctl i).start t0 (s.startsAgain gi resume) := congrArg Core.ctl hcore
  have heng : t.eng i = s.eng i := by rw [State.eng, show t.core i = _ from hcore]; rfl
  have hdat : t.dat i = s.dat i := by rw [State.dat, show t.core i = _ from hcore]; rfl
  refine ⟨heng, hdat, ?_, ?_⟩
  · rw [hctl, Ctl.start_stand]
  · rw [hctl, Ctl.start_cyc]
    exact if_congr State.startsAgain_iff rfl rfl

/-- The launch record after a start that clears no capacity (R21). -/
theorem State.startCoach_bytes (h : s.startsAgain gi resume = true ∨ ∀ m ∈ (s.coach kc).phases, ∀ e ∈ m, e.home ≠ 3) :
    let t := s.startCoach kc gi t0 resume
    ((s.gang gi).recAt = none → SameBytes s t) ∧
      ∀ a, (s.gang gi).recAt = some a → t.mem.num (.dev (gi / 64) (a + 96)) 8 = 2 ∧
        ∀ i, i < (Loc.dev (gi / 64) (a + 96)).key ∨ (Loc.dev (gi / 64) (a + 96)).key + 8 ≤ i → t.mem.byte i = s.mem.byte i := by
  intro t
  have hmem : t.mem = _ := State.startCoach_record (t0 := t0) h
  refine ⟨fun hrec i => by rw [hmem, hrec]; rfl, fun a hrec => ?_⟩
  rw [hmem, hrec, Option.elim_some]
  exact ⟨Mem.num_setNum_self .., fun i hi => Mem.byte_setNum_other _ _ _ _ _ hi⟩

end

end Sys2Proof.Machine
end

section
/-! PROOFS of the statements of the family 02_launch_and_placement, sixth part: the TCLK cycle, the ring lanes, timeline words, landings and the
freeze line (R95, R158, R177 to R184). -/

namespace Sys2Proof.Machine

section
variable {s : State} {kc core : Nat}

/-! ## The work of one core in a TCLK cycle (R95) -/

/-- Among the cores only one differs, and no coach has counted a cycle. -/
structure WorksOn (core : Nat) (s t : State) : Prop where
  core : ∀ i, i ≠ core → t.core i = s.core i
  tclk : ∀ i, (t.coach i).tclk = (s.coach i).tclk

theorem WorksOn.refl (core : Nat) (s : State) : WorksOn core s s := ⟨fun _ _ => rfl, fun _ => rfl⟩

theorem WorksOn.trans {s t u : State} (h : WorksOn core s t) (k : WorksOn core t u) : WorksOn core s u :=
  ⟨fun i hi => (k.core i hi).trans (h.core i hi), fun i => (k.tclk i).trans (h.tclk i)⟩

theorem WorksOn.of_same {t : State} (hcores : t.cores = s.cores) (hcoaches : t.coaches = s.coaches) : WorksOn core s t :=
  ⟨fun i _ => State.core_congr hcores i, fun i => congrArg Coach.tclk (State.coach_congr hcoaches i)⟩

theorem State.setCore_worksOn (s : State) (core : Nat) (x : Core) : WorksOn core s (s.setCore core x) :=
  ⟨fun i hi => s.core_setCore_other core i x hi, fun _ => rfl⟩

theorem State.setCoach_worksOn (core : Nat) {x : Coach} (h : x.tclk = (s.coach kc).tclk) : WorksOn core s (s.setCoach kc x) := by
  refine ⟨fun _ _ => rfl, fun i => ?_⟩
  rw [State.coach_setCoach]
  split
  next hi => rw [hi, h]
  next => rfl

theorem OnlyMessages.worksOn {t : State} (h : OnlyMessages s t) (core : Nat) : WorksOn core s t := by
  rw [h]
  exact .of_same rfl rfl

theorem State.setOut_worksOn (s : State) (core coach : Nat) (w : OutW) : WorksOn core s (s.setOut coach w) := State.setCoach_worksOn core rfl

theorem State.transmit_worksOn (s : State) (core coach : Nat) (w : OutW) (r : Nat × Nat) : WorksOn core s (s.transmit coach w r) := by
  simp only [State.transmit]
  split
  · exact (s.setOut_worksOn ..).trans ((State.arrive_onlyMessages ..).worksOn core)
  split
  next t ht => exact (s.setOut_worksOn ..).trans ((State.hop_onlyMessages ht).worksOn core)
  next => exact s.setOut_worksOn ..

theorem State.sendWrite_worksOn (s : State) (core coach : Nat) (w : OutW) : WorksOn core s (s.sendWrite coach w) := by
  unfold State.sendWrite
  split
  · exact s.transmit_worksOn ..
  · exact s.setOut_worksOn ..

theorem State.postWrite_worksOn (s : State) (core t : Nat) (w : OutW) (released : Bool) : WorksOn core s (s.postWrite core t w released) := by
  unfold State.postWrite
  dsimp -zeta only
  extract_lets kc k rel w1 fab s0 s1 c n s2
  have h0 : WorksOn core s s0 := State.setCoach_worksOn core rfl
  have h1 : WorksOn core s s1 := h0.trans (.of_same rfl rfl)
  have h2 : WorksOn core s s2 := by
    unfold s2
    split
    · exact h1.trans (s1.setCore_worksOn core _)
    · exact h1
  clear_value s2 w1 rel
  split
  · exact h2.trans (s2.sendWrite_worksOn ..)
  split
  · exact h2.trans (s2.sendWrite_worksOn ..)
  · exact h2

theorem State.postPiece_worksOn (s : State) (r : Run) (core addr mask : Nat) (data : List Byte) (stream : Nat) (rel : Bool) :
    WorksOn core s (s.postPiece r core addr mask data stream rel) := by
  unfold State.postPiece
  dsimp only
  split
  · exact .refl ..
  · exact s.postWrite_worksOn ..

theorem State.storeCells_worksOn (s : State) (coach core map : Nat) (cells : List Host.Cell) :
    WorksOn core s (s.storeCells coach core map cells) := by
  unfold State.storeCells
  extract_lets k m at_ now late ph src s1
  have h1 : WorksOn core s s1 := by
    unfold s1
    split
    · have hsrc : WorksOn core s src := State.setCoach_worksOn core rfl
      exact hsrc.trans (.of_same rfl rfl)
    · exact .of_same rfl rfl
  rw [State.notePages_dies]
  exact h1.trans (.of_same rfl rfl)

theorem State.outEff_worksOn (core : Nat) (r : Run) (s : State) (w : WEff) : WorksOn core s (State.outEff core r s w) := by
  unfold State.outEff
  split
  · exact s.storeCells_worksOn ..
  · exact s.postPiece_worksOn ..
  · exact .refl ..

theorem State.coreCycle_worksOn (late : List Nat) (s : State) (core : Nat) (runs : List Run) : WorksOn core s (s.coreCycle late core runs) := by
  unfold State.coreCycle
  extract_lets act p c c1 kept x s1 kc k s2
  have h1 : WorksOn core s s1 := ((s.setCore_worksOn core _).trans (State.setCore_worksOn _ core _)).trans (State.setCore_worksOn _ core _)
  have h2 : WorksOn core s s2 := by
    unfold s2
    split
    · exact h1.trans (State.setCoach_worksOn core rfl)
    · exact h1
  exact foldl_inv (I := WorksOn core s) (fun t r _ ht => foldl_inv (I := WorksOn core s)
    (fun u w _ hu => hu.trans (State.outEff_worksOn core r u w)) ht) h2

theorem State.settleCore_worksOn (s : State) (core : Nat) : WorksOn core s (s.settleCore core) := by
  unfold State.settleCore
  extract_lets t
  have ht : WorksOn core s t := ⟨fun i hi => s.settleSigs_core_other hi, fun i => by rw [show t = _ from s.settleSigs_cores core]; rfl⟩
  exact ht.trans (t.setCore_worksOn core _)

/-! ## The end of a TCLK cycle -/

theorem State.openCycle_opened (h : (s.coach kc).opened = some s.cyc) : s.openCycle kc = s := if_pos h

theorem State.readRuns_nil (late halves : List Nat) (h : (s.eng core).run = []) : s.readRuns late halves core = [] := by
  simp [State.readRuns, h]

/-- The runs of the cores of a coach in the cycle, after their reads. -/
def State.cycleRuns (s : State) (kc : Nat) : List (Nat × List Run) :=
  (coresOf kc).map fun c => (c, s.readRuns (s.deferred kc) (s.halves kc (s.deferred kc)) c)

/-- A core that has issued entries works. -/
def State.workCore (late : List Nat) (t : State) (p : Nat × List Run) : State := if p.2.isEmpty then t else t.coreCycle late p.1 p.2

/-- A core that has worked settles. -/
def State.restCore (t : State) (p : Nat × List Run) : State := if p.2.isEmpty then t else t.settleCore p.1

/-- The work of a cycle, before the coach counts it. -/
def State.worked (s : State) (kc : Nat) : State :=
  (s.cycleRuns kc).foldl (State.workCore (s.deferred kc ++ s.halves kc (s.deferred kc))) s

theorem State.performCycle_eq (s : State) (kc : Nat) : s.performCycle kc =
    (s.cycleRuns kc).foldl State.restCore ((s.worked kc).setCoach kc { (s.worked kc).coach kc with tclk := ((s.worked kc).coach kc).tclk + 1 }) := rfl

theorem State.workCore_worksOn (late : List Nat) (t : State) (p : Nat × List Run) : WorksOn p.1 t (t.workCore late p) := by
  unfold State.workCore
  split
  · exact .refl ..
  · exact t.coreCycle_worksOn ..

theorem State.restCore_worksOn (t : State) (p : Nat × List Run) : WorksOn p.1 t (t.restCore p) := by
  unfold State.restCore
  split
  · exact .refl ..
  · exact t.settleCore_worksOn ..

theorem State.worked_tclk (s : State) (kc i : Nat) : ((s.worked kc).coach i).tclk = (s.coach i).tclk :=
  foldl_frame (fun t : State => (t.coach i).tclk) (fun t p _ => (t.workCore_worksOn _ p).tclk i) s

theorem State.rested_tclk (l : List (Nat × List Run)) (t : State) (i : Nat) : ((l.foldl State.restCore t).coach i).tclk = (t.coach i).tclk :=
  foldl_frame (fun t : State => (t.coach i).tclk) (fun t p _ => (t.restCore_worksOn p).tclk i) t

theorem State.performCycle_tclk (s : State) (kc : Nat) : ((s.performCycle kc).coach kc).tclk = (s.coach kc).tclk + 1 := by
  rw [State.performCycle_eq, State.rested_tclk, State.coach_setCoach_self, s.worked_tclk]

theorem State.performCycle_tclk_other {i : Nat} (h : i ≠ kc) : ((s.performCycle kc).coach i).tclk = (s.coach i).tclk := by
  rw [State.performCycle_eq, State.rested_tclk, State.coach_setCoach_other _ _ _ _ h, s.worked_tclk]

/-- A core of another coach has no runs in the cycle, and neither has a core without issued entries. -/
theorem State.cycleRuns_other {i : Nat} (h : coachOf i = kc → (s.eng i).run = []) {p : Nat × List Run} (hp : p ∈ s.cycleRuns kc) :
    p.2.isEmpty = true ∨ i ≠ p.1 := by
  obtain ⟨c, hc, rfl⟩ := List.mem_map.1 hp
  by_cases hi : i = c
  · subst hi
    exact .inl (by rw [State.readRuns_nil _ _ (h (mem_coresOf.1 hc))]; rfl)
  · exact .inr hi

theorem State.performCycle_core {i : Nat} (h : coachOf i = kc → (s.eng i).run = []) : (s.performCycle kc).core i = s.core i := by
  have hrest (t : State) : ((s.cycleRuns kc).foldl State.restCore t).core i = t.core i := by
    refine foldl_frame (·.core i) (fun t p hp => ?_) t
    rcases State.cycleRuns_other h hp with hp | hp
    · rw [State.restCore, if_pos hp]
    · exact (t.restCore_worksOn p).core i hp
  have hwork : (s.worked kc).core i = s.core i := by
    refine foldl_frame (·.core i) (fun t p hp => ?_) s
    rcases State.cycleRuns_other h hp with hp | hp
    · rw [State.workCore, if_pos hp]
    · exact (t.workCore_worksOn _ p).core i hp
  rw [State.performCycle_eq, hrest, State.core_setCoach, hwork]

/-- A cycle without issued entries counts, and does nothing else. -/
theorem State.performCycle_idle (h : ∀ i, coachOf i = kc → (s.eng i).run = []) :
    s.performCycle kc = s.setCoach kc { s.coach kc with tclk := (s.coach kc).tclk + 1 } := by
  have hnone (p : Nat × List Run) (hp : p ∈ s.cycleRuns kc) : p.2.isEmpty = true := by
    obtain ⟨c, hc, rfl⟩ := List.mem_map.1 hp
    rw [State.readRuns_nil _ _ (h c (mem_coresOf.1 hc))]
    rfl
  have hwork : s.worked kc = s := foldl_inv (I := (· = s)) (fun t p hp ht => by rw [State.workCore, if_pos (hnone p hp), ht]) rfl
  rw [State.performCycle_eq, hwork]
  exact foldl_inv (I := (· = s.setCoach kc _)) (fun t p hp ht => by rw [State.restCore, if_pos (hnone p hp), ht]) rfl

theorem timedWritePerform_performs (hplace : s.takesPlace kc = true) (hopen : (s.coach kc).opened = some s.cyc) (hdue : (s.coach kc).due = []) :
    exec (.timedWritePerform kc) s = .next (s.performCycle kc) := by
  show execTimedWritePerform kc s = _
  rw [execTimedWritePerform, if_pos hplace, State.openCycle_opened hopen]
  exact if_pos hdue

/-! ## The ring lanes (R158) -/

theorem ringBeatPark_cycles (hplace : s.takesPlace kc = true) (hopen : (s.coach kc).opened = some s.cyc) (hdue : (s.coach kc).due = []) :
    exec (.ringBeatPark kc) s = .next (s.ringCycle kc) := by
  show execRingBeatPark kc s = _
  rw [execRingBeatPark, if_pos hplace, State.openCycle_opened hopen]
  exact if_pos hdue

/-- Beats enter only from entries that have issued (R159). -/
theorem enterAll_idle (kc : Nat) (l : List Nat) (h : ∀ c ∈ l, (s.eng c).run = []) : enterAll kc l s = s := by
  induction l with
  | nil => rfl
  | cons c l ih =>
    have hnone : enteringBeats (s.eng c) = [] := by rw [enteringBeats, h c List.mem_cons_self]; rfl
    unfold enterAll
    simp only [hnone]
    exact ih fun i hi => h i (List.mem_cons_of_mem c hi)

theorem parkBeats_frame (kc : Nat) (l : List Beat) (k : Coach) : parkBeats kc l k = { k with park := (parkBeats kc l k).park } := by
  induction l generalizing k with
  | nil => rfl
  | cons b l ih =>
    unfold parkBeats
    dsimp only
    rw [ih]
    split <;> rfl

/-- A coach once its beats have moved and parked. -/
def Coach.ringMoved (k : Coach) (kc : Nat) : Coach :=
  parkBeats kc (arrived (moveBeats k.beats)) { k with beats := (moveBeats k.beats).filter fun b => b.pos != b.target }

theorem State.ringCycle_idle (h : ∀ i, coachOf i = kc → (s.eng i).run = []) :
    s.ringCycle kc = s.setCoach kc ((s.coach kc).ringMoved kc) :=
  enterAll_idle kc (coresOf kc) fun c hc => h c (mem_coresOf.1 hc)

theorem Coach.ringMoved_beats (k : Coach) (kc : Nat) :
    (k.ringMoved kc).beats = (moveBeats k.beats).filter fun b => b.pos != b.target := by
  rw [Coach.ringMoved, parkBeats_frame]

/-- The only beat of a coach parks where it arrives. -/
theorem Coach.ringMoved_parks {k : Coach} {b : Beat} (hb : k.beats = [b]) (hpos : ringNext b.lane b.pos = b.target)
    (hroom : (lookupD [] k.park (coreIx (beatCore kc b) * 16 + b.lane)).length < 4) :
    lookupD [] (k.ringMoved kc).park (coreIx (beatCore kc b) * 16 + b.lane) =
      lookupD [] k.park (coreIx (beatCore kc b) * 16 + b.lane) ++ [b.data] := by
  have harrived : arrived (moveBeats k.beats) = [{ b with pos := ringNext b.lane b.pos }] := by simp [arrived, moveBeats, hb, hpos]
  have hcore : beatCore kc { b with pos := ringNext b.lane b.pos } = beatCore kc b := rfl
  rw [Coach.ringMoved, harrived, parkBeats, parkBeats]
  dsimp only
  rw [hcore, if_pos hroom, lookupD_putKey_self]

/-! ## Timeline words (R177 to R181) -/

theorem timelineWord_faults {cause : Nat × Nat} (hdue : s.wordDue kc = true)
    (h : (s.coach kc).tl.cause (s.tlWord kc ((s.coach kc).tl.base + (s.coach kc).tl.word)) (s.coach kc).tl.at_ (s.poolByte kc) = some cause) :
    exec (.timelineWord kc) s = .next (s.tlFault kc cause) := by
  show execTimelineWord kc s = _
  simp only [execTimelineWord, if_pos hdue, h]

theorem timelineWord_acts (hdue : s.wordDue kc = true)
    (h : (s.coach kc).tl.cause (s.tlWord kc ((s.coach kc).tl.base + (s.coach kc).tl.word)) (s.coach kc).tl.at_ (s.poolByte kc) = none) :
    exec (.timelineWord kc) s = .next (s.tlAct kc (s.tlWord kc ((s.coach kc).tl.base + (s.coach kc).tl.word))) := by
  show execTimelineWord kc s = _
  simp only [execTimelineWord, if_pos hdue, h]

/-- A word that acts changes its coach, and for a WR storage. -/
theorem State.tlAct_eq (s : State) (kc : Nat) (x : Word) : ∃ tl, s.tlAct kc x = { s.setCoach kc { s.coach kc with tl := tl } with
      mem := if tlCmd x = 3 then s.mem.write (Loc.hbm kc (tlByte x)).key (s.mem.read (Loc.sram kc (tlSram x)).key 64) else s.mem } ∧
    tl.word = (s.coach kc).tl.word + 1 ∧ tl.running = (tlCmd x != 0) ∧
    (tlCmd x ≠ 0 → tl.at_ = (s.coach kc).tl.at_ + tlDelta (s.tlWord kc ((s.coach kc).tl.base + (s.coach kc).tl.word + 1))) ∧
    tl.land = (if tlCmd x = 2 then (s.coach kc).tl.land ++
        [((s.coach kc).tl.at_ + 96, (s.coach kc).tl.core, tlSram x, s.mem.read (Loc.hbm kc (tlByte x)).key 64)]
      else if tlCmd x = 3 then (s.coach kc).tl.land ++ [((s.coach kc).tl.at_, (s.coach kc).tl.core, tlSram x, [])]
      else (s.coach kc).tl.land) := by
  unfold State.tlAct
  extract_lets k t w c command pcs cmds next sram row land t1 s1
  refine ⟨t1, ?_, rfl, rfl, fun h => if_neg h, rfl⟩
  split <;> rfl

/-! ## Landings (R179, R184) -/

theorem writeCells_cellsAt (bs : List Byte) (m : Mem) (k : Nat) : m.writeCells (cellsAt k bs) = m.write k bs := by
  induction bs generalizing m k with
  | nil => rfl
  | cons b bs ih => exact ih _ _

theorem landCells_one (kc : Nat) (l : Nat × Nat × Nat × List Byte) (m : Mem) :
    m.writeCells ([l].flatMap (landCells kc)) = m.write (Loc.sram kc l.2.2.1).key l.2.2.2 := by
  rw [List.flatMap_singleton, landCells, writeCells_cellsAt]

/-- The landings of a coach that are due. -/
def Coach.dueLandings (k : Coach) : List (Nat × Nat × Nat × List Byte) := k.tl.land.filter fun l => decide (l.1 < k.tclk)

/-- A coach once its due landings are written. -/
def State.landedCoach (s : State) (kc : Nat) : Coach :=
  { s.coach kc with
    landed := (((s.coach kc).dueLandings.flatMap (landCells kc)).map fun c => (c.1, s.mem.byte c.1)) ++ (s.coach kc).landed
    tl := { (s.coach kc).tl with land := (s.coach kc).tl.land.filter fun l => !decide (l.1 < (s.coach kc).tclk) } }

/-- A state once the due landings of a coach are written. -/
def State.landAll (s : State) (kc : Nat) : State :=
  { s.setCoach kc (s.landedCoach kc) with mem := s.mem.writeCells ((s.coach kc).dueLandings.flatMap (landCells kc)) }

theorem landingWrite_lands (s : State) (kc : Nat) : exec (.landingWrite kc) s = .next (s.landAll kc) := rfl

theorem State.landAll_coach (s : State) (kc : Nat) : (s.landAll kc).coach kc = s.landedCoach kc := State.coach_setCoach_self ..

theorem State.landAll_coach_other {i : Nat} (h : i ≠ kc) : (s.landAll kc).coach i = s.coach i := State.coach_setCoach_other _ kc i _ h

/-- A landing stays while its time has not come. -/
theorem State.landedCoach_land (s : State) (kc : Nat) :
    (s.landedCoach kc).tl.land = (s.coach kc).tl.land.filter fun l => decide ((s.coach kc).tclk ≤ l.1) := by
  refine List.filter_congr fun l _ => ?_
  rw [← decide_not, decide_eq_decide]
  omega

theorem Coach.dueLandings_none {k : Coach} (h : ∀ l ∈ k.tl.land, k.tclk ≤ l.1) : k.dueLandings = [] := by
  refine List.filter_eq_nil_iff.2 fun l hl => ?_
  simpa using h l hl

theorem Coach.dueLandings_one {k : Coach} {l : Nat × Nat × Nat × List Byte} (hl : k.tl.land = [l]) (h : l.1 < k.tclk) : k.dueLandings = [l] := by
  simp [Coach.dueLandings, hl, h]

theorem State.landAll_none (h : ∀ l ∈ (s.coach kc).tl.land, (s.coach kc).tclk ≤ l.1) : SameBytes s (s.landAll kc) := by
  intro i
  rw [State.landAll, Coach.dueLandings_none h]
  rfl

/-- The bytes of a landing stand in the SRAM of the coach, and no other byte changes. -/
theorem State.landAll_one {a c sram : Nat} {data : List Byte} (hl : (s.coach kc).tl.land = [(a, c, sram, data)]) (h : a < (s.coach kc).tclk) :
    (∀ j, j < data.length → (s.landAll kc).mem.byte ((Loc.sram kc sram).key + j) = nthD 0 data j) ∧
      ∀ i, i < (Loc.sram kc sram).key ∨ (Loc.sram kc sram).key + data.length ≤ i → (s.landAll kc).mem.byte i = s.mem.byte i := by
  have hmem : (s.landAll kc).mem = s.mem.write (Loc.sram kc sram).key data := by
    rw [State.landAll, Coach.dueLandings_one hl h]
    exact landCells_one kc _ s.mem
  rw [hmem]
  refine ⟨fun j hj => ?_, fun i hi => Mem.byte_write_other _ _ _ _ hi⟩
  rw [Mem.byte_write _ _ _ _ hj, nthD_eq_getD, List.getD_eq_getElem _ _ hj]

/-! ## The freeze line (R184) -/

theorem State.delay_head (s : State) {bound : Nat} (hb : 0 < bound) : (s.delay bound).2 = { s with delays := s.delays.tail } ∧
    ((s.delay bound).1 = 0 ↔ s.delays.headD 0 = 0) := by
  unfold State.delay
  cases h : s.delays with
  | nil =>
    refine ⟨?_, by simp⟩
    show s = { s with delays := [] }
    rw [← h]
  | cons d rest =>
    refine ⟨rfl, ?_⟩
    show min d bound = 0 ↔ d = 0
    omega

theorem freezeRowRestore_counts (hst : (s.coach kc).stand = .running) (hhold : (s.coach kc).tl.hold = true)
    (hpace : s.paceAsserts (dieOf kc) = false) (hcond : s.conditions kc = false) : exec (.freezeRowRestore kc) s = .next
      (if s.delays.headD 0 = 0 then ({ s with delays := s.delays.tail } : State).setCoach kc
        { s.coach kc with frozen := false, tl := { (s.coach kc).tl with hold := false } }
      else { s with delays := s.delays.tail }) := by
  obtain ⟨hstate, hzero⟩ := s.delay_head (bound := 0xFFFFFFFF) (by decide)
  show execFreezeRowRestore kc s = _
  have hgo : ((s.coach kc).stand == .running && (s.coach kc).tl.hold && !s.paceAsserts (dieOf kc) && !s.conditions kc) = true := by
    simp [hst, hhold, hpace, hcond]
  rw [execFreezeRowRestore]
  simp only [if_pos hgo, hzero, hstate]
  split <;> rfl

end

end Sys2Proof.Machine

open Sys2Proof Sys2Proof.Machine

/-- Settles O40: one lemma for each event and each of its outcomes. -/
theorem timedDomainEvents : Obligations.TimedDomainEvents := by
  unfold Obligations.TimedDomainEvents
  intro kc s k tl x
  refine ⟨fun t0 rx resume gi hst hg => ?_, fun hplace hopen hdue => ?_, fun hdue => ?_, ?_, fun hst hhold hpace hcond => ?_⟩
  · intro home comes
    refine ⟨fun h => ⟨s, startTick_waits hst hg h, rfl⟩, fun hrx hcome hhome hlate => ⟨_, startTick_late hst hg hrx hcome hhome hlate, rfl⟩,
      fun hrx hcome hhome hcyc hgo => ⟨_, startTick_early hst hg hrx hcome hhome hcyc hgo, s.heardTick_setCoach kc rx _⟩,
      fun hcome hstop => ⟨_, startTick_stopped hst hg hcome hstop, s.heardTick_setCoach kc rx _⟩, fun hcome hgo => ?_⟩
    refine ⟨_, startTick_starts hst hg hcome hgo, ?_⟩
    have hhomes := s.heardTick_sameHomes kc rx
    obtain ⟨dies, hheard⟩ := s.heardTick_dies kc rx
    rw [hheard] at hhomes ⊢
    obtain ⟨hrun, htclk, hgang, hpre, hcoaches, hothers, -⟩ := State.startCoach_starts { s with dies := dies } kc gi t0 resume
    refine ⟨hrun, htclk, hgang, hpre, hcoaches, hothers, fun i hi => State.startCoach_core hi gi t0 resume, fun h => ?_,
      fun hfirst m hm e he hhome hin g hlo hhi hpool o ho hkept => ?_⟩
    · exact State.startCoach_bytes (s := { s with dies := dies }) (h.imp_left State.startsAgain_iff.2)
    · rw [← hhomes.capSize] at hin
      rw [← hhomes.pooled] at hpool
      rw [← hhomes.capLoc]
      exact State.startCoach_clears (Bool.eq_false_of_not_eq_true fun hagain => hfirst (State.startsAgain_iff.1 hagain)) hg hm he hhome hin hlo hhi hpool ho hkept
  · refine ⟨⟨_, timedWritePerform_performs hplace hopen hdue, s.performCycle_tclk kc, fun i => State.performCycle_tclk_other,
      fun i hi => State.performCycle_core fun h => absurd h hi, fun i _ hrun => State.performCycle_core fun _ => hrun,
      State.performCycle_idle⟩, fun hrun => ⟨_, ringBeatPark_cycles hplace hopen hdue, ?_⟩⟩
    rw [State.ringCycle_idle hrun]
    beta_reduce
    rw [State.coach_setCoach_self]
    exact ⟨rfl, k.ringMoved_beats kc, fun b hb hpos hroom => Coach.ringMoved_parks hb hpos hroom⟩
  · refine ⟨fun cause h => ⟨_, timelineWord_faults hdue h, rfl, (s.tlFault_same kc cause).sameBytes⟩, fun h => ?_⟩
    refine ⟨s.tlAct kc x, timelineWord_acts hdue h, ?_⟩
    obtain ⟨tl1, hact, hword, hrun, hat, hland⟩ := s.tlAct_eq kc x
    have hcoach : (s.tlAct kc x).coach kc = { k with tl := tl1 } := by
      rw [hact]
      exact State.coach_setCoach_self ..
    have hcores : (s.tlAct kc x).cores = s.cores := by
      rw [hact]
      rfl
    have hmem : (s.tlAct kc x).mem =
        if tlCmd x = 3 then s.mem.write (Loc.hbm kc (tlByte x)).key (s.mem.read (Loc.sram kc (tlSram x)).key 64) else s.mem :=
      congrArg State.mem hact
    have hsame (h : tlCmd x ≠ 3) : SameBytes s (s.tlAct kc x) := fun i => by rw [hmem, if_neg h]
    rw [hcoach]
    refine ⟨hword, hrun, hcores, rfl, fun i hi => ?_, hat, fun hrd => ⟨hsame (by omega), hland.trans (if_pos hrd)⟩, fun hwr => ⟨?_, ?_⟩,
      fun hrd hwr => ⟨hland.trans ((if_neg hrd).trans (if_neg hwr)), hsame hwr⟩⟩
    · rw [hact]
      exact State.coach_setCoach_other _ kc i _ hi
    · exact hland.trans ((if_neg (by omega)).trans (if_pos hwr))
    · rw [hmem, if_pos hwr]
      have hlen := Mem.read_length s.mem (Loc.sram kc (tlSram x)).key 64
      refine ⟨?_, fun i hi => Mem.byte_write_other _ _ _ _ (by rwa [hlen])⟩
      have hread := s.mem.read_write_self (Loc.hbm kc (tlByte x)).key (s.mem.read (Loc.sram kc (tlSram x)).key 64)
      rwa [hlen] at hread
  · refine ⟨_, landingWrite_lands s kc, ?_⟩
    beta_reduce
    rw [State.landAll_coach]
    exact ⟨s.landedCoach_land kc, rfl, fun i hi => State.landAll_coach_other hi, rfl, State.landAll_none, fun a c sram data hl ha =>
      State.landAll_one hl ha⟩
  · have hexec := freezeRowRestore_counts hst hhold hpace hcond
    refine ⟨fun hzero => ⟨_, hexec.trans (congrArg _ (if_pos hzero)), ?_⟩, fun hpos => ⟨_, hexec.trans (congrArg _ (if_neg (Nat.ne_of_gt hpos))), rfl⟩⟩
    beta_reduce
    rw [State.coach_setCoach_self]
    exact ⟨rfl, rfl, rfl⟩
end

section
/-! PROOFS of the statements of the family 03_lines_formats_and_opcode_map, first part: instruction words as concatenations of fields (R53,
R55), the codes of operands, and the continuation words (R56, R57). -/

namespace Sys2Proof

/-! ## Concatenations

The widths of a concatenation are sums of numerals, which `simp` evaluates: `no_index` keeps them out of its index of lemmas. -/

section
variable {m n : Nat} (x : BitVec m) (y : BitVec n)

theorem extract_append_hi {lo len : Nat} (h : n ≤ lo) :
    @BitVec.extractLsb' (no_index (m + n)) lo len (no_index (x ++ y)) = x.extractLsb' (lo - n) len :=
  BitVec.extractLsb'_append_eq_of_le h

theorem extract_append_lo {lo len : Nat} (h : lo + len ≤ n) :
    @BitVec.extractLsb' (no_index (m + n)) lo len (no_index (x ++ y)) = y.extractLsb' lo len :=
  BitVec.extractLsb'_append_eq_of_add_le h

/-- A word is a concatenation when its upper and its lower bits are the two parts. -/
theorem append_eq_iff (w : BitVec (m + n)) : x ++ y = w ↔ x = w.extractLsb' n m ∧ y = w.extractLsb' 0 n := by
  constructor
  · rintro rfl
    rw [extract_append_hi x y (Nat.le_refl n), extract_append_lo x y (Nat.le_of_eq (Nat.zero_add n)), Nat.sub_self,
      BitVec.extractLsb'_eq_self, BitVec.extractLsb'_eq_self]
    exact ⟨rfl, rfl⟩
  · rintro ⟨hx, hy⟩
    rw [hx, hy, BitVec.extractLsb'_append_extractLsb'_eq_extractLsb' (Nat.zero_add n).symm, BitVec.extractLsb'_eq_self]

/-- A concatenation has no bit of a mask when neither part has one of its part of the mask. -/
theorem append_and_eq_zero_iff (c : BitVec (m + n)) :
    @Eq (no_index (BitVec (m + n))) (no_index ((x ++ y) &&& c)) (no_index 0#(m + n)) ↔
      x &&& c.extractLsb' n m = 0#m ∧ y &&& c.extractLsb' 0 n = 0#n := by
  have hc : c = c.extractLsb' n m ++ c.extractLsb' 0 n := ((append_eq_iff _ _ c).2 ⟨rfl, rfl⟩).symm
  have hand : (x ++ y) &&& c = (x &&& c.extractLsb' n m) ++ (y &&& c.extractLsb' 0 n) := by
    conv_lhs => rw [hc]
    exact BitVec.and_append
  rw [hand, append_eq_iff]
  simp

/-- The field of a field is a field. -/
theorem extract_extract (w : BitVec 32) {lo len i k : Nat} (h : i + k ≤ len) :
    (w.extractLsb' lo len).extractLsb' i k = w.extractLsb' (lo + i) k := by
  ext j hj
  simp only [BitVec.getElem_extractLsb', BitVec.getLsbD_extractLsb', Nat.add_assoc]
  simp [show i + j < len by omega]

/-- A field of a word is a concatenation when its upper and its lower part are the two parts. -/
@[simp] theorem append_eq_extract_iff (w : BitVec 32) (lo : Nat) :
    @Eq (no_index (BitVec (m + n))) (no_index (x ++ y)) (w.extractLsb' lo (no_index (m + n))) ↔
      x = w.extractLsb' (lo + n) m ∧ y = w.extractLsb' lo n := by
  rw [append_eq_iff, extract_extract _ (Nat.le_of_eq (Nat.add_comm n m)), extract_extract _ (by omega), Nat.add_zero]

end

/-! ## Fields that a decoder has looked at -/

/-- A field that lies in a mask is zero in a word that has no bit of the mask. -/
theorem extract_of_zeroIn {w mask : BitVec 32} (h : zeroIn w mask = true) {lo len : Nat} (hlen : lo + len ≤ 32)
    (hmask : maskOf lo len &&& mask = maskOf lo len) : w.extractLsb' lo len = 0 := by
  rw [zeroIn, beq_iff_eq] at h
  have hfield : zeroIn w (maskOf lo len) = true := by
    rw [zeroIn, beq_iff_eq, ← hmask, BitVec.and_comm (maskOf lo len), ← BitVec.and_assoc, h]
    exact BitVec.zero_and
  rwa [zeroIn_maskOf w hlen, beq_iff_eq] at hfield

theorem extract_of_toNat {w : BitVec 32} {lo len n : Nat} (h : (w.extractLsb' lo len).toNat = n) :
    w.extractLsb' lo len = BitVec.ofNat len n := by
  rw [← h, BitVec.ofNat_toNat, BitVec.setWidth_eq]

/-- The eleven bits of a function code, when the upper five are zero (R59). -/
theorem extract_function {w : BitVec 32} {n : Nat} (hn : n < 64) (hhi : w.extractLsb' 6 5 = 0) (hlo : (w.extractLsb' 0 6).toNat = n) :
    w.extractLsb' 0 11 = BitVec.ofNat 11 n := by
  have hw : 0#5 ++ BitVec.ofNat 6 n = w.extractLsb' 0 11 := (append_eq_extract_iff _ _ w 0).2 ⟨hhi.symm, (extract_of_toNat hlo).symm⟩
  have hcode : ∀ n < 64, 0#5 ++ BitVec.ofNat 6 n = BitVec.ofNat 11 n := by decide
  rw [← hw, hcode n hn]

/-! ## Codes of operands -/

@[simp] theorem FTy.bits_ofBits (b : BitVec 2) : (FTy.ofBits b).bits = b := by revert b; decide
@[simp] theorem FTy.ofBits_bits (t : FTy) : FTy.ofBits t.bits = t := by cases t <;> rfl
@[simp] theorem Rm.bits_ofBits (b : BitVec 2) : (Rm.ofBits b).bits = b := by revert b; decide
@[simp] theorem Rm.ofBits_bits (r : Rm) : Rm.ofBits r.bits = r := by cases r <;> rfl
@[simp] theorem Dir.bits_ofBits (b : BitVec 2) : (Dir.ofBits b).bits = b := by revert b; decide
@[simp] theorem Dir.ofBits_bits (dir : Dir) : Dir.ofBits dir.bits = dir := by cases dir <;> rfl

@[simp] theorem GridOp.bits_ofBits (b : BitVec 8) : (GridOp.ofBits b).bits = b := by
  rw [GridOp.bits, GridOp.ofBits, Dir.bits_ofBits]
  exact (append_eq_iff (m := 2) (n := 6) _ _ b).2 ⟨rfl, rfl⟩

@[simp] theorem GridOp.ofBits_bits (g : GridOp) : GridOp.ofBits g.bits = g := by
  rw [GridOp.ofBits, GridOp.bits, extract_append_hi _ _ (by decide), extract_append_lo _ _ (by decide)]
  simp

@[simp] theorem b1_bit1 (w : BitVec 32) (lo : Nat) : b1 (bit1 w lo) = w.extractLsb' lo 1 := by
  ext i hi
  simp [b1, bit1, show i = 0 by omega]

@[simp] theorem b1_false : b1 false = 0 := rfl
@[simp] theorem b1_eq_one (b : Bool) : b1 b = 1#1 ↔ b = true := by cases b <;> decide
@[simp] theorem b1_beq_one (b : Bool) : (b1 b == 1#1) = b := by cases b <;> rfl

theorem bit1_eq_extract (w : BitVec 32) (i : Nat) : bit1 w i = (w.extractLsb' i 1 == 1#1) := by
  rw [← b1_bit1, b1_beq_one]

/-! ## Formats -/

section
variable {op : BitVec 6} {m : BitVec 2} {w : BitVec 32}

@[simp] theorem fmtCR_eq_iff {d a b : Reg} {fn : BitVec 11} : fmtCR op d a b fn = w ↔ op = w.extractLsb' 26 6 ∧ d = w.extractLsb' 21 5 ∧
    a = w.extractLsb' 16 5 ∧ b = w.extractLsb' 11 5 ∧ fn = w.extractLsb' 0 11 := by
  refine (append_eq_iff (m := 21) (n := 11) _ _ w).trans ?_
  simp only [append_eq_extract_iff, and_assoc, Nat.reduceAdd]

@[simp] theorem fmtCI_eq_iff {d a : Reg} {i : BitVec 16} : fmtCI op d a i = w ↔ op = w.extractLsb' 26 6 ∧ d = w.extractLsb' 21 5 ∧
    a = w.extractLsb' 16 5 ∧ i = w.extractLsb' 0 16 := by
  refine (append_eq_iff (m := 16) (n := 16) _ _ w).trans ?_
  simp only [append_eq_extract_iff, and_assoc, Nat.reduceAdd]

@[simp] theorem fmtCL_eq_iff {d : Reg} {i : BitVec 21} : fmtCL op d i = w ↔ op = w.extractLsb' 26 6 ∧ d = w.extractLsb' 21 5 ∧
    i = w.extractLsb' 0 21 := by
  refine (append_eq_iff (m := 11) (n := 21) _ _ w).trans ?_
  simp only [append_eq_extract_iff, and_assoc, Nat.reduceAdd]

@[simp] theorem fmtCS_eq_iff {sys x : Reg} {y : BitVec 16} : fmtCS sys x y = w ↔ 0x3F#6 = w.extractLsb' 26 6 ∧
    sys = w.extractLsb' 21 5 ∧ x = w.extractLsb' 16 5 ∧ y = w.extractLsb' 0 16 := fmtCI_eq_iff

@[simp] theorem fmtE3_eq_iff {d a b : BitVec 8} : fmtE3 op m d a b = w ↔ op = w.extractLsb' 26 6 ∧ m = w.extractLsb' 24 2 ∧
    d = w.extractLsb' 16 8 ∧ a = w.extractLsb' 8 8 ∧ b = w.extractLsb' 0 8 := by
  refine (append_eq_iff (m := 24) (n := 8) _ _ w).trans ?_
  simp only [append_eq_extract_iff, and_assoc, Nat.reduceAdd]

@[simp] theorem fmtEM_eq_iff {g : BitVec 8} {b : Reg} {o : BitVec 11} : fmtEM op m g b o = w ↔ op = w.extractLsb' 26 6 ∧
    m = w.extractLsb' 24 2 ∧ g = w.extractLsb' 16 8 ∧ b = w.extractLsb' 11 5 ∧ o = w.extractLsb' 0 11 := by
  refine (append_eq_iff (m := 21) (n := 11) _ _ w).trans ?_
  simp only [append_eq_extract_iff, and_assoc, Nat.reduceAdd]

@[simp] theorem fmtMX_eq_iff {c : BitVec 3} {y : Bool} {a b : Reg} {n : BitVec 10} : fmtMX op m c y a b n = w ↔
    op = w.extractLsb' 26 6 ∧ m = w.extractLsb' 24 2 ∧ c = w.extractLsb' 21 3 ∧ b1 y = w.extractLsb' 20 1 ∧
      a = w.extractLsb' 15 5 ∧ b = w.extractLsb' 10 5 ∧ n = w.extractLsb' 0 10 := by
  refine (append_eq_iff (m := 22) (n := 10) _ _ w).trans ?_
  simp only [append_eq_extract_iff, and_assoc, Nat.reduceAdd]

@[simp] theorem fmtK_eq_iff {t : BitVec 3} {ra rb rc : Reg} : fmtK op m t ra rb rc = w ↔ op = w.extractLsb' 26 6 ∧
    m = w.extractLsb' 24 2 ∧ t = w.extractLsb' 21 3 ∧ ra = w.extractLsb' 16 5 ∧ rb = w.extractLsb' 11 5 ∧ rc = w.extractLsb' 6 5 ∧
      0#6 = w.extractLsb' 0 6 := by
  refine (append_eq_iff (m := 26) (n := 6) _ _ w).trans ?_
  simp only [append_eq_extract_iff, and_assoc, Nat.reduceAdd]

/-- The word of tl.run, which has one field of sixteen bits (R61). -/
theorem timelineWord_eq_iff {i : BitVec 16} : op ++ 0#10 ++ i = w ↔ op = w.extractLsb' 26 6 ∧ 0#10 = w.extractLsb' 16 10 ∧
    i = w.extractLsb' 0 16 := by
  refine (append_eq_iff (m := 16) (n := 16) _ _ w).trans ?_
  simp only [append_eq_extract_iff, and_assoc, Nat.reduceAdd]

/-- The word of mresc, which has its grid operand at bit 12 (R62). -/
theorem rescaleWord_eq_iff {c : BitVec 3} {y : BitVec 1} {x : BitVec 8} {n : BitVec 6} :
    op ++ m ++ c ++ y ++ x ++ 0#6 ++ n = w ↔ op = w.extractLsb' 26 6 ∧ m = w.extractLsb' 24 2 ∧ c = w.extractLsb' 21 3 ∧
      y = w.extractLsb' 20 1 ∧ x = w.extractLsb' 12 8 ∧ 0#6 = w.extractLsb' 6 6 ∧ n = w.extractLsb' 0 6 := by
  refine (append_eq_iff (m := 26) (n := 6) _ _ w).trans ?_
  simp only [append_eq_extract_iff, and_assoc, Nat.reduceAdd]

end

section
variable (op : BitVec 6) (m : BitVec 2) (d a b : Reg)

@[simp] theorem opOf_fmtCR (fn : BitVec 11) : opOf (fmtCR op d a b fn) = op.toNat :=
  congrArg BitVec.toNat (fmtCR_eq_iff.1 rfl).1.symm

@[simp] theorem opOf_fmtCS (y : BitVec 16) : opOf (fmtCS d a y) = 0x3F :=
  congrArg BitVec.toNat (fmtCS_eq_iff.1 rfl).1.symm

@[simp] theorem opOf_fmtE3 (g x y : BitVec 8) : opOf (fmtE3 op m g x y) = op.toNat :=
  congrArg BitVec.toNat (fmtE3_eq_iff.1 rfl).1.symm

@[simp] theorem opOf_fmtEM (g : BitVec 8) (o : BitVec 11) : opOf (fmtEM op m g b o) = op.toNat :=
  congrArg BitVec.toNat (fmtEM_eq_iff.1 rfl).1.symm

@[simp] theorem opOf_fmtMX (c : BitVec 3) (y : Bool) (n : BitVec 10) : opOf (fmtMX op m c y a b n) = op.toNat :=
  congrArg BitVec.toNat (fmtMX_eq_iff.1 rfl).1.symm

@[simp] theorem opOf_fmtK (t : BitVec 3) : opOf (fmtK op m t d a b) = op.toNat :=
  congrArg BitVec.toNat (fmtK_eq_iff.1 rfl).1.symm

end

/-! ## Continuation words -/

theorem parseCont_word (k : Cont) : parseCont k.word = .ok k := by
  obtain ⟨stamp, pw, pe, sw, se, q, xg⟩ := k
  simp [parseCont, Cont.word, bit1_eq_extract, extract_append_hi, extract_append_lo]

theorem word_of_parseCont {w : BitVec 32} {k : Cont} (h : parseCont w = .ok k) : k.word = w := by
  unfold parseCont at h
  split at h
  · cases h
  next hbit =>
    obtain rfl := Except.ok.inj h
    have hzero : w.extractLsb' 0 1 = 0 := by rw [← b1_bit1, eq_false_of_ne_true hbit, b1_false]
    refine (append_eq_iff (m := 31) (n := 1) _ _ w).2 ?_
    simp [hzero]

theorem parseUCont_word (u : UCont) : parseUCont u.word = .ok u := by
  obtain ⟨aw, xg⟩ := u
  simp [parseUCont, UCont.word, zeroIn, append_and_eq_zero_iff, extract_append_hi, extract_append_lo]

theorem word_of_parseUCont {w : BitVec 32} {u : UCont} (h : parseUCont w = .ok u) : u.word = w := by
  unfold parseUCont at h
  split at h
  next hz =>
    obtain rfl := Except.ok.inj h
    refine (append_eq_iff (m := 31) (n := 1) _ _ w).2 ?_
    simp (disch := decide) [extract_of_zeroIn hz]
  · cases h

theorem optCont_word (k : Option Cont) : optCont (k.map Cont.word) = .ok k := by
  cases k with
  | none => rfl
  | some k => simp [optCont, parseCont_word]

theorem word_of_optCont {c : Option (BitVec 32)} {k : Option Cont} (h : optCont c = .ok k) : k.map Cont.word = c := by
  unfold optCont at h
  split at h
  · obtain rfl := Except.ok.inj h
    rfl
  · split at h
    next hk =>
      obtain rfl := Except.ok.inj h
      exact congrArg some (word_of_parseCont hk)
    · cases h

theorem word_of_reqCont {c : Option (BitVec 32)} {k : Cont} (h : reqCont c = .ok k) : some k.word = c := by
  unfold reqCont at h
  split at h
  · cases h
  · exact congrArg some (word_of_parseCont h)

theorem word_of_reqUCont {c : Option (BitVec 32)} {u : UCont} (h : reqUCont c = .ok u) : some u.word = c := by
  unfold reqUCont at h
  split at h
  · cases h
  · exact congrArg some (word_of_parseUCont h)

end Sys2Proof
end

section
/-! PROOFS of the statements of the family 03_lines_formats_and_opcode_map, second part: what a parser answers, queue by queue, is an
instruction whose words are those it read (R53 to R65). The opcode and the bits that must be zero fix what its fields do not hold. -/

namespace Sys2Proof

/-- The instruction that a parser answers, when it answers one, has the words that it read. -/
def Reads (q : Queue) (w : BitVec 32) (c : Option (BitVec 32)) (r : Except Reject Instr) : Prop :=
  ∀ i, r = .ok i → encode i = some ⟨q, w, c⟩

section
variable {q : Queue} {w : BitVec 32} {c : Option (BitVec 32)} {i : Instr}

theorem reads_error (r : Reject) : Reads q w c (.error r) := fun _ h => nomatch h

/-- An instruction answered without a mask, as if the mask were empty. -/
theorem reads_ok : Reads q w c (.ok i) ↔ (zeroIn w 0 = true → encode i = some ⟨q, w, c⟩) := by
  have hzero : zeroIn w 0 = true := by simp [zeroIn]
  exact ⟨fun h _ => h i rfl, fun h _ hi => Except.ok.inj hi ▸ h hzero⟩

theorem reads_accept {mask : BitVec 32} : Reads q w c (accept w mask i) ↔ (zeroIn w mask = true → encode i = some ⟨q, w, c⟩) := by
  rw [accept]
  split
  · next h => rw [reads_ok, h, show zeroIn w 0 = true by simp [zeroIn]]
  · next h => simp [h, reads_error]

theorem encode_eq_of_word {v : BitVec 32} (h : encode i = some ⟨q, v, c⟩) (hv : v = w) : encode i = some ⟨q, w, c⟩ := hv ▸ h

end

section
variable (w : BitVec 32) (k : Option Cont)

theorem parseAlu_reads (hc : opOf w = 0) : Reads .c w none (parseAlu w) := by
  unfold parseAlu
  extract_lets d a b
  split
  pick_goal -1
  · exact reads_error _
  all_goals
    rename_i hfn
    simp only [reads_ok, reads_accept]
    intro hz
    refine encode_eq_of_word rfl ?_
    simp (disch := decide) [d, a, b, regAt, extract_function _ (extract_of_zeroIn hz _ _) hfn, extract_of_zeroIn hz,
      extract_of_toNat hfn, extract_of_toNat hc]

theorem parseSys_reads (hc : opOf w = 0x3F) : Reads .c w none (parseSys w) := by
  unfold parseSys
  extract_lets x
  split
  pick_goal -1
  · exact reads_error _
  · exact reads_error _
  all_goals
    rename_i hsys
    rw [reads_accept]
    intro hz
    refine encode_eq_of_word rfl ?_
    simp (disch := decide) [x, regAt, extract_of_zeroIn hz, extract_of_toNat hsys, extract_of_toNat hc]

theorem parseC_reads : Reads .c w none (parseC w) := by
  unfold parseC
  extract_lets d a i16 i21
  split
  pick_goal -1
  · exact reads_error _
  pick_goal -1
  · next hop => exact parseSys_reads w hop
  · next hop => exact parseAlu_reads w hop
  all_goals
    rename_i hop
    simp only [reads_ok, reads_accept]
    intro hz
    refine encode_eq_of_word rfl ?_
    simp (disch := decide) [d, a, i16, i21, regAt, extract_of_zeroIn hz, extract_of_toNat hop]

theorem parseQ_reads (q : Queue) : Reads q w (k.map Cont.word) (parseQ q w k) := by
  unfold parseQ
  split
  pick_goal -1
  · exact reads_error _
  pick_goal -1
  · exact reads_error _
  all_goals
    rename_i hop
    rw [reads_accept]
    intro hz
    refine encode_eq_of_word rfl ?_
    simp (disch := decide) [extract_of_zeroIn hz, extract_of_toNat hop]

theorem parseLB_reads : Reads .l w (k.map Cont.word) (parseLB w k) := by
  unfold parseLB
  split
  pick_goal -1
  · exact parseQ_reads w k .l
  case h_7 hop =>
    rw [reads_accept]
    intro hz
    refine encode_eq_of_word rfl (timelineWord_eq_iff.2 ?_)
    simp (disch := decide) [extract_of_zeroIn hz, extract_of_toNat hop]
  all_goals
    rename_i hop
    simp only [reads_ok, reads_accept]
    intro hz
    refine encode_eq_of_word rfl ?_
    simp (disch := decide) [regAt, gridAt, extract_of_zeroIn hz, extract_of_toNat hop]

theorem parseSB_reads : Reads .s w (k.map Cont.word) (parseSB w k) := by
  unfold parseSB
  split
  pick_goal -1
  · exact parseQ_reads w k .s
  all_goals
    rename_i hop
    simp only [reads_ok, reads_accept]
    intro hz
    refine encode_eq_of_word rfl ?_
    simp (disch := decide) [regAt, gridAt, extract_of_zeroIn hz, extract_of_toNat hop]

theorem parseM_reads : Reads .m w (k.map Cont.word) (parseM w k) := by
  unfold parseM
  extract_lets acc a b n10 n6
  split
  pick_goal -1
  · exact parseQ_reads w k .m
  case h_1 hop =>
    split
    next hrows =>
      rw [reads_accept]
      intro hz
      have hrows : w.extractLsb' 0 10 = 63 := eq_of_beq hrows
      refine encode_eq_of_word rfl ?_
      simp (disch := decide) [b, regAt, hrows, extract_of_zeroIn hz, extract_of_toNat hop]
    · exact reads_error _
  case h_8 hop =>
    rw [reads_accept]
    intro hz
    refine encode_eq_of_word rfl (rescaleWord_eq_iff.2 ?_)
    simp (disch := decide) [acc, n6, gridAt, extract_of_zeroIn hz, extract_of_toNat hop]
  all_goals
    rename_i hop
    simp only [reads_ok, reads_accept]
    intro hz
    refine encode_eq_of_word rfl ?_
    simp (disch := decide) [acc, a, b, n10, n6, regAt, extract_of_zeroIn hz, extract_of_toNat hop]

theorem parseVB_reads : Reads .v w (k.map Cont.word) (parseVB w k) := by
  unfold parseVB
  extract_lets t t2 i8 d a b
  split
  pick_goal -1
  · exact parseQ_reads w k .v
  all_goals
    rename_i hop
    simp only [reads_ok, reads_accept]
    intro hz
    refine encode_eq_of_word rfl ?_
    simp (disch := decide) [t, t2, i8, d, a, b, gridAt, extract_of_zeroIn hz, extract_of_toNat hop]

theorem parseLong_reads (q : Queue) (k : Cont) : Reads q w (some k.word) (parseLong q w k) := by
  unfold parseLong
  extract_lets t d a b
  split
  pick_goal -1
  · exact reads_error _
  all_goals
    rename_i hop
    simp only [reads_ok, reads_accept]
    intro hz
    refine encode_eq_of_word rfl ?_
    simp (disch := decide) [t, d, a, b, regAt, gridAt, extract_of_zeroIn hz, extract_of_toNat hop]

theorem parseF_reads (u : UCont) : Reads .f w (some u.word) (parseF w u) := by
  unfold parseF
  extract_lets m
  split
  pick_goal -1
  · exact reads_error _
  pick_goal -1
  · exact reads_error _
  all_goals
    rename_i hop
    simp only [reads_ok, reads_accept]
    intro hz
    refine encode_eq_of_word rfl ?_
    simp (disch := decide) [m, regAt, extract_of_zeroIn hz, extract_of_toNat hop]

theorem parseK_reads (u : UCont) : Reads .k w (some u.word) (parseK w u) := by
  unfold parseK
  extract_lets m t ra rb rc
  split
  pick_goal -1
  · exact reads_error _
  pick_goal -1
  · exact reads_error _
  all_goals
    rename_i hop
    rw [reads_accept]
    intro hz
    refine encode_eq_of_word rfl ?_
    simp (disch := decide) [m, t, ra, rb, rc, regAt, extract_of_zeroIn hz, extract_of_toNat hop]

end

/-- A class-B word of a timed queue, with the continuation that its line gives it. -/
theorem reads_optCont {q : Queue} {w : BitVec 32} {c : Option (BitVec 32)} {p : Option Cont → Except Reject Instr}
    (h : ∀ k, Reads q w (k.map Cont.word) (p k)) :
    Reads q w c (match optCont c with
      | .ok k => p k
      | .error r => match p none with | .error .reserved => .error .reserved | _ => .error r) := by
  split
  next k hk =>
    rw [← word_of_optCont hk]
    exact h k
  · split <;> exact reads_error _

/-- In the F and K queues q.wait and q.sig are class S, so that a class-B word there is refused (R65). -/
theorem parseQ_both_reads {q : Queue} {w : BitVec 32} {c : Option (BitVec 32)} (hq : q = .f ∨ q = .k) (h : lenClass q w = .both) :
    Reads q w c (parseQ q w none) := by
  have hop : opOf w ≠ 0x3C ∧ opOf w ≠ 0x3D := by
    obtain rfl | rfl := hq <;> (unfold lenClass at h; grind)
  unfold parseQ
  split
  · exact absurd ‹_› hop.1
  · exact absurd ‹_› hop.2
  · exact reads_error _
  · exact reads_error _

theorem parse_reads (q : Queue) (w : BitVec 32) (c : Option (BitVec 32)) : Reads q w c (parse q w c) := by
  unfold parse
  split
  · split
    next u hu =>
      rw [← word_of_reqUCont hu]
      exact parseF_reads w u
    · exact reads_error _
  · split
    next u hu =>
      rw [← word_of_reqUCont hu]
      exact parseK_reads w u
    · exact reads_error _
  · split
    next k hk =>
      rw [← word_of_reqCont hk]
      exact parseLong_reads w _ k
    · exact reads_error _
  · split
    next hc =>
      rw [Option.isNone_iff_eq_none.1 hc]
      exact parseC_reads w
    · exact reads_error _
  · split
    next hc =>
      rw [Option.isNone_iff_eq_none.1 hc]
      exact parseQ_reads w none _
    · exact reads_error _
  next q _ _ hne hboth =>
    cases q
    case c => exact absurd rfl hne
    case l => exact reads_optCont (parseLB_reads w)
    case m => exact reads_optCont (parseM_reads w)
    case v => exact reads_optCont (parseVB_reads w)
    case s => exact reads_optCont (parseSB_reads w)
    case f => exact parseQ_both_reads (.inl rfl) hboth
    case k => exact parseQ_both_reads (.inr rfl) hboth

end Sys2Proof
end

section
/-! PROOFS of the statements of the family 03_lines_formats_and_opcode_map, third part: the words of an instruction are parsed as that
instruction (R53 to R65), and decoding and encoding agree. -/

namespace Sys2Proof

/-! ## The parser of a queue -/

section
variable {w : BitVec 32} (k : Option Cont)

theorem parse_c (w : BitVec 32) : parse .c w none = parseC w := rfl

theorem parse_l (h : lenClass .l w = .both) : parse .l w (k.map Cont.word) = parseLB w k := by
  unfold parse
  rw [h, optCont_word]

theorem parse_m : parse .m w (k.map Cont.word) = parseM w k := by
  unfold parse
  rw [show lenClass .m w = .both from rfl, optCont_word]

theorem parse_v (h : lenClass .v w = .both) : parse .v w (k.map Cont.word) = parseVB w k := by
  unfold parse
  rw [h, optCont_word]

theorem parse_s (h : lenClass .s w = .both) : parse .s w (k.map Cont.word) = parseSB w k := by
  unfold parse
  rw [h, optCont_word]

theorem parse_long {q : Queue} (hq : q.timed = true) (h : lenClass q w = .long) (k : Cont) :
    parse q w (some k.word) = parseLong q w k := by
  unfold parse
  rw [h]
  cases q with
  | l | m | v | s => simp [reqCont, parseCont_word]
  | c | f | k => cases hq

theorem parse_f (h : lenClass .f w = .long) (u : UCont) : parse .f w (some u.word) = parseF w u := by
  unfold parse
  rw [h]
  simp [reqUCont, parseUCont_word]

theorem parse_k (h : lenClass .k w = .long) (u : UCont) : parse .k w (some u.word) = parseK w u := by
  unfold parse
  rw [h]
  simp [reqUCont, parseUCont_word]

end

/-! ## q.wait and q.sig -/

theorem eq_true_of_need {b : Bool} (h : need b = none) : b = true := by
  cases b
  · cases h
  · rfl

/-- An opcode of q.wait or q.sig goes to the parser that the queues share (R60). -/
theorem parse_queueWord {q : Queue} {w : BitVec 32} {k : Option Cont} (hop : opOf w = 0x3C ∨ opOf w = 0x3D) (hk : qCont q k = true) :
    parse q w (k.map Cont.word) = parseQ q w k := by
  have hnone (hq : q.timed = false) : k = none := by simpa [qCont, hq] using hk
  cases q
  case c =>
    rw [hnone rfl]
    refine (parse_c w).trans ?_
    obtain h | h := hop <;> simp [parseC, parseQ, h]
  case l =>
    rw [parse_l k (by simp [lenClass]; omega)]
    obtain h | h := hop <;> simp [parseLB, h]
  case m =>
    rw [parse_m]
    obtain h | h := hop <;> simp [parseM, h]
  case v =>
    rw [parse_v k (by simp [lenClass]; omega)]
    obtain h | h := hop <;> simp [parseVB, h]
  case s =>
    rw [parse_s k (by simp [lenClass]; omega)]
    obtain h | h := hop <;> simp [parseSB, h]
  case f =>
    rw [hnone rfl]
    obtain h | h := hop <;> simp [parse, lenClass, h]
  case k =>
    rw [hnone rfl]
    obtain h | h := hop <;> simp [parse, lenClass, h]

theorem parse_qWait {q : Queue} {k : Option Cont} (n : BitVec 16) (h : qCont q k = true) :
    parse q (fmtCI 0x3C 0 0 n) (k.map Cont.word) = .ok (.qWait q n k) := by
  rw [parse_queueWord (.inl (opOf_fmtCI ..)) h]
  simp only [parseQ, opOf_fmtCI, BitVec.reduceToNat]
  simp [accept, zeroIn, fmtCI, append_and_eq_zero_iff, extract_append_lo]

theorem parse_qSig {q : Queue} {k : Option Cont} (aw : BitVec 6) (h : qCont q k = true) :
    parse q (fmtCI 0x3D 0 0 (0#10 ++ aw)) (k.map Cont.word) = .ok (.qSig q aw k) := by
  rw [parse_queueWord (.inr (opOf_fmtCI ..)) h]
  simp only [parseQ, opOf_fmtCI, BitVec.reduceToNat]
  simp [accept, zeroIn, fmtCI, append_and_eq_zero_iff, extract_append_lo]

/-! ## The words of an instruction -/

/-- The function code of an ALU word (R59). -/
theorem function_fmtCR (op : BitVec 6) (d a b : Reg) (fn : BitVec 11) : (fmtCR op d a b fn).extractLsb' 0 6 = fn.extractLsb' 0 6 := by
  rw [fmtCR, extract_append_lo _ _ (by decide)]

/-- The selector of a system word (R54). -/
theorem selector_fmtCS (sys x : Reg) (y : BitVec 16) : (fmtCS sys x y).extractLsb' 21 5 = sys := (fmtCS_eq_iff.1 rfl).2.1.symm

section
variable {i : Instr} {w : BitVec 32} {c : Option (BitVec 32)} (hi : i.WellFormed)
include hi

theorem parse_encode_c (h : encode i = some ⟨.c, w, c⟩) : parse .c w c = .ok i := by
  cases i
  case add | sub | mul | mulh | mulhn | div | rem | and | or | xor | shl | shr | sra | min | max | sel | cmpeq | cmplt | cmplo | clz
      | pop =>
    cases h
    refine (parse_c _).trans ?_
    simp only [parseC, opOf_fmtCR, BitVec.reduceToNat, parseAlu, function_fmtCR, BitVec.reduceExtractLsb', extract_append_lo,
      Nat.reduceAdd, Nat.le_refl, BitVec.extractLsb'_eq_self]
    simp [accept, zeroIn, fmtCR, regAt, append_and_eq_zero_iff, extract_append_hi, extract_append_lo]
  case addi | andi | ori | xori | shli | shri | srai | cmpi | id | tbase | sget | sset | beq | bne | blt | bge | blo | bhs | loop
      | loopPre | loopp | looppPre | lbrk | lds | sts | wfa | gridShrink | phPrep | phAdv | fmtPush =>
    cases h
    refine (parse_c _).trans ?_
    simp only [parseC, opOf_fmtCI, BitVec.reduceToNat]
    simp [accept, zeroIn, fmtCI, regAt, bit1_eq_extract, append_and_eq_zero_iff, extract_append_hi, extract_append_lo]
  case li | lih | br | call =>
    cases h
    refine (parse_c _).trans ?_
    simp only [parseC, opOf_fmtCL, BitVec.reduceToNat]
    simp [accept, zeroIn, fmtCL, regAt, append_and_eq_zero_iff, extract_append_hi, extract_append_lo]
  case cyc | jr | ret | amo | kgSet | launch =>
    cases h
    refine (parse_c _).trans ?_
    simp only [parseC, opOf_fmtCR, BitVec.reduceToNat]
    simp [accept, zeroIn, fmtCR, regAt, bit1_eq_extract, append_and_eq_zero_iff, extract_append_hi, extract_append_lo]
  case exit | trap | yield | hret | bar | fenceSc | stepBegin | stepCommit | stepAbort =>
    cases h
    refine (parse_c _).trans ?_
    simp only [parseC, opOf_fmtCS, parseSys, selector_fmtCS, BitVec.reduceToNat]
    simp [accept, zeroIn, fmtCS, regAt, append_and_eq_zero_iff, extract_append_hi, extract_append_lo]
  case qWait _ n _ =>
    cases h
    exact parse_qWait n (eq_true_of_need hi)
  case qSig _ aw _ =>
    cases h
    exact parse_qSig aw (eq_true_of_need hi)
  all_goals cases h

theorem parse_encode_l (h : encode i = some ⟨.l, w, c⟩) : parse .l w c = .ok i := by
  cases i
  case ld | ldt | cp | ldx =>
    cases h
    refine (parse_l _ (by simp [lenClass])).trans ?_
    simp only [parseLB, opOf_fmtEM, BitVec.reduceToNat]
    simp [accept, zeroIn, fmtEM, regAt, gridAt, append_and_eq_zero_iff, extract_append_hi, extract_append_lo]
  case rput | rtake =>
    cases h
    refine (parse_l _ (by simp [lenClass])).trans ?_
    simp only [parseLB, opOf_fmtE3, BitVec.reduceToNat]
    simp [accept, zeroIn, fmtE3, gridAt, append_and_eq_zero_iff, extract_append_hi, extract_append_lo]
  case tlRun n k =>
    cases h
    have hop : opOf (0x08#6 ++ 0#10 ++ n) = 0x08 := congrArg BitVec.toNat (timelineWord_eq_iff.1 rfl).1.symm
    refine (parse_l _ (by simp only [lenClass, hop]; decide)).trans ?_
    simp only [parseLB, hop]
    simp [accept, zeroIn, append_and_eq_zero_iff, extract_append_lo]
  case ldg =>
    cases h
    refine (parse_long rfl (by simp [lenClass]) _).trans ?_
    simp only [parseLong, opOf_fmtEM, BitVec.reduceToNat]
    simp [accept, zeroIn, fmtEM, regAt, gridAt, append_and_eq_zero_iff, extract_append_hi, extract_append_lo]
  case qWait _ n _ =>
    cases h
    exact parse_qWait n (eq_true_of_need hi)
  case qSig _ aw _ =>
    cases h
    exact parse_qSig aw (eq_true_of_need hi)
  all_goals cases h

theorem parse_encode_m (h : encode i = some ⟨.m, w, c⟩) : parse .m w c = .ok i := by
  cases i
  case mld | mmul | mmulCh | mmulCf | mclr | mattn | msplLd | msplEv | msplDx | msplGs | msplRf =>
    cases h
    refine (parse_m _).trans ?_
    simp only [parseM, opOf_fmtMX, BitVec.reduceToNat]
    simp [accept, zeroIn, fmtMX, regAt, bit1_eq_extract, append_and_eq_zero_iff, extract_append_hi, extract_append_lo]
  case mrd | msplRd =>
    cases h
    refine (parse_m _).trans ?_
    simp only [parseM, opOf_fmtEM, BitVec.reduceToNat]
    simp [accept, zeroIn, fmtEM, regAt, append_and_eq_zero_iff, extract_append_hi, extract_append_lo]
  case mresc c y x n k =>
    cases h
    have hop : opOf (0x08#6 ++ 0#2 ++ c ++ b1 y ++ x.bits ++ 0#6 ++ n) = 0x08 := congrArg BitVec.toNat (rescaleWord_eq_iff.1 rfl).1.symm
    refine (parse_m _).trans ?_
    simp only [parseM, hop]
    simp [accept, zeroIn, gridAt, bit1_eq_extract, append_and_eq_zero_iff, extract_append_hi, extract_append_lo]
  case qWait _ n _ =>
    cases h
    exact parse_qWait n (eq_true_of_need hi)
  case qSig _ aw _ =>
    cases h
    exact parse_qSig aw (eq_true_of_need hi)
  all_goals cases h

theorem parse_encode_v (h : encode i = some ⟨.v, w, c⟩) : parse .v w c = .ok i := by
  cases i
  case vadd | vsub | vmul | vmin | vmax | vabs | vneg | vdiv | vsqrt | vrsqrt | vrcp | vexp2 | vlog2 | vtanh | vcmp | viadd | visub
      | vimul | viand | vior | vixor | vishl | vishr | visra | vimin | vimax | vcvt | vmxp | vmxu | vmov | vbc | vperm | vrot | vred
      | vscan | vhist | vtop | vchk | vamax =>
    cases h
    refine (parse_v _ (by simp [lenClass])).trans ?_
    simp only [parseVB, opOf_fmtE3, BitVec.reduceToNat]
    simp [accept, zeroIn, fmtE3, gridAt, bit1_eq_extract, append_and_eq_zero_iff, extract_append_hi, extract_append_lo]
  case vfma | vfnm | vsel | vclamp | vsmxMerge | vadam =>
    cases h
    refine (parse_long rfl (by simp [lenClass]) _).trans ?_
    simp only [parseLong, opOf_fmtE3, BitVec.reduceToNat]
    simp [accept, zeroIn, fmtE3, gridAt, append_and_eq_zero_iff, extract_append_hi, extract_append_lo]
  case qWait _ n _ =>
    cases h
    exact parse_qWait n (eq_true_of_need hi)
  case qSig _ aw _ =>
    cases h
    exact parse_qSig aw (eq_true_of_need hi)
  all_goals cases h

theorem parse_encode_s (h : encode i = some ⟨.s, w, c⟩) : parse .s w c = .ok i := by
  cases i
  case st | stt | stStr | sttStr =>
    cases h
    refine (parse_s _ (by simp [lenClass])).trans ?_
    simp only [parseSB, opOf_fmtEM, BitVec.reduceToNat]
    simp [accept, zeroIn, fmtEM, regAt, gridAt, bit1_eq_extract, append_and_eq_zero_iff, extract_append_hi, extract_append_lo]
  case stg =>
    cases h
    refine (parse_long rfl (by simp [lenClass]) _).trans ?_
    simp only [parseLong, opOf_fmtEM, BitVec.reduceToNat]
    simp [accept, zeroIn, fmtEM, regAt, gridAt, append_and_eq_zero_iff, extract_append_hi, extract_append_lo]
  case qWait _ n _ =>
    cases h
    exact parse_qWait n (eq_true_of_need hi)
  case qSig _ aw _ =>
    cases h
    exact parse_qSig aw (eq_true_of_need hi)
  all_goals cases h

theorem parse_encode_f (h : encode i = some ⟨.f, w, c⟩) : parse .f w c = .ok i := by
  cases i
  case flLd | fam | fcollSet | fred | fbar | cph =>
    cases h
    refine (parse_f (by simp [lenClass]) _).trans ?_
    simp only [parseF, opOf_fmtEM, BitVec.reduceToNat]
    simp [accept, zeroIn, fmtEM, regAt, bit1_eq_extract, append_and_eq_zero_iff, extract_append_hi, extract_append_lo]
  case qWait _ n _ =>
    cases h
    exact parse_qWait n (eq_true_of_need hi)
  case qSig _ aw _ =>
    cases h
    exact parse_qSig aw (eq_true_of_need hi)
  all_goals cases h

theorem parse_encode_k (h : encode i = some ⟨.k, w, c⟩) : parse .k w c = .ok i := by
  cases i
  case spanOpen | spanApp | spanRt | kvFork | kvDrop | kvHint =>
    cases h
    refine (parse_k (by simp [lenClass]) _).trans ?_
    simp only [parseK, opOf_fmtK, BitVec.reduceToNat]
    simp [accept, zeroIn, fmtK, regAt, append_and_eq_zero_iff, extract_append_hi, extract_append_lo]
  case kvWalk | kvPlan =>
    cases h
    refine (parse_k (by simp [lenClass]) _).trans ?_
    simp only [parseK, opOf_fmtEM, BitVec.reduceToNat]
    simp [accept, zeroIn, fmtEM, regAt, append_and_eq_zero_iff, extract_append_hi, extract_append_lo]
  case qWait _ n _ =>
    cases h
    exact parse_qWait n (eq_true_of_need hi)
  case qSig _ aw _ =>
    cases h
    exact parse_qSig aw (eq_true_of_need hi)
  all_goals cases h

end

theorem parse_encode {i : Instr} {v : Words} (hi : i.WellFormed) (h : encode i = some v) : parse v.q v.first v.cont = .ok i := by
  obtain ⟨q, w, c⟩ := v
  cases q with
  | c => exact parse_encode_c hi h
  | l => exact parse_encode_l hi h
  | m => exact parse_encode_m hi h
  | v => exact parse_encode_v hi h
  | s => exact parse_encode_s hi h
  | f => exact parse_encode_f hi h
  | k => exact parse_encode_k hi h

/-! ## Decoding -/

/-- A word decodes to what it parses as, when that is well formed. -/
theorem decode_eq_ok_iff {q : Queue} {w : BitVec 32} {c : Option (BitVec 32)} {i : Instr} :
    decode q w c = .ok i ↔ parse q w c = .ok i ∧ i.WellFormed := by
  unfold decode
  constructor
  · intro h
    split at h
    · cases h
    next hparse =>
      split at h
      next hcheck =>
        obtain rfl := Except.ok.inj h
        exact ⟨hparse, hcheck⟩
      · cases h
  · rintro ⟨hparse, hcheck⟩
    rw [hparse]
    simp only [show i.check = none from hcheck]

/-- Settles O3: what a parser answers has the words that it read, and the words of an instruction are parsed as that instruction. -/
theorem decodeAndEncodeAgree : Obligations.DecodeAndEncodeAgree := by
  unfold Obligations.DecodeAndEncodeAgree
  refine ⟨fun i v hi hv => ?_, fun i hi => ?_, fun q w c i h => ?_⟩
  · exact decode_eq_ok_iff.2 ⟨parse_encode hi hv, hi⟩
  · exact Option.isSome_iff_exists.1 (Option.isSome_map.symm.trans hi)
  · obtain ⟨hparse, hi⟩ := decode_eq_ok_iff.1 h
    exact ⟨parse_reads q w c i hparse, hi⟩

end Sys2Proof
end

section
/-! PROOFS of the statements of the family 03_lines_formats_and_opcode_map, fourth part: the stores and scatters of the S queue (R64, R89,
R153, R155, R312, R319, R326). -/

namespace Sys2Proof.Machine

/-! ## Lines of an operand -/

theorem linesFrom_one (g : GridOp) : linesFrom g 1 = [g] := by
  simp [linesFrom, gridNext]

theorem tileLines_eq (m : BitVec 2) : tileLines m = 2 ^ (m.toNat + 2) := by
  rw [tileLines, Nat.shiftLeft_eq, Nat.pow_add, Nat.mul_comm]

/-! ## Checks in their order -/

/-- A check that never fails adds nothing at the end. -/
theorem firstFault_concat_none (l : List (Option Flt)) : firstFault (l ++ [none]) = firstFault l := by
  induction l with
  | nil => rfl
  | cons c l ih =>
    cases c with
    | some f => rfl
    | none => exact ih

/-- An enqueue whose captured state and whose operand have one check each. -/
theorem EnqueuesChecked.of_checks {i : Instr} {s : State} {q : Queue} {k : Option Cont} {gs : List GridOp} {cap : List Word}
    {pre post : Option Flt} {aw : Option Nat} {fs : Fields} (hq : q ≠ .c)
    (hx : s.focus.cur = none →
      exec i s = .next (s.enqueue q i k gs (pre.elim (.ok (cap, s)) .error) (fun _ => post.elim (.ok fs) .error) aw)) :
    EnqueuesChecked i s q k gs (pre.or post) { fs with cap := cap } aw := by
  cases pre with
  | some f =>
    refine EnqueuesWith.of hq hx (fun g hg => .inl ?_) fun h => nomatch h
    exact congrArg Except.error (Option.some.inj hg)
  | none =>
    refine EnqueuesChecked.of hq hx (fun f hf => ?_) fun hnone => ?_
    · obtain rfl := (Option.none_or.symm.trans hf : post = some f)
      rfl
    · obtain rfl := (Option.none_or.symm.trans hnone : post = none)
      rfl

/-- The checks of a timed operand are those of its alignment and of R126. -/
theorem memOperand_eq_checks (s : State) (c : Cls) (write : Bool) (a : Word) (n : Nat) (f : Fields) :
    s.memOperand c write a n f = (firstFault [aligned 64 a, reaches s c write a n]).elim (.ok f) .error := by
  unfold State.memOperand aligned require reaches orFault
  by_cases ha : a.toNat % 64 = 0
  · cases s.checkOperand s.me (s.mapNow s.me) c write a n <;> simp [ha, firstFault]
  · simp [ha, firstFault]

section
variable (s : State)

/-- The allowance of the lines that a store of n lines writes to other coaches (R319). -/
def allowanceCheck (a : Word) (n : Nat) : Option Flt :=
  match walOver (s.ctl s.me) (s.walUse s.me (s.mapNow s.me) (a.toNat % 2 ^ 48) 0 n) with
  | some u => some (.at127 0x33 u)
  | none => none

/-- A stream or REL needs a window among the parts of the operand (R64). -/
def windowCheck (stream : Nat) (rel : Bool) (a : Word) (n : Nat) : Option Flt :=
  if (stream ≠ 0 ∨ rel = true) ∧ hasWindow (s.parts (coachOf s.me) (s.mapNow s.me) a.toNat (256 * n)) = false then some (.at52 0x02)
  else none

/-- A plain store needs no window. -/
theorem windowCheck_plain (a : Word) (n : Nat) : windowCheck s 0 false a n = none := if_neg (by simp)

/-- The checks of a store of n lines, the window last (log 105). -/
def storeChecks (stream : Nat) (rel : Bool) (a : Word) (n : Nat) : List (Option Flt) :=
  [allowanceCheck s a n, aligned 64 a, reaches s .timedStore true a (256 * n), windowCheck s stream rel a n]

variable {s} {i : Instr} {g : GridOp} {k : Option Cont} {l o stream : Nat} {b : Reg} {rel : Bool}

/-- A store form in a line is an enqueue with the checks of a store. -/
theorem storeForm_eq_enqueue (hc : s.focus.cur = none) : s.storeForm i l g b o stream rel k =
    .next (s.enqueue .s i k (linesFrom g l) ((allowanceCheck s (s.address b o) l).elim (.ok ([s.ftc], s)) .error)
      (fun _ => (firstFault [aligned 64 (s.address b o), reaches s .timedStore true (s.address b o) (256 * l),
        windowCheck s stream rel (s.address b o) l]).elim (.ok { v0 := s.address b o }) .error) none) := by
  unfold State.storeForm allowanceCheck
  simp only [hc, memOperand_eq_checks]
  congr 2
  · generalize walOver (s.ctl s.me) _ = use
    cases use <;> rfl
  · funext _
    rw [show ∀ c d e, firstFault [c, d, e] = (firstFault [c, d]).or e from fun c d e => by cases c <;> cases d <;> cases e <;> rfl]
    generalize firstFault [aligned 64 (s.address b o), reaches s .timedStore true (s.address b o) (256 * l)] = checks
    cases checks with
    | some f => rfl
    | none =>
      rw [windowCheck]
      dsimp only [Option.elim_none, Option.none_or]
      split <;> rfl

theorem storeForm_enqueues (hi : exec i s = s.storeForm i l g b o stream rel k) :
    EnqueuesChecked i s .s k (linesFrom g l) (firstFault (storeChecks s stream rel (s.address b o) l))
      { v0 := s.address b o, cap := [s.ftc] } none := by
  have hchecks : firstFault (storeChecks s stream rel (s.address b o) l) =
      (allowanceCheck s (s.address b o) l).or (firstFault [aligned 64 (s.address b o),
        reaches s .timedStore true (s.address b o) (256 * l), windowCheck s stream rel (s.address b o) l]) := by
    rw [storeChecks]
    cases allowanceCheck s (s.address b o) l <;> rfl
  rw [hchecks]
  exact EnqueuesChecked.of_checks (fs := { v0 := s.address b o }) (fun h => nomatch h) fun hc => hi.trans (storeForm_eq_enqueue hc)

end

/-- A scatter is enqueued when bits 63:48 of its base are zero (R155). -/
theorem stg_enqueues (s : State) (sc : BitVec 2) (g : GridOp) (b : Reg) (cb : BitVec 3) (nr : BitVec 6) (k : Cont) :
    EnqueuesChecked (.stg sc g b cb nr k) s .s (some k) (linesFrom g (nr.toNat + 1) ++ [GridOp.ofBits k.xg])
      (require ((s.reg b).toNat < 2 ^ 48) 0x20 ((s.reg b).toNat % 2 ^ 48)) { v0 := s.reg b, cap := [s.ftc] } none := by
  refine EnqueuesChecked.of_checks (pre := none) (fs := { v0 := s.reg b }) (fun h => nomatch h) fun hc => ?_
  show execStg sc g b cb nr k s = _
  rw [execStg, hc]
  show s.gatherEnqueue .s (.stg sc g b cb nr k) g b (nr.toNat + 1) k = _
  simp only [State.gatherEnqueue, ← Nat.not_lt, ite_not]
  congr 2
  funext _
  split <;> rfl

/-- Settles O23: the four store forms are one form, whose window check a plain store always passes. -/
theorem storeQueueInstructionsEnqueue : Obligations.StoreQueueInstructionsEnqueue := by
  unfold Obligations.StoreQueueInstructionsEnqueue
  intro g b o o6 m sc cb nr str rel k kc s ftc map chk window lines addr addr6
  have hwindow (a : Word) (n : Nat) : windowCheck s str.toNat rel a n = window a n := by
    have hstr : str.toNat ≠ 0 ↔ str ≠ 0 := by simp [← BitVec.toNat_inj]
    simp only [windowCheck, window, hstr]
    rfl
  have hplain (a : Word) (n : Nat) : firstFault (storeChecks s 0 false a n) = firstFault (chk a n) := by
    rw [storeChecks, windowCheck_plain]
    exact firstFault_concat_none (chk a n)
  have hstream (a : Word) (n : Nat) : storeChecks s str.toNat rel a n = chk a n ++ [window a n] := by
    rw [storeChecks, hwindow]
    rfl
  have hlines : tileLines m = lines := tileLines_eq m
  refine ⟨?_, ?_, ?_, ?_, stg_enqueues s sc g b cb nr kc⟩
  · have h := storeForm_enqueues (s := s) (i := .st g b o k) rfl
    rw [hplain, linesFrom_one] at h
    exact h
  · have h := storeForm_enqueues (s := s) (i := .stt m g b o k) rfl
    rw [hplain, hlines] at h
    exact h
  · have h := storeForm_enqueues (s := s) (i := .stStr g b str rel o6 k) rfl
    rw [hstream, linesFrom_one] at h
    exact h
  · have h := storeForm_enqueues (s := s) (i := .sttStr m g b str rel o6 k) rfl
    rw [hstream, hlines] at h
    exact h

end Sys2Proof.Machine
end

section
/-! PROOFS of the statements of the family 03_lines_formats_and_opcode_map, fifth part: a line of one instruction, its dispatch, and the issue
of the head of a queue (R43 to R46, R51, R86, R91). -/

namespace Sys2Proof.Machine

/-! ## Instructions of the queues -/

/-- An instruction of a queue does what its lane does. -/
theorem exec_eq_lane {i : Instr} {q : Queue} (h : i.queue? = some q) (s : State) : exec i s = .next (s.lane i) := by
  have hlane : exec i s = laneExec i s := by
    cases i
    case jobLogScan | gangPlacement | holdRequest | holdCommit | contextLoaded | startTick | preemptionRequest | eviction | childEnd |
        launchAnswer | lineDispatch | timedIssue | timedWritePerform | ringBeatPark | handlerEntry | scalarAccessComplete | cpComplete
        | ldxComplete | deadlineFault | shiftGranuleWrite | phAdvComplete | timelineWord | landingWrite | tierLookupAnswer |
        tierMoveComplete | uncorrectableError | kOperationApply | fQueueIssue | linkRetrain | linkStateMessage | flitReceive |
        flitForward | remoteWriteArrive | acknowledgementArrive | releasedWriteSend | retransmitTimeout | breakNotice |
        remoteReadArrive | readDataArrive | remoteLoadTimeout | remoteAtomicArrive | atomicResultArrive | fredContribution |
        fredComplete | fredTimeout | fbarComplete | cphGranule | cphComplete | dieLost | stopMessage | coachSave | gangResume |
        stepBeginRelease | stepCommitDecision | stepReissue | barComplete | fenceComplete | coreExited | gangDone | hrevWrite |
        gcmdResume | gcmdEnd | evqaRead | hfaqRead | kvpbWrite | tcapWrite | registerWrite | powerOnReset | quote | readBadPageList |
        retireGranules | stageUpdate | mailboxInvalidCommand | telemetrySample | paceUpdate | paceWindow | thermalLimit |
        correctableError | retrainComplete | freezeRowRestore | virtualFunctionReset => cases h
    all_goals rfl
  obtain ⟨t, ht, -⟩ := laneExec_same i s
  rw [hlane, State.lane, ht]

/-! ## The parts of a line -/

@[simp] theorem Queue.ofTag?_tag (q : Queue) : Queue.ofTag? q.tag = some q := by cases q <;> rfl

section
variable (c : Ctl) (q : Queue) (w k : Cell32)

theorem lineParts_alone (h : lenClass q w ≠ .long) :
    lineParts c 7 1 [(q.tag, w), (0, 0), (0, 0), (0, 0), (0, 0), (0, 0), (0, 0)] =
      [.item { lane := 1, half := false, q := q, w := w, ins := decode q w none }] := by
  rw [lineParts, Queue.ofTag?_tag]
  cases hl : lenClass q w with
  | short => simp [hl, lineParts, Queue.ofTag?]
  | long => exact absurd hl h
  | both => simp [hl, lineParts, Queue.ofTag?]

theorem lineParts_continued (h : lenClass q w ≠ .short) :
    lineParts c 7 1 [(q.tag, w), (8, k), (0, 0), (0, 0), (0, 0), (0, 0), (0, 0)] =
      [.item { lane := 1, half := false, q := q, w := w, ins := decode q w (some k) }] := by
  rw [lineParts, Queue.ofTag?_tag]
  cases hl : lenClass q w with
  | short => exact absurd hl h
  | long => simp [hl, lineParts, Queue.ofTag?]
  | both => simp [hl, lineParts, Queue.ofTag?]

end

section
variable {s : State} {core l : Nat}

/-- The lanes of a line that has at most two in use. -/
theorem parts43_eq (hfree : ∀ j, 3 ≤ j → j < 8 → s.laneWord core l j = 0) {t1 t2 : Nat} (h1 : t1 < 16) (h2 : t2 < 16)
    (hh : s.header core l = t1 * 16 + t2 * 256) : s.parts43 core l = lineParts (s.ctl core) 7 1
      [(t1, s.laneWord core l 1), (t2, s.laneWord core l 2), (0, 0), (0, 0), (0, 0), (0, 0), (0, 0)] := by
  refine congrArg (lineParts (s.ctl core) 7 1) ?_
  rw [hh, show span 1 7 = [1, 2, 3, 4, 5, 6, 7] from rfl]
  simp [hfree, Nat.shiftRight_eq_div_pow]
  omega

variable {q : Queue} {w k : Cell32}

theorem parts43_alone (hfree : ∀ j, 3 ≤ j → j < 8 → s.laneWord core l j = 0) (hlen : lenClass q w ≠ .long)
    (hh : s.header core l = q.tag * 16) (h1 : s.laneWord core l 1 = w) (h2 : s.laneWord core l 2 = 0) :
    s.parts43 core l = [.item { lane := 1, half := false, q := q, w := w, ins := decode q w none }] := by
  rw [parts43_eq hfree (t1 := q.tag) (t2 := 0) (by cases q <;> decide) (by decide) hh, h1, h2, lineParts_alone _ q w hlen]

theorem parts43_continued (hfree : ∀ j, 3 ≤ j → j < 8 → s.laneWord core l j = 0) (hlen : lenClass q w ≠ .short)
    (hh : s.header core l = q.tag * 16 + 0x800) (h1 : s.laneWord core l 1 = w) (h2 : s.laneWord core l 2 = k) :
    s.parts43 core l = [.item { lane := 1, half := false, q := q, w := w, ins := decode q w (some k) }] := by
  rw [parts43_eq hfree (t1 := q.tag) (t2 := 8) (by cases q <;> decide) (by decide) hh, h1, h2, lineParts_continued _ q w k hlen]

end

/-! ## The dispatch of a line of one instruction -/

section
variable {s : State} {core line stage : Nat} {it : Item} {i : Instr}

/-- An item alone on its line runs as its lane does: an sget then reads the state registers that the lane reads. -/
theorem State.runItem_eq_lane (hins : it.ins = .ok i) : s.runItem core line stage s it = (s.focusOn core line stage it).lane i := by
  rw [State.runItem, hins]
  cases i
  all_goals rfl

theorem runItems_one (h : (s.ctl core).own = false) : runItems s core line stage [it] s = s.runItem core line stage s it := by
  simp [runItems, h]

/-- Of one item, the fault of R51 is the fault that its own run raises, or that of an rput to its own core. -/
theorem State.itemFault_eq_none_or (hins : it.ins = .ok i) (hput : ∀ m l a b, i = .rput m l a b → m.toNat ≠ core % 8) :
    s.itemFault core line stage it = none ∨
      s.itemFault core line stage it = (((s.focusOn core line stage it).lane i).ctl core).ownFault := by
  rw [State.itemFault, hins]
  dsimp only
  split
  · cases (((s.focusOn core line stage it).lane i).ctl core).ownFault with
    | none => exact .inl rfl
    | some p =>
      dsimp only
      split
      · exact .inl rfl
      · exact .inr rfl
  · left
    cases i
    case rput m l a b => exact if_neg (hput m l a b rfl)
    all_goals rfl

/-- The dispatch of a line of one instruction that waits for nothing: the fault its run raises, else its run and the end of the line. -/
theorem State.dispatch_one (hparts : s.parts43 core (s.ctl core).pc = [.item it]) (hins : it.ins = .ok i)
    (hlegal : s.illegalAt core (s.ctl core).pc [.item it] = none)
    (hon : it.q = .c ∨ (s.ctl core).stageOn (s.ctl core).pc (s.header core (s.ctl core).pc % 8) = true)
    (hstall : s.stalls core [it] = false) (hblock : s.lineBlocks core [it] = false) (hown : (s.ctl core).own = false)
    (hput : ∀ m l a b, i = .rput m l a b → m.toNat ≠ core % 8) :
    let u := (s.focusOn core (s.ctl core).pc (s.header core (s.ctl core).pc % 8) it).lane i
    s.dispatch core = if (u.ctl core).own then .fault (fld ((u.ctl core).sr.get 0x040) 0 8) ((u.ctl core).sr.get 0x041)
      else .go (u.finishLine core (s.ctl core).pc (s.ctl core).inHandler) := by
  intro u
  have henabled : (s.ctl core).enabled (s.ctl core).pc (s.header core (s.ctl core).pc % 8) [it] = [it] := by
    simpa [Ctl.enabled] using hon
  have horder : [it].filter Item.isStep ++ [it].filter (fun i => !i.isStep) = [it] := by
    cases h : it.isStep <;> simp [h]
  have hitem : s.itemFault core (s.ctl core).pc (s.header core (s.ctl core).pc % 8) it = none ∨
      s.itemFault core (s.ctl core).pc (s.header core (s.ctl core).pc % 8) it = (u.ctl core).ownFault :=
    State.itemFault_eq_none_or hins hput
  have hrun : (runItems s core (s.ctl core).pc (s.header core (s.ctl core).pc % 8) [it] s) = u := by
    rw [runItems_one hown, State.runItem_eq_lane hins]
  unfold State.dispatch
  simp only [hparts, hlegal, itemsOf, henabled, hstall, hblock, Bool.false_or, Bool.false_eq_true, if_false, List.findSome?_cons,
    List.findSome?_nil, horder, hrun]
  cases hraised : (u.ctl core).own with
  | false =>
    have hnone : (u.ctl core).ownFault = none := by rw [Ctl.ownFault, hraised, if_neg (by decide)]
    rw [hnone, or_self] at hitem
    simp [hitem, hnone]
  | true =>
    have hsome : (u.ctl core).ownFault = some (fld ((u.ctl core).sr.get 0x040) 0 8, (u.ctl core).sr.get 0x041) := by
      rw [Ctl.ownFault, hraised, if_pos rfl]
    rcases hitem with hitem | hitem <;> simp [hitem, hsome]

/-- The event of the dispatch of such a line. -/
theorem execLineDispatch_one (hlive : s.coreLive core = true) (hpend : (s.ctl core).handlerPending = false)
    (hwait : (s.ctl core).streamBlocks = []) (hacc : (s.ctl core).accessHolds = false)
    (hparts : s.parts43 core (s.ctl core).pc = [.item it]) (hins : it.ins = .ok i)
    (hlegal : s.illegalAt core (s.ctl core).pc [.item it] = none)
    (hon : it.q = .c ∨ (s.ctl core).stageOn (s.ctl core).pc (s.header core (s.ctl core).pc % 8) = true)
    (hstall : s.stalls core [it] = false) (hblock : s.lineBlocks core [it] = false)
    (hput : ∀ m l a b, i = .rput m l a b → m.toNat ≠ core % 8) {u : State}
    (hu : (s.focusOn core (s.ctl core).pc (s.header core (s.ctl core).pc % 8) it).lane i = u) :
    ((u.ctl core).own = false → execLineDispatch core s = .next (u.finishLine core (s.ctl core).pc (s.ctl core).inHandler)) ∧
    ((u.ctl core).own = true → execLineDispatch core s =
      .next (s.raise core (fld ((u.ctl core).sr.get 0x040) 0 8) ((u.ctl core).sr.get 0x041))) := by
  have hown : (s.ctl core).own = false := by
    simp only [State.coreLive, Bool.and_eq_true, Bool.not_eq_true'] at hlive
    exact hlive.2
  have htry : s.tryDispatch core = s.dispatch core := if_pos ⟨hwait, hacc⟩
  have hdispatch := State.dispatch_one hparts hins hlegal hon hstall hblock hown hput
  simp only [hu] at hdispatch
  unfold execLineDispatch
  rw [if_pos hlive, htry, hdispatch]
  constructor <;> intro h <;> simp [h, hpend]

end

/-! ## The issue of the head of a queue -/

section
variable (s : State) (core : Nat)

theorem State.setCtl_setEng (c : Ctl) (x : Eng) :
    (s.setCtl core c).setEng core x = s.setCore core { s.core core with ctl := c, eng := x } := by
  unfold State.setEng State.setCtl
  rw [State.core_setCore_self, State.setCore, State.setCore, State.setCore, putKey_putKey]

end

section
variable {s : State} {core : Nat} {q : Queue} {e : Entry} {rest : List Entry} {i : Instr}

/-- The head of a queue issues: what it makes of the counters and of the engine side stands before it runs. -/
theorem State.issueHead_cons {c : Ctl} {x : Eng} (hqueue : (s.eng core).queue q = e :: rest)
    (hctl : (if e.part then s.ctl core else (s.ctl core).pops (popsOf q e.ins)) = c)
    (heng : (if s.tokenMode core then { (s.eng core).setQueue q rest with
        lastA := putKey ((s.eng core).setQueue q rest).lastA q.tag ((s.coach (coachOf core)).tclk, e.n) }
      else (s.eng core).setQueue q rest) = x) :
    s.issueHead core q = (((s.setCoach (coachOf core) { s.coach (coachOf core) with
        due := (s.coach (coachOf core)).due.filter fun d => d != core * 8 + q.tag }).setCore core
      { s.core core with ctl := c, eng := x }).carryOut core e).bareRun core q e := by
  unfold State.issueHead
  simp only [hqueue, hctl, heng, State.setCtl_setEng]
  rfl

theorem execTimedIssue_opened (hplace : s.takesPlace (coachOf core) = true) (hopen : (s.coach (coachOf core)).opened = some s.cyc)
    (hdue : (s.coach (coachOf core)).due.contains (core * 8 + q.tag) = true) :
    execTimedIssue core q s = .next (s.issueHead core q) := by
  unfold execTimedIssue
  rw [if_pos hplace, State.openCycle_opened hopen, if_pos hdue]

end

/-- Settles O4: a line of one instruction is its one part, and its dispatch, like the issue of a head, runs the instruction's lane. -/
theorem stepRunsTheDecodedInstruction : Obligations.StepRunsTheDecodedInstruction := by
  intro s pos core again q w k i hin hi
  dsimp only
  refine ⟨fun l _ hfree => ⟨parts43_alone hfree, parts43_continued hfree⟩, ?_, ?_⟩
  · intro it hev hlive hpend hwait hacc hq hins hparts hlegal hon hstall hblock hput
    rw [step_of_nextEvent hin hev]
    exact ⟨_, exec_eq_lane hi _, execLineDispatch_one (s := { s with turn := if again then pos else pos + 1 }) hlive hpend hwait hacc hparts
      hins hlegal (hq ▸ hon) hstall hblock hput rfl⟩
  · intro e rest hev hplace hopen hdue htoken hpart hqueue hins
    subst hins
    have hissue := execTimedIssue_opened (s := { s with turn := if again then pos else pos + 1 }) hplace hopen hdue
    have hhead := State.issueHead_cons (s := { s with turn := if again then pos else pos + 1 }) hqueue
      (if_neg (by rw [hpart]; decide)) (if_neg (ne_true_of_eq_false htoken))
    rw [step_of_nextEvent hin hev]
    exact ⟨_, exec_eq_lane hi _, hissue.trans (congrArg _ hhead)⟩

end Sys2Proof.Machine
end

section
/-! PROOFS of the statements of the family 03_lines_formats_and_opcode_map, sixth part: a line of the grid as one number, of which cells and
elements are the digits (R150, R214), and the encodings that rounding gives (R202). -/

namespace Sys2Proof.Machine

/-! ## Digits of b bytes -/

/-- Digit j of b bytes of a number. -/
def digitOf (b N j : Nat) : Nat := N / 256 ^ (b * j) % 256 ^ b

theorem digitOf_zero_left (b j : Nat) : digitOf b 0 j = 0 := by simp [digitOf]

theorem digitOf_lt (b N j : Nat) : digitOf b N j < 256 ^ b := Nat.mod_lt _ (Nat.pow_pos (by decide))

theorem digitOf_zero (b x N : Nat) : digitOf b (x % 256 ^ b + 256 ^ b * N) 0 = x % 256 ^ b := by simp [digitOf]

theorem digitOf_succ (b x N j : Nat) : digitOf b (x % 256 ^ b + 256 ^ b * N) (j + 1) = digitOf b N j := by
  have hx : x % 256 ^ b / 256 ^ b = 0 := Nat.div_eq_of_lt (Nat.mod_lt _ (Nat.pow_pos (by decide)))
  rw [digitOf, digitOf, Nat.mul_succ, Nat.add_comm (b * j) b, Nat.pow_add, ← Nat.div_div_eq_div_mul,
    Nat.add_mul_div_left _ _ (Nat.pow_pos (by decide)), hx, Nat.zero_add]

theorem digitOf_drop (b N j : Nat) : digitOf b (N / 256 ^ b) j = digitOf b N (j + 1) := by
  rw [digitOf, digitOf, Nat.div_div_eq_div_mul, ← Nat.pow_add, Nat.mul_succ, Nat.add_comm b]

/-! ## Bytes as a number -/

theorem natOfBytes_append (l m : List Byte) : natOfBytes (l ++ m) = natOfBytes l + 256 ^ l.length * natOfBytes m := by
  induction l with
  | nil => simp [natOfBytes]
  | cons a l ih =>
    rw [List.cons_append, natOfBytes, ih, natOfBytes, List.length_cons, Nat.pow_succ']
    ring

theorem natOfBytes_take (l : List Byte) (n : Nat) : natOfBytes (l.take n) = natOfBytes l % 256 ^ n := by
  induction n generalizing l with
  | zero => simp [natOfBytes, Nat.mod_one]
  | succ n ih =>
    cases l with
    | nil => simp [natOfBytes]
    | cons a l =>
      have ha : a.toNat < 256 := a.isLt
      rw [List.take_succ_cons, natOfBytes, ih, natOfBytes, Nat.pow_succ', Nat.mod_mul, Nat.add_mul_mod_self_left,
        Nat.add_mul_div_left _ _ (by decide), Nat.mod_eq_of_lt ha, Nat.div_eq_of_lt ha, Nat.zero_add]

theorem natOfBytes_drop (l : List Byte) (n : Nat) : natOfBytes (l.drop n) = natOfBytes l / 256 ^ n := by
  induction n generalizing l with
  | zero => simp
  | succ n ih =>
    cases l with
    | nil => simp [natOfBytes]
    | cons a l =>
      have ha : a.toNat < 256 := a.isLt
      rw [List.drop_succ_cons, ih, natOfBytes, Nat.pow_succ', ← Nat.div_div_eq_div_mul,
        Nat.add_mul_div_left _ _ (by decide), Nat.div_eq_of_lt ha, Nat.zero_add]

/-- The digits of numbers written out one after another. -/
theorem digitOf_flatMap_bytesOf (b : Nat) (xs : List Nat) (j : Nat) :
    digitOf b (natOfBytes (xs.flatMap fun x => bytesOf b x)) j = nthD 0 xs j % 256 ^ b := by
  induction xs generalizing j with
  | nil => simp [natOfBytes, digitOf_zero_left, nthD]
  | cons x xs ih =>
    rw [List.flatMap_cons, natOfBytes_append, natOfBytes_bytesOf, bytesOf_length]
    cases j with
    | zero => exact digitOf_zero ..
    | succ j => rw [digitOf_succ, ih, nthD]

/-- Cell i of a line is a digit of four bytes. -/
theorem digitOf_lineBytes (l : List Cell32) (i : Nat) : digitOf 4 (natOfBytes (lineBytes l)) i = (nthD 0 l i).toNat := by
  have hcells : lineBytes l = (l.map (·.toNat)).flatMap fun x => bytesOf 4 x := by rw [lineBytes, List.flatMap_map]
  have hnth : nthD 0 (l.map (·.toNat)) i = (nthD 0 l i).toNat := by
    rw [nthD_eq_getD, nthD_eq_getD]
    exact List.getD_map l (0 : Cell32) BitVec.toNat
  rw [hcells, digitOf_flatMap_bytesOf, hnth]
  exact Nat.mod_eq_of_lt (nthD 0 l i).isLt

theorem nthD_elemsOf (b : Nat) : ∀ (n : Nat) (bs : List Byte) (j : Nat), j < n → nthD 0 (elemsOf b n bs) j = digitOf b (natOfBytes bs) j
  | n + 1, bs, 0, _ => by simp [elemsOf, nthD, digitOf, natOfBytes_take]
  | n + 1, bs, j + 1, h => by
    rw [elemsOf, nthD, nthD_elemsOf b n _ j (Nat.lt_of_succ_lt_succ h), natOfBytes_drop, digitOf_drop]

@[simp] theorem elemsOf_length (b n : Nat) (bs : List Byte) : (elemsOf b n bs).length = n := by
  induction n generalizing bs with
  | zero => rfl
  | succ n ih => rw [elemsOf, List.length_cons, ih]

theorem cellsOf_eq_elemsOf (n : Nat) (bs : List Byte) : cellsOf n bs = (elemsOf 4 n bs).map (BitVec.ofNat 32) := by
  induction n generalizing bs with
  | zero => rfl
  | succ n ih => rw [cellsOf, elemsOf, List.map_cons, ih]

/-! ## Elements of a line (R214) -/

/-- A width of an element in bytes. -/
def ElemWidth (b : Nat) : Prop := b = 1 ∨ b = 2 ∨ b = 4 ∨ b = 8

/-- Digits of four bytes in pairs are digits of eight. -/
theorem digitOf_pair (N j : Nat) : digitOf 4 N (2 * j) + 2 ^ 32 * digitOf 4 N (2 * j + 1) = digitOf 8 N j := by
  have hhigh : N / 256 ^ (4 * (2 * j + 1)) = N / 256 ^ (8 * j) / 256 ^ 4 := by
    rw [Nat.div_div_eq_div_mul, show 4 * (2 * j + 1) = 8 * j + 4 by omega, Nat.pow_add]
  rw [digitOf, digitOf, digitOf, hhigh, show 4 * (2 * j) = 8 * j by omega]
  omega

/-- A digit of b bytes inside one of four bytes. -/
theorem digitOf_part {b q r : Nat} (N j : Nat) (hj : b * j = 4 * q + r) (hr : r + b ≤ 4) :
    digitOf 4 N q / 2 ^ (8 * r) % 2 ^ (8 * b) = digitOf b N j := by
  have hfour : 256 ^ 4 = 256 ^ r * 256 ^ (4 - r) := by rw [← Nat.pow_add, show r + (4 - r) = 4 by omega]
  rw [Nat.pow_mul, Nat.pow_mul, show 2 ^ 8 = 256 from rfl, digitOf, digitOf, hj, hfour, Nat.mod_mul_right_div_self,
    Nat.mod_mod_of_dvd _ (Nat.pow_dvd_pow 256 (by omega)), Nat.div_div_eq_div_mul, ← Nat.pow_add]

/-- Where cells are the digits of four bytes of a number, elements are its digits of b bytes. -/
theorem elemAt_eq_digitOf {b N m j : Nat} {f : Nat → Cell32} (hb : ElemWidth b) (hf : ∀ i, i < m → (f i).toNat = digitOf 4 N i)
    (hj : b * j + b ≤ 4 * m) : elemAt b f j = digitOf b N j := by
  unfold elemAt
  by_cases h8 : b = 8
  · subst h8
    rw [if_pos rfl, hf _ (by omega), hf _ (by omega), digitOf_pair]
  · have hfit : b * j % 4 + b ≤ 4 := by
      rcases hb with rfl | rfl | rfl | rfl <;> omega
    have hcell : b * j / 4 < m := by
      rcases hb with rfl | rfl | rfl | rfl <;> omega
    rw [if_neg h8, Nat.mul_comm j b, hf _ hcell]
    exact digitOf_part N j (by omega) hfit

/-- Element j of a line of the grid, as the lane that reads it takes it. -/
theorem nthD_lineElems {b : Nat} (hb : ElemWidth b) (d : Dat) (g : GridOp) {j : Nat} (hj : j < 256 / b) :
    nthD 0 (lineElems b d g) j = elemAt b (gridLine d g) j := by
  have hcell : ∀ i, i < 64 → (gridLine d g i).toNat = digitOf 4 (natOfBytes (lineBytes (readLine d g))) i := by
    intro i hi
    rw [digitOf_lineBytes, nthD_eq_getD]
    simp [readLine, gridLine, hi]
  have hline : b * j + b ≤ 4 * 64 := by
    rcases hb with rfl | rfl | rfl | rfl <;> omega
  rw [lineElems, nthD_elemsOf b _ _ _ hj, elemAt_eq_digitOf hb hcell hline]

@[simp] theorem lineElems_length (b : Nat) (d : Dat) (g : GridOp) : (lineElems b d g).length = 256 / b := elemsOf_length ..

/-! ## Writing elements as a line -/

section
variable {b : Nat} {xs : List Nat}

theorem elemCells_length (b : Nat) (xs : List Nat) : (elemCells b xs).length = xs.length * b / 4 := by
  rw [elemCells, cellsOf_eq_elemsOf, List.length_map, elemsOf_length]

theorem nthD_elemCells {i : Nat} (hi : i < xs.length * b / 4) :
    (nthD 0 (elemCells b xs) i).toNat = digitOf 4 (natOfBytes (xs.flatMap fun x => bytesOf b x)) i := by
  have hmap : nthD 0 (elemCells b xs) i =
      BitVec.ofNat 32 (nthD 0 (elemsOf 4 (xs.length * b / 4) (xs.flatMap fun x => bytesOf b x)) i) := by
    rw [elemCells, cellsOf_eq_elemsOf, nthD_eq_getD, nthD_eq_getD]
    exact List.getD_map _ 0 (BitVec.ofNat 32)
  rw [hmap, nthD_elemsOf 4 _ _ _ hi, BitVec.toNat_ofNat]
  exact Nat.mod_eq_of_lt (digitOf_lt ..)

/-- The cells that elements are written as hold them. -/
theorem elemAt_elemCells (hb : ElemWidth b) (hlen : xs.length = 256 / b) {j : Nat} (hj : j < 256 / b) :
    elemAt b (nthD 0 (elemCells b xs)) j = nthD 0 xs j % 256 ^ b := by
  have hline : b * j + b ≤ 4 * (xs.length * b / 4) := by
    rw [hlen]
    rcases hb with rfl | rfl | rfl | rfl <;> omega
  rw [elemAt_eq_digitOf hb (fun i hi => nthD_elemCells hi) hline, digitOf_flatMap_bytesOf]

theorem mem_lineWrites {d : GridOp} {mask : Word} {vals : List Cell32} (hlen : vals.length = 64) (p : Nat × Cell32) :
    p ∈ lineWrites d mask vals ↔ ∃ i, i < 64 ∧ mask.getLsbD i = true ∧ p = (gridKey d i, nthD 0 vals i) := by
  have hzip (a : Nat × Cell32) : a ∈ (List.range 64).zip vals ↔ ∃ i, i < 64 ∧ a = (i, nthD 0 vals i) := by
    rw [List.mem_iff_getElem]
    simp only [List.length_zip, List.length_range, hlen, Nat.min_self, List.getElem_zip, List.getElem_range]
    refine exists_congr fun i => ⟨fun ⟨hi, ha⟩ => ⟨hi, ?_⟩, fun ⟨hi, ha⟩ => ⟨hi, ?_⟩⟩
    · rw [← ha, nthD_eq_getD, List.getD_eq_getElem _ _ (hlen ▸ hi)]
    · rw [ha, nthD_eq_getD, List.getD_eq_getElem _ _ (hlen ▸ hi)]
  rw [lineWrites, List.mem_filterMap]
  constructor
  · rintro ⟨a, ha, hp⟩
    obtain ⟨i, hi, rfl⟩ := (hzip a).1 ha
    obtain ⟨hon, hp⟩ := Option.ite_none_right_eq_some.1 hp
    exact ⟨i, hi, hon, (Option.some.inj hp).symm⟩
  · rintro ⟨i, hi, hon, rfl⟩
    exact ⟨_, (hzip _).2 ⟨i, hi, rfl⟩, if_pos hon⟩

theorem getLsbD_cellMask (b : Nat) (m : Word) {i : Nat} (hi : i < 64) : (cellMask b m).getLsbD i = cellOn b m i := by
  have heven : ∀ i < 64, (0x5555555555555555 : Word).getLsbD i = decide (i % 2 = 0) := by decide
  unfold cellMask cellOn
  by_cases hb : b = 8
  · rw [if_pos hb, if_pos hb, BitVec.getLsbD_or, BitVec.getLsbD_shiftLeft, BitVec.getLsbD_and, BitVec.getLsbD_and, heven _ hi,
      heven (i - 1) (by omega)]
    rcases Nat.mod_two_eq_zero_or_one i with h | h
    · have hbefore : i = 0 ∨ (i - 1) % 2 = 1 := by omega
      rcases hbefore with rfl | hbefore
      · simp
      · simp [h, hbefore]
    · have hbefore : (i - 1) % 2 = 0 := by omega
      have hpos : i ≠ 0 := by omega
      simp [h, hbefore, hi, hpos]
  · rw [if_neg hb, if_neg hb]

/-- A write of the enabled cells of elements is a write of a line. -/
theorem writesLine_lineWrites {val : Nat → Nat} (hb : ElemWidth b) (hlen : xs.length = 256 / b) (hval : ∀ j, j < 256 / b → nthD 0 xs j = val j)
    (hlt : ∀ j, val j < 256 ^ b) (d : GridOp) (m : Word) :
    WritesLine d b (256 / b) (cellOn b m) val (.grid (lineWrites d (cellMask b m) (elemCells b xs))) := by
  have hcells : 256 / b * b / 4 = 64 := by
    rcases hb with rfl | rfl | rfl | rfl <;> rfl
  refine ⟨_, nthD 0 (elemCells b xs), rfl, fun j hj => ?_, fun p => ?_⟩
  · rw [elemAt_elemCells hb hlen hj, hval j hj, Nat.mod_eq_of_lt (hlt j)]
  · rw [mem_lineWrites (by rw [elemCells_length, hlen, hcells]), hcells]
    refine exists_congr fun i => and_congr_right fun hi => ?_
    rw [getLsbD_cellMask b m hi]

end

/-! ## Encodings (R202) -/

theorem Fmt.signEnc_le (f : Fmt) (neg : Bool) : f.signEnc neg ≤ f.signEnc true := by
  cases neg
  · exact Nat.zero_le _
  · exact Nat.le_refl _

theorem Fmt.overflow_le (f : Fmt) (rm : Rm) (neg : Bool) : f.overflow rm neg ≤ f.signEnc true + (f.maxEnc + 1) := by
  have hbig (big : Bool) : (if big then f.maxEnc + 1 else f.maxEnc) ≤ f.maxEnc + 1 := by
    cases big
    · exact Nat.le_succ _
    · exact Nat.le_refl _
  exact Nat.add_le_add (f.signEnc_le neg) (hbig _)

/-- A rounded value is at most the canonical NaN or the infinity of sign 1. -/
theorem Fmt.round_le (f : Fmt) (rm : Rm) (v : Val) : f.round rm v ≤ max f.nanEnc (f.signEnc true + (f.maxEnc + 1)) := by
  have hsign (neg : Bool) {n : Nat} (hn : n ≤ f.maxEnc + 1) : f.signEnc neg + n ≤ max f.nanEnc (f.signEnc true + (f.maxEnc + 1)) :=
    Nat.le_trans (Nat.add_le_add (f.signEnc_le neg) hn) (Nat.le_max_right ..)
  cases v with
  | nan => exact Nat.le_max_left ..
  | inf neg =>
    rw [Fmt.round]
    split
    · exact Nat.le_max_left ..
    · exact hsign neg (Nat.le_refl _)
  | fin neg m e =>
    rw [Fmt.round]
    split
    · exact hsign neg (Nat.zero_le _)
    · dsimp only
      split
      next => exact Nat.le_trans (f.overflow_le rm neg) (Nat.le_max_right ..)
      next h => exact hsign neg (Nat.le_succ_of_le (Nat.le_of_not_lt h))

theorem round_fmt_lt (t : FTy) (rm : Rm) (v : Val) : t.fmt.round rm v < 256 ^ t.bytes := by
  refine Nat.lt_of_le_of_lt (Fmt.round_le ..) ?_
  cases t <;> decide

theorem elemWidth_bytes (t : FTy) : ElemWidth t.bytes := by
  cases t <;> simp [FTy.bytes, ElemWidth]

end Sys2Proof.Machine
end

section
/-! PROOFS of the statements of the family 03_lines_formats_and_opcode_map, seventh part: nominal issue cycles, q.wait and q.sig, and the
dispatch of li (R60, R86, R87, R90, R117, R118). -/

namespace Sys2Proof.Machine

/-! ## Nominal issue cycles, q.wait and q.sig (R90, R117, R118) -/

section
variable {q : Queue} (s : State)

theorem nominalOf_cont (h : q.timed = true) (c : Cont) :
    nominalOf s q (some c) = (((s.ctl s.me).sr.get 0x005).toNat + c.stamp.toNat) % 2 ^ 64 := if_pos h

theorem nominalOf_next (h : q.timed = true) {p : Nat} (hp : lookup? (s.eng s.me).lastN q.tag = some p) :
    nominalOf s q none = (p + 1) % 2 ^ 64 := by
  rw [nominalOf, if_pos h, State.nominal, hp]

theorem nominalOf_first (h : q.timed = true) (hp : lookup? (s.eng s.me).lastN q.tag = none) :
    nominalOf s q none = ((s.ctl s.me).sr.get 0x005).toNat := by
  rw [nominalOf, if_pos h, State.nominal, hp, State.tbaseNow]

theorem qWait_enqueues (hq : q ≠ .c) (n : BitVec 16) (k : Option Cont) : Enqueues (.qWait q n k) s q k [] {} none := by
  refine Enqueues.of hq (cap := []) (operand := noOperand) (fs := {}) (fun hc => ?_) rfl
  show execQWait q n k s = _
  unfold execQWait
  rw [hc]
  cases q
  case c => exact absurd rfl hq
  all_goals rfl

theorem qSig_enqueues (hq : q ≠ .c) (aw : BitVec 6) (k : Option Cont) : Enqueues (.qSig q aw k) s q k [] {} (some aw.toNat) := by
  refine Enqueues.of hq (cap := []) (operand := noOperand) (fs := {}) (fun hc => ?_) rfl
  show execQSig q aw k s = _
  unfold execQSig
  rw [hc]
  cases q
  case c => exact absurd rfl hq
  all_goals rfl

end

/-! ## The end of a line of the main stream that holds nothing else (R86, R87) -/

section
variable {c : Ctl}

theorem Ctl.applyDefer_nil (h : c.defer = []) : c.applyDefer = c := by
  unfold Ctl.applyDefer
  rw [h, List.foldl_nil, ← h]

theorem Ctl.countDispatch_quiet (hf : c.fst = []) (ha : c.acc = []) (hnd : Bool) : c.countDispatch hnd = c.countLine hnd := by
  unfold Ctl.countDispatch
  rw [hf, ha, List.map_nil, List.map_nil]
  show Ctl.countLine { c with acc := [], fst := [] } hnd = _
  rw [← hf, ← ha]

theorem Ctl.countLine_quiet (h : c.pend = []) (hnd : Bool) : c.countLine hnd = c := by
  unfold Ctl.countLine Ctl.settle
  rw [h, List.map_nil, settleFrom, ← h]

/-- A result of latency 1 with none other pending is there at the end of its line. -/
theorem Ctl.countLine_result_pend (h : c.pend = []) (d : Reg) (v : Word) : ((c.result d 1 v none).countLine c.inHandler).pend = [] := by
  by_cases hd : d = 0
  · subst hd
    rw [Ctl.result_zero, Ctl.countLine_quiet h, h]
  · rw [Ctl.result_of_ne _ _ _ _ _ hd, h, Ctl.countLine_eq]
    cases hh : c.inHandler <;> simp [settleFrom, Ctl.landsNow, hh]

theorem Ctl.countLine_result_reg (h : c.pend = []) (d : Reg) (v : Word) (r : Reg) :
    ((c.result d 1 v none).countLine c.inHandler).reg r = if r = d ∧ d ≠ 0 then v else c.reg r := by
  have hseen := (c.result_resultSeen d 0 v).2 r
  rwa [Ctl.afterLines, Ctl.afterLines, Ctl.afterLines, Ctl.afterLines, Ctl.countLine_quiet h] at hseen

theorem boundary_outside (preReq : Bool) (line n next : Nat) (h : c.depth = 0) : boundary preReq line n c next = ⟨c, next, false⟩ := by
  cases n with
  | zero => rfl
  | succ n => exact if_pos h

end

section
variable {s : State} {core line : Nat}

/-- What a line of the main stream leaves outside every loop when it put nothing off and has no access: its results come nearer, and the
next line is the one after. -/
def Ctl.afterLine (c : Ctl) (line : Nat) : Ctl :=
  { c.countLine false with pc := (line + 1) % 2048, lines := (c.lines + 1) % 2 ^ 48 }

/-- A running control side outside every loop, with nothing put off, no flow change and no access. -/
structure Ctl.Quiet (c : Ctl) : Prop where
  stand : c.stand = .running
  defer : c.defer = []
  flow : c.flow = none
  fst : c.fst = []
  acc : c.acc = []
  depth : c.depth = 0
  brk : c.brk = false

theorem Ctl.Quiet.result {c : Ctl} (h : c.Quiet) (d : Reg) (v : Word) : (c.result d 1 v none).Quiet := by
  rw [Ctl.result_frame]
  exact ⟨h.stand, h.defer, h.flow, h.fst, h.acc, h.depth, h.brk⟩

theorem State.finishLine_quiet (h : (s.ctl core).Quiet) :
    s.finishLine core line false =
      ((s.setCtl core ((s.ctl core).afterLine line)).setEng core ((s.eng core).countSigs false)).settleSigs core := by
  have hcount : (s.ctl core).applyDefer.countDispatch false = (s.ctl core).countLine false := by
    rw [Ctl.applyDefer_nil h.defer, Ctl.countDispatch_quiet h.fst h.acc]
  have hnext : ((s.ctl core).countLine false).flow.getD ((line + 1) % 2048) = (line + 1) % 2048 := by
    rw [Ctl.countLine_frame, h.flow]
    rfl
  have hout : ({ (s.ctl core).countLine false with flow := none } : Ctl).depth = 0 := by
    rw [Ctl.countLine_frame]
    exact h.depth
  have hafter : (s.ctl core).afterLine line = { (s.ctl core).countLine false with
      flow := none, pc := (line + 1) % 2048, lines := (((s.ctl core).countLine false).lines + 1) % 2 ^ 48, brk := false } := by
    rw [Ctl.afterLine, Ctl.countLine_frame, h.flow, h.brk]
  unfold State.finishLine
  simp only [h.stand, hcount, hnext, boundary_outside _ _ _ _ hout, Bool.false_eq_true, if_false, hafter]

end

/-! ## The dispatch of li (R86) -/

section
variable {s : State} {core : Nat} {it : Item} {d : Reg} {imm : BitVec 21}

/-- A line of one instruction of the control queue that registers on no word, copies nothing and pushes no format waits for no queue. -/
theorem State.li_waits_for_nothing (hq : it.q = .c) (hins : it.ins = .ok (.li d imm)) :
    s.stalls core [it] = false ∧ s.lineBlocks core [it] = false := by
  simp [State.stalls, State.lineBlocks, Eng.fullFor, Dat.fifoFull, Item.words, Item.isCopy, Item.pushes, countsAsCopy, hq, hins, awOf]

/-- The control side after a line that gave a result of latency 1. -/
theorem Ctl.afterLine_result {c : Ctl} (hmain : c.inHandler = false) (hpend : c.pend = []) (v : Word) (line : Nat) :
    (c.result d 1 v none).afterLine line =
      { c with regs := ((c.result d 1 v none).afterLine line).regs, pc := (line + 1) % 2048, lines := (c.lines + 1) % 2 ^ 48 } := by
  have hpend' := Ctl.countLine_result_pend hpend d v
  rw [hmain] at hpend'
  rw [Ctl.afterLine, Ctl.countLine_frame, hpend', ← hpend, Ctl.result_frame]

theorem Ctl.afterLine_result_reg {c : Ctl} (hmain : c.inHandler = false) (hpend : c.pend = []) (v : Word) (line : Nat) (r : Reg) :
    ((c.result d 1 v none).afterLine line).reg r = if r = d ∧ d ≠ 0 then v else c.reg r := by
  rw [← Ctl.countLine_result_reg hpend, hmain]
  rfl

theorem Eng.countSigs_nil {x : Eng} (h : x.sigs = []) (hnd : Bool) : x.countSigs hnd = x := by
  unfold Eng.countSigs
  rw [h, List.map_nil, ← h]

/-- A core without signals that takes a new state keeps it when its signals are settled. -/
theorem State.settleSigs_setCore (s : State) (core : Nat) {x : Core} (hsigs : x.eng.sigs = []) :
    let t := (s.setCore core x).settleSigs core
    OnlyCore s t core ∧ SameBytes s t ∧ t.ctl core = x.ctl ∧ t.eng core = x.eng ∧ t.dat core = x.dat := by
  intro t
  have hcore : (s.setCore core x).core core = x := s.core_setCore_self core x
  have hsigs' : ((s.setCore core x).eng core).sigs = [] := by rw [State.eng, hcore, hsigs]
  have hcores : t = { s.setCore core x with cores := t.cores } := State.settleSigs_cores ..
  refine ⟨⟨?_, fun i hi => ?_⟩, fun k => ?_, ?_, ?_, ?_⟩
  · rw [hcores]
    rfl
  · rw [State.settleSigs_core_other _ hi, State.core_setCore_other _ _ _ _ hi]
  · rw [hcores]
    rfl
  · rw [State.settleSigs_ctl hsigs', State.ctl, hcore]
  · rw [State.settleSigs_eng hsigs', State.eng, hcore]
  · rw [State.settleSigs_dat, State.dat, hcore]

/-- A line that gives a result of latency 1 on a quiet control side changes that control side alone. -/
theorem State.finishLine_result {line : Nat} (h : (s.ctl core).Quiet) (hsigs : (s.eng core).sigs = []) (hme : s.me = core) (d : Reg) (v : Word) :
    let t := (s.result d 1 v).finishLine core line false
    OnlyCore s t core ∧ SameBytes s t ∧ t.ctl core = ((s.ctl core).result d 1 v none).afterLine line ∧ t.eng core = s.eng core ∧
      t.dat core = s.dat core := by
  have hres : s.result d 1 v = s.setCtl core ((s.ctl core).result d 1 v none) := by rw [State.result_eq, hme]
  have hquiet : ((s.setCtl core ((s.ctl core).result d 1 v none)).ctl core).Quiet := by
    rw [State.ctl_setCtl_self]
    exact h.result d v
  rw [hres, State.finishLine_quiet hquiet, State.ctl_setCtl_self, State.setCtl_setCtl, State.eng_setCtl, Eng.countSigs_nil hsigs,
    State.setCtl_setEng]
  exact State.settleSigs_setCore s core hsigs

/-- The dispatch of li from a state whose core waits for nothing (R86, R87). -/
theorem lineDispatch_li (hlive : s.coreLive core = true) (hquiet : (s.ctl core).Quiet) (hblocks : (s.ctl core).blocks = [])
    (hhandler : (s.ctl core).handlerPending = false) (hmain : (s.ctl core).inHandler = false) (hpend : (s.ctl core).pend = [])
    (hsigs : (s.eng core).sigs = []) (hparts : s.parts43 core (s.ctl core).pc = [.item it])
    (hlegal : s.illegalAt core (s.ctl core).pc [.item it] = none) (hq : it.q = .c) (hins : it.ins = .ok (.li d imm)) :
    Answers (.lineDispatch core) s fun t => OnlyCore s { t with focus := s.focus } core ∧ SameBytes s t ∧ t.eng core = s.eng core ∧
      t.dat core = s.dat core ∧
      t.ctl core = { s.ctl core with
        regs := (t.ctl core).regs, pc := ((s.ctl core).pc + 1) % 2048, lines := ((s.ctl core).lines + 1) % 2 ^ 48 } ∧
      ∀ r, (t.ctl core).reg r = if r = d ∧ d ≠ 0 then imm.signExtend 64 else (s.ctl core).reg r := by
  have hown : (s.ctl core).own = false := by
    simp only [State.coreLive, Bool.and_eq_true, Bool.not_eq_true'] at hlive
    exact hlive.2
  have hwait : (s.ctl core).streamBlocks = [] := by rw [Ctl.streamBlocks, hmain, if_neg (by decide), hblocks]
  have hacc : (s.ctl core).accessHolds = false := by rw [Ctl.accessHolds, hquiet.acc, List.any_nil]
  obtain ⟨hstall, hblock⟩ := State.li_waits_for_nothing (s := s) (core := core) hq hins
  let w := s.focusOn core (s.ctl core).pc (s.header core (s.ctl core).pc % 8) it
  have hlane : w.lane (.li d imm) = w.result d 1 (imm.signExtend 64) := rfl
  have hown' : ((w.lane (.li d imm)).ctl core).own = false := by
    rw [hlane, State.result_eq, show w.me = core from rfl, State.ctl_setCtl_self, Ctl.result_frame]
    exact hown
  have hrun := (execLineDispatch_one hlive hhandler hwait hacc hparts hins hlegal (.inl hq) hstall hblock (by intros; contradiction) hlane).1 hown'
  have hleft := State.finishLine_result (s := w) (line := (s.ctl core).pc) hquiet hsigs rfl d (imm.signExtend 64)
  rw [hmain] at hrun
  generalize (w.result d 1 (imm.signExtend 64)).finishLine core (s.ctl core).pc false = t at hrun hleft
  obtain ⟨honly, hbytes, hctl, heng, hdat⟩ := hleft
  refine ⟨t, hrun, ⟨?_, honly.2⟩, hbytes, heng, hdat, ?_, fun r => ?_⟩
  · rw [honly.1]
    rfl
  · rw [hctl]
    exact Ctl.afterLine_result hmain hpend _ _
  · rw [hctl]
    exact Ctl.afterLine_result_reg hmain hpend _ _ r

end

end Sys2Proof.Machine
end

section
/-! PROOFS of the statements of the family 03_lines_formats_and_opcode_map, eighth part: the issue of vadd from a timed queue and of fbar from
the F queue (R91 to R93, R215, R218, R327, R333). -/

namespace Sys2Proof.Machine

/-! ## Token counters (R92) -/

section
variable (c : Ctl)

theorem Ctl.setToken_token {i : Nat} (hi : i < 16) (j v : Nat) :
    (c.setToken i v).token j = if j = i then v % 16 else c.token j := by
  rw [Ctl.token, Ctl.setToken, Ctl.setSr, Bits.get_put_self]
  by_cases h : j = i
  · rw [if_pos h, h]
    exact fld_setFld_self _ (by omega) v
  · rw [if_neg h, fld_setFld_other _ (by omega), Ctl.token]

theorem Ctl.token_lt (i : Nat) : c.token i < 16 := fld_lt ..

/-- Each pop takes one from its counter, which stays at 0. -/
theorem Ctl.pops_token {l : List Nat} (hl : ∀ j ∈ l, j < 16) (i : Nat) : (c.pops l).token i = c.token i - l.count i := by
  induction l generalizing c with
  | nil => rfl
  | cons j l ih =>
    obtain ⟨hj, hl⟩ := List.forall_mem_cons.1 hl
    have hlt := c.token_lt j
    rw [Ctl.pops, List.foldl_cons, ← Ctl.pops, ih _ hl, Ctl.setToken_token c hj, List.count_cons]
    by_cases h : i = j
    · subst h
      rw [if_pos rfl, beq_self_eq_true, if_pos rfl]
      omega
    · rw [if_neg h, if_neg (by simpa using Ne.symm h), Nat.add_zero]

theorem Ctl.pops_frame (l : List Nat) : c.pops l = { c with sr := (c.pops l).sr } := by
  induction l generalizing c with
  | nil => rfl
  | cons j l ih => exact ih (c.setToken j (c.token j - 1))

theorem Ctl.pops_sr_other (l : List Nat) {n : Nat} (hn : n ≠ 0x009) : (c.pops l).sr.get n = c.sr.get n := by
  induction l generalizing c with
  | nil => rfl
  | cons j l ih => exact (ih _).trans (Bits.get_put_other _ _ _ _ hn)

end

section
variable (f : FTy) (d a b : GridOp) (k : Option Cont)

theorem popsOf_vadd_alone : popsOf .v (.vadd f d a b none) = [] := by
  have hcont : contBits (.vadd f d a b none) = 0 := rfl
  rw [popsOf, hcont]
  rfl

/-- The counters that a vadd pops are those its continuation names. -/
theorem popsOf_vadd_cont (c : Cont) :
    popsOf .v (.vadd f d a b (some c)) = (if c.pw then [2] else []) ++ (if c.pe then [5] else []) := by
  have hcont : contBits (.vadd f d a b (some c)) = c.word.toNat := rfl
  have hbits : c.word.getLsbD 15 = c.pw ∧ c.word.getLsbD 14 = c.pe := by
    have hparse := parseCont_word c
    unfold parseCont at hparse
    split at hparse
    · cases hparse
    · exact ⟨congrArg Cont.pw (Except.ok.inj hparse), congrArg Cont.pe (Except.ok.inj hparse)⟩
  obtain ⟨hpw, hpe⟩ := hbits
  rw [popsOf, hcont, show c.word.toNat.testBit 15 = c.pw from hpw, show c.word.toNat.testBit 14 = c.pe from hpe]

theorem popsOf_vadd_lt (j : Nat) (hj : j ∈ popsOf .v (.vadd f d a b k)) : j < 16 := by
  cases k with
  | none =>
    rw [popsOf_vadd_alone] at hj
    cases hj
  | some c =>
    rw [popsOf_vadd_cont, List.mem_append] at hj
    rcases hj with hj | hj <;> split at hj <;> simp at hj <;> omega

theorem count_popsOf_vadd (i : Nat) : (popsOf .v (.vadd f d a b k)).count i =
    if (i = 2 ∧ ∃ c, k = some c ∧ c.pw = true) ∨ (i = 5 ∧ ∃ c, k = some c ∧ c.pe = true) then 1 else 0 := by
  cases k with
  | none => simp [popsOf_vadd_alone]
  | some c =>
    have hone (n : Nat) (on : Bool) : (if on then [n] else []).count i = if i = n ∧ on = true then 1 else 0 := by
      by_cases h : i = n
      · subst h
        cases on <;> simp
      · cases on <;> simp [h, Ne.symm h]
    have hapart : ¬((i = 2 ∧ c.pw = true) ∧ (i = 5 ∧ c.pe = true)) := by omega
    rw [popsOf_vadd_cont, List.count_append, hone, hone]
    simp only [Option.some.injEq, exists_eq_left']
    by_cases hw : i = 2 ∧ c.pw = true
    · have he : ¬(i = 5 ∧ c.pe = true) := fun he => hapart ⟨hw, he⟩
      rw [if_pos hw, if_neg he, if_pos (.inl hw)]
    · simp only [hw, if_false, false_or, Nat.zero_add]

end

/-! ## What an elementwise instruction writes (R215, R218) -/

section
variable (s : State) (k : Option Cont)

theorem State.vmask_eq_predNow : s.vmask k = predNow s k := by
  cases k with
  | none => rfl
  | some c =>
    have hzero : c.q.toNat = 0 ↔ c.q = 0 := (BitVec.toNat_eq (y := 0)).symm
    simp only [State.vmask, predMask, predOf, predNow, hzero]

/-- The line that a binary floating instruction writes. -/
def State.binWrite (t : FTy) (d a b : GridOp) (op : Val → Val → Val) : WEff :=
  .grid (lineWrites d (cellMask t.bytes (s.vmask k)) (elemCells t.bytes
    (List.zipWith (fun x y => t.fmt.round .rne (op (t.fmt.decode x) (t.fmt.decode y))) (lineElems t.bytes s.mine a) (lineElems t.bytes s.mine b))))

theorem State.binWrite_writesLine (t : FTy) (d a b : GridOp) (op : Val → Val → Val) :
    WritesLine d t.bytes (256 / t.bytes) (cellOn t.bytes (predNow s k))
      (fun j => t.fmt.round .rne (op (t.fmt.decode (src s t.bytes a j)) (t.fmt.decode (src s t.bytes b j)))) (s.binWrite k t d a b op) := by
  rw [← s.vmask_eq_predNow k]
  refine writesLine_lineWrites (elemWidth_bytes t) (by simp) (fun j hj => ?_) (fun j => round_fmt_lt ..) d _
  rw [src, src, ← nthD_lineElems (elemWidth_bytes t) _ _ hj, ← nthD_lineElems (elemWidth_bytes t) _ _ hj, nthD_eq_getD, nthD_eq_getD,
    nthD_eq_getD]
  simp [hj, List.getD_eq_getElem?_getD, State.mine]

end

/-! ## An issue that starts a run (R91, R154) -/

section
variable (s : State)

/-- The run that an issued entry starts. -/
def State.freshRun (q : Queue) (e : Entry) (last : Nat) (wr : List (Nat × WEff)) : Run :=
  { e := e, q := q, t := (s.coach (coachOf s.me)).tclk, k := 0, last := last, push := last, wr := wr, data := []
    data2 := [], tile := none, tile2 := none, src := none, snaps := [], seen := true, early := [] }

theorem State.startRun_eq (q : Queue) (e : Entry) (last : Nat) (wr : List (Nat × WEff)) :
    s.startRun q e last wr = s.setEng s.me { s.eng s.me with run := (s.eng s.me).run ++ [s.freshRun q e last wr] } := rfl

theorem State.lane_vadd {e : Entry} (h : s.focus.cur = some e) (f : FTy) (d a b : GridOp) (k : Option Cont) :
    s.lane (.vadd f d a b k) = s.startRun .v e (f.lat 4 8 - 1) [(f.lat 4 8 - 1, s.binWrite k f d a b (Val.add .rne))] := by
  have hlane : laneExec (.vadd f d a b k) s = .next (s.startRun .v e (f.lat 4 8 - 1) [(f.lat 4 8 - 1, s.binWrite k f d a b (Val.add .rne))]) := by
    show execVadd f d a b k s = _
    rw [execVadd, State.vbin, State.vop, h]
    rfl
  rw [State.lane, hlane]

/-- The state with no entry in the focus. -/
def State.unfocus : State := { s with focus := { s.focus with cur := none } }

variable {s} {core : Nat} {q : Queue} {e : Entry}

/-- An entry that starts a run is carried out and issued by it. -/
theorem State.bareRun_carryOut {last : Nat} {wr : List (Nat × WEff)}
    (hlane : (s.focusEntry core e).lane e.ins = (s.focusEntry core e).startRun q e last wr) :
    (s.carryOut core e).bareRun core q e = ((s.focusEntry core e).unfocus).setEng core
      { s.eng core with run := (s.eng core).run ++ [(s.focusEntry core e).freshRun q e last wr] } := by
  have hcarry : s.carryOut core e = ((s.focusEntry core e).unfocus).setEng core
      { s.eng core with run := (s.eng core).run ++ [(s.focusEntry core e).freshRun q e last wr] } := by
    rw [State.carryOut, hlane, State.startRun_eq]
    rfl
  have hstarted : (((s.carryOut core e).eng core).run.any fun r => r.e.id == e.id && r.k == 0) = true := by
    rw [hcarry, State.eng_setEng_self]
    simp [State.freshRun]
  rw [State.bareRun, if_pos hstarted, hcarry]

end

/-! ## The issue of vadd (R91 to R93, R215, R218) -/

section
variable {s : State} {core : Nat} {e : Entry} {rest : List Entry} {f : FTy} {d a b : GridOp} {k : Option Cont}

/-- The control side once a head has popped its counters. -/
def State.popped (s : State) (core : Nat) (q : Queue) (e : Entry) : Ctl :=
  if e.part then s.ctl core else (s.ctl core).pops (popsOf q e.ins)

/-- The engine side once a head has left its queue. -/
def State.unqueued (s : State) (core : Nat) (q : Queue) (e : Entry) (rest : List Entry) : Eng :=
  if s.tokenMode core then { (s.eng core).setQueue q rest with
    lastA := putKey ((s.eng core).setQueue q rest).lastA q.tag ((s.coach (coachOf core)).tclk, e.n) }
  else (s.eng core).setQueue q rest

/-- The state of which the head of a queue issues. -/
def State.taken (s : State) (core : Nat) (q : Queue) (e : Entry) (rest : List Entry) : State :=
  (s.setCoach (coachOf core) { s.coach (coachOf core) with
    due := (s.coach (coachOf core)).due.filter fun i => i != core * 8 + q.tag }).setCore core
      { s.core core with ctl := s.popped core q e, eng := s.unqueued core q e rest }

theorem State.popped_frame (q : Queue) : s.popped core q e = { s.ctl core with sr := (s.popped core q e).sr } := by
  unfold State.popped
  split
  · rfl
  · exact Ctl.pops_frame ..

theorem State.popped_sr_other (q : Queue) {n : Nat} (hn : n ≠ 0x009) : (s.popped core q e).sr.get n = (s.ctl core).sr.get n := by
  unfold State.popped
  split
  · rfl
  · exact Ctl.pops_sr_other _ _ hn

theorem State.popped_token (hins : e.ins = .vadd f d a b k) (i : Nat) : (s.popped core .v e).token i = (s.ctl core).token i -
    (if e.part = false ∧ ((i = 2 ∧ ∃ c, k = some c ∧ c.pw = true) ∨ (i = 5 ∧ ∃ c, k = some c ∧ c.pe = true)) then 1 else 0) := by
  unfold State.popped
  cases hpart : e.part
  · rw [if_neg (by decide), hins, Ctl.pops_token _ (popsOf_vadd_lt f d a b k), count_popsOf_vadd]
    simp only [true_and]
  · simp

theorem State.unqueued_v : s.unqueued core .v e rest =
    { s.eng core with qv := rest, lastA := (s.unqueued core .v e rest).lastA } := by
  unfold State.unqueued
  split <;> rfl

theorem State.unqueued_lastA (i : Nat) : lookup? (s.unqueued core .v e rest).lastA i =
    if s.tokenMode core = true ∧ i = Queue.v.tag then some ((s.coach (coachOf core)).tclk, e.n) else lookup? (s.eng core).lastA i := by
  unfold State.unqueued
  cases htoken : s.tokenMode core
  · simp [Eng.setQueue]
  · simp [Eng.setQueue, lookup?_putKey]

@[simp] theorem State.taken_core (q : Queue) : (s.taken core q e rest).core core =
    { s.core core with ctl := s.popped core q e, eng := s.unqueued core q e rest } := State.core_setCore_self ..

/-- The counters a head pops are no predicate, so it reads the predicate that stood before. -/
theorem State.taken_predNow (q : Queue) :
    predNow ((s.taken core q e rest).focusEntry core e) k = predNow (s.focusEntry core e) k := by
  cases k with
  | none => rfl
  | some c =>
    have hctl : ((s.taken core q e rest).focusEntry core e).ctl core = s.popped core q e := congrArg Core.ctl (s.taken_core q)
    have hsr : (s.popped core q e).sr.get (0x0C8 + c.q.toNat) = (s.ctl core).sr.get (0x0C8 + c.q.toNat) :=
      s.popped_sr_other q (by omega)
    unfold predNow
    dsimp only
    rw [show ((s.taken core q e rest).focusEntry core e).me = core from rfl, hctl, hsr]
    rfl

/-- A head that leaves its queue leaves the grid alone. -/
theorem State.taken_src (q : Queue) (n : Nat) (g : GridOp) :
    src ((s.taken core q e rest).focusEntry core e) n g = src (s.focusEntry core e) n g := by
  have hdat : ((s.taken core q e rest).focusEntry core e).dat core = s.dat core :=
    (congrArg Core.dat (s.taken_core q)).trans rfl
  funext j
  unfold src
  rw [show ((s.taken core q e rest).focusEntry core e).me = core from rfl, hdat]
  rfl

theorem State.issueHead_vadd (hqueue : (s.eng core).qv = e :: rest) (hins : e.ins = .vadd f d a b k) :
    s.issueHead core .v =
      (((s.taken core .v e rest).focusEntry core e).unfocus).setEng core { s.unqueued core .v e rest with
        run := (s.eng core).run ++ [((s.taken core .v e rest).focusEntry core e).freshRun .v e (f.lat 4 8 - 1)
          [(f.lat 4 8 - 1, ((s.taken core .v e rest).focusEntry core e).binWrite k f d a b (Val.add .rne))]] } := by
  have hissue : s.issueHead core .v = ((s.taken core .v e rest).carryOut core e).bareRun core .v e :=
    State.issueHead_cons (c := s.popped core .v e) (x := s.unqueued core .v e rest) hqueue rfl rfl
  have heng : (s.taken core .v e rest).eng core = s.unqueued core .v e rest := by
    rw [State.eng, State.taken, State.core_setCore_self]
  have hlane := State.lane_vadd ((s.taken core .v e rest).focusEntry core e) (e := e) rfl f d a b k
  rw [← hins] at hlane
  have hrun : (s.unqueued core .v e rest).run = (s.eng core).run := by rw [State.unqueued_v]
  rw [hissue, State.bareRun_carryOut hlane, heng, hrun]

/-- An engine side that changes on a state that differs in cores, coaches and focus alone. -/
theorem State.setEng_frame {v : State} (h : v = { s with cores := v.cores, coaches := v.coaches, focus := v.focus }) (x : Eng) :
    { v.setEng core x with coaches := s.coaches, focus := s.focus } = { s with cores := (v.setEng core x).cores } := by
  have hset : v.setEng core x = { v with cores := (v.setEng core x).cores } := rfl
  rw [hset, h]

/-- What the issue of a head leaves alone, its engine side aside. -/
theorem State.taken_leaves (q : Queue) (x : Eng) :
    let t := (((s.taken core q e rest).focusEntry core e).unfocus).setEng core x
    OnlyCore s { t with coaches := s.coaches, focus := s.focus } core ∧ t.mem = s.mem ∧ t.focus.cur = none ∧
      t.coach (coachOf core) = { s.coach (coachOf core) with
        due := (s.coach (coachOf core)).due.filter fun i => i != core * 8 + q.tag } ∧
      (∀ i, i ≠ coachOf core → t.coach i = s.coach i) ∧ t.dat core = s.dat core ∧ t.ctl core = s.popped core q e ∧ t.eng core = x := by
  intro t
  have hcore : (s.taken core q e rest).core core = _ := s.taken_core q
  have hcoach : ∀ i, t.coach i = (s.setCoach (coachOf core) { s.coach (coachOf core) with
    due := (s.coach (coachOf core)).due.filter fun i => i != core * 8 + q.tag }).coach i := fun _ => rfl
  have hself : t.core core = { (s.taken core q e rest).core core with eng := x } := State.core_setEng_self ..
  rw [hcore] at hself
  refine ⟨⟨State.setEng_frame rfl x, fun i hi => ?_⟩, rfl, rfl, ?_, fun i hi => ?_, (congrArg Core.dat hself).trans rfl,
    congrArg Core.ctl hself, congrArg Core.eng hself⟩
  · exact (State.core_setEng_other _ core i x hi).trans (State.core_setCore_other _ core i _ hi)
  · rw [hcoach, State.coach_setCoach_self]
  · rw [hcoach, State.coach_setCoach_other _ _ _ _ hi]

/-- The run that a vadd at the head of its queue starts. -/
theorem State.issueHead_vadd_run (hqueue : (s.eng core).qv = e :: rest) (hins : e.ins = .vadd f d a b k) :
    ∃ r : Run, s.issueHead core .v = (((s.taken core .v e rest).focusEntry core e).unfocus).setEng core
        { s.unqueued core .v e rest with run := (s.eng core).run ++ [r] } ∧
      r.e = e ∧ r.q = .v ∧ r.t = (s.coach (coachOf core)).tclk ∧ r.k = 0 ∧ r.last = f.lat 4 8 - 1 ∧ r.push = f.lat 4 8 - 1 ∧
      ∃ w, r.wr = [(f.lat 4 8 - 1, w)] ∧
        WritesLine d f.bytes (256 / f.bytes) (cellOn f.bytes (predNow (s.focusEntry core e) k)) (fun j =>
          f.fmt.round .rne (Val.add .rne (f.fmt.decode (src (s.focusEntry core e) f.bytes a j))
            (f.fmt.decode (src (s.focusEntry core e) f.bytes b j)))) w := by
  have hwrite := ((s.taken core .v e rest).focusEntry core e).binWrite_writesLine k f d a b (Val.add .rne)
  rw [State.taken_predNow, State.taken_src, State.taken_src] at hwrite
  have htclk : ((s.taken core .v e rest).coach (coachOf core)).tclk = (s.coach (coachOf core)).tclk := by
    rw [State.taken, State.coach_setCore, State.coach_setCoach_self]
  exact ⟨_, State.issueHead_vadd hqueue hins, rfl, rfl, htclk, rfl, rfl, rfl, _, rfl, hwrite⟩

end

/-! ## The issue of fbar (R327, R333) -/

section
variable {s : State} {core : Nat} {e : Entry} {rest : List Entry} {z : UCont}

/-- The operation that an fbar of a core starts. -/
def State.barrierOp (s : State) (core : Nat) (e : Entry) : Op :=
  { opOf .f e s.cyc s.cyc with
    pos := (s.ctl core).nfbar
    data := ((s.coach (coachOf core)).fab.out.filter fun w => w.core == core).map (·.id) }

/-- The core once an fbar has issued from the head of its F queue. -/
def State.barrierCore (s : State) (core : Nat) (e : Entry) (rest : List Entry) : Core :=
  { s.core core with
    ctl := { s.ctl core with nfbar := (s.ctl core).nfbar + 1 }
    eng := { s.eng core with qf := rest, ops := (s.eng core).ops ++ [s.barrierOp core e] } }

theorem State.lane_fbar (h : s.focus.cur = some e) (hme : s.me = core) : s.lane (.fbar z) =
    s.setCore core { s.core core with
      ctl := { s.ctl core with nfbar := (s.ctl core).nfbar + 1 }
      eng := { s.eng core with ops := (s.eng core).ops ++ [s.barrierOp core e] } } := by
  have hlane : laneExec (.fbar z) s = .next ((s.setCtl core { s.ctl core with nfbar := (s.ctl core).nfbar + 1 }).startOp core
      (s.barrierOp core e)) := by
    show execFbar z s = _
    unfold execFbar
    rw [h, hme]
    rfl
  rw [State.lane, hlane, State.startOp, State.eng_setCtl, State.setCtl_setEng]

/-- A core that is set after its engine side is set once. -/
theorem State.unfocus_setEng_setCore (x : Eng) (y : Core) :
    (((s.setEng core x).focusEntry core e).setCore core y).unfocus = ((s.focusEntry core e).unfocus).setCore core y := by
  simp only [State.setEng, State.setCore, State.focusEntry, State.unfocus, putKey_putKey]

theorem State.issueUntimed_fbar (hqueue : (s.eng core).qf = e :: rest) (hins : e.ins = .fbar z) :
    s.issueUntimed core .f = ((s.focusEntry core e).unfocus).setCore core (s.barrierCore core e rest) := by
  have hissue : s.issueUntimed core .f =
      (((s.setEng core { s.eng core with qf := rest }).focusEntry core e).lane (.fbar z)).unfocus := by
    unfold State.issueUntimed
    simp only [Eng.queue, hqueue, State.carryOut, hins]
    rfl
  have hcore : ((s.setEng core { s.eng core with qf := rest }).focusEntry core e).core core =
      { s.core core with eng := { s.eng core with qf := rest } } := s.core_setEng_self core _
  have hctl : ((s.setEng core { s.eng core with qf := rest }).focusEntry core e).ctl core = s.ctl core :=
    (congrArg Core.ctl hcore).trans rfl
  have heng : ((s.setEng core { s.eng core with qf := rest }).focusEntry core e).eng core = { s.eng core with qf := rest } :=
    congrArg Core.eng hcore
  rw [hissue, State.lane_fbar (core := core) rfl rfl, State.unfocus_setEng_setCore]
  rw [State.barrierOp, hctl, heng, hcore]
  rfl

theorem fQueueIssue_fbar (hstand : (s.coach (coachOf core)).stand = .running) (hqueue : (s.eng core).qf = e :: rest) (hins : e.ins = .fbar z)
    (hready : s.untimedReady core .f e = true) :
    exec (.fQueueIssue core) s = .next ((((s.focusEntry core e).unfocus).setCore core (s.barrierCore core e rest)).settleSigs core) := by
  have hhead : s.headOf core .f = some e := by rw [State.headOf, Eng.queue, hqueue, List.head?_cons]
  show execFQueueIssue core s = _
  unfold execFQueueIssue
  simp only [hhead, hstand, hready, beq_self_eq_true, Bool.and_self, if_true, State.issueUntimed_fbar hqueue hins]

end

/-- Settles O52: nominal cycles by the cases of the model's own, q.wait and q.sig by the one rule of enqueue, and the three issues by what each
makes of the core's control and engine sides. -/
theorem issueCyclesAndQueueSignals : Obligations.IssueCyclesAndQueueSignals := by
  refine ⟨?_, ?_, ?_, ?_, ?_⟩
  · intro q c s hq
    exact ⟨nominalOf_cont s hq c, fun p hp => nominalOf_next s hq hp, nominalOf_first s hq⟩
  · intro q n aw k s hq
    exact ⟨qWait_enqueues s hq n k, qSig_enqueues s hq aw k⟩
  · intro core it d imm s c hlive hblocks _ hhandler hmain hdepth hbrk hdefer hflow hpend hacc hfst hsigs hlegal hparts hq hins
    have hstand : c.stand = .running := by
      simp only [State.coreLive, Bool.and_eq_true, beq_iff_eq] at hlive
      exact hlive.1.2
    rw [hparts] at hlegal
    exact lineDispatch_li hlive ⟨hstand, hdefer, hflow, hfst, hacc, hdepth, hbrk⟩ hblocks hhandler hmain hpend hsigs hparts hlegal hq hins
  · intro core f d a b k e rest s kc u v x lat key hplace hdue hqueue hins
    refine ⟨State.openCycle_opened, ?_⟩
    have hexec : exec (.timedIssue core .v) s = .next (u.issueHead core .v) := by
      show execTimedIssue core .v s = _
      rw [execTimedIssue, if_pos hplace, if_pos hdue]
    have hmem : u.mem = s.mem := (s.openCycle_same kc).2
    clear_value u
    obtain ⟨r, hissue, hrun⟩ := State.issueHead_vadd_run hqueue hins
    have hleft := u.taken_leaves (core := core) (e := e) (rest := rest) .v { u.unqueued core .v e rest with run := x.run ++ [r] }
    rw [← hissue] at hleft
    generalize u.issueHead core .v = t at hexec hleft
    obtain ⟨honly, hbytes, hcur, hcoach, hothers, hdat, hctl, heng⟩ := hleft
    refine ⟨t, hexec, honly, fun n => by rw [hbytes, hmem], hcur, hcoach, hothers, hdat, ?_, fun n hn => ?_, fun i _ => ?_, r,
      ?_, fun i => ?_, hrun⟩
    · rw [hctl]
      exact u.popped_frame .v
    · rw [hctl]
      exact u.popped_sr_other .v hn
    · rw [hctl]
      exact u.popped_token hins i
    · rw [heng, State.unqueued_v]
    · rw [heng]
      exact u.unqueued_lastA i
  · intro core z e rest s kc hstand hqueue hins hready hsigs
    have hleft := ((s.focusEntry core e).unfocus).settleSigs_setCore core (x := s.barrierCore core e rest) hsigs
    have hexec := fQueueIssue_fbar hstand hqueue hins hready
    generalize (((s.focusEntry core e).unfocus).setCore core (s.barrierCore core e rest)).settleSigs core = t at hexec hleft
    obtain ⟨honly, hbytes, hctl, heng, hdat⟩ := hleft
    refine ⟨t, hexec, ⟨?_, honly.2⟩, hbytes, ?_, hdat, hctl, _, heng, ⟨rfl, rfl, rfl, rfl, rfl, rfl, Nat.le_refl _⟩, rfl, rfl⟩
    · rw [honly.1]
      rfl
    · rw [honly.1]
      rfl

end Sys2Proof.Machine
end
